-- ==== Sys2Proof/Word.lean ====
section
/-! DEFINITION. The machine's word types (R5, R30, R57, R72): a register element is 64 bits, an instruction
is 32 bits, memory is bytes, a lane image is 1,024 bits. -/

namespace Sys2Proof

/-- One 64-bit register element (R72). -/
abbrev Word := BitVec 64

/-- One instruction word (R30). -/
abbrev Code := BitVec 32

/-- The smallest addressable unit of memory. -/
abbrev Byte := BitVec 8

/-- A lane image: bit l stands for lane l (R57). Thirty-two words of 32 bits. -/
abbrev Mask := BitVec 1024

/-- One value for each lane of a team, lane 0 first (one register, one drift entry). -/
abbrev LaneVec := List Word

end Sys2Proof
end

