-- ==== Sys2Proof/Syntax.lean ====
section
/-! DEFINITION. The instruction set as data: one constructor of `Instr` for each row of spec/opcode_table.json.
The first 208 rows are instruction words (R30 to R52). The other 67 rows are steps of the machine that no word
encodes (95_what_each_step_holds): their constructors name what the step concerns. -/

namespace Sys2Proof

/-! ### Operand forms (R34, R35, R37) -/

/-- A source operand code (R34). -/
inductive Src where
  | d (n : Fin 16)
  | k (n : Fin 32)
  | q (n : Fin 8)
  | s (n : Fin 8)
deriving DecidableEq, Repr

/-- A destination operand code (R34): `-` is the drift only. Codes 1 to 15 are illegal and have no constructor. -/
inductive Dst where
  | drift
  | k (n : Fin 32)
  | q (n : Fin 8)
  | s (n : Fin 8)
deriving DecidableEq, Repr

/-- The guard field (R37). g = 0111 is illegal and has no constructor. -/
inductive Guard where
  | always
  | when (p : Fin 7)
  | unless (p : Fin 7)
deriving DecidableEq, Repr

/-- A predicate as a source (R35): code 7 reads as constant true. -/
inductive PSrc where
  | p (n : Fin 7)
  | tt
deriving DecidableEq, Repr

/-- The operating width of rows 0x1 and 0x2 (R94). -/
inductive IWidth where
  | w64
  | w32
deriving DecidableEq, Repr

/-- Comparison conditions of `cmp` and `cmpn` (R109). -/
inductive Cond where
  | eq | ne | lt | le | gt | ge
deriving DecidableEq, Repr

/-- Comparison conditions of `fcmp` (R110). -/
inductive FCond where
  | eq | ne | lt | le | gt | ge | un | or
deriving DecidableEq, Repr

/-- Immediate shifts (R107). -/
inductive ShiftOp where
  | shl | shr | sar | rol
deriving DecidableEq, Repr

/-- Source sizes of `ext` (R102). -/
inductive ExtFrom where
  | b8 | b16 | b32
deriving DecidableEq, Repr

/-- The eight functions of `pset` (R113). -/
inductive PFn where
  | and | or | xor | andn | nand | nor | xnor | orn
deriving DecidableEq, Repr

/-- `vote` (R113). -/
inductive VoteFn where
  | some | every | same
deriving DecidableEq, Repr

/-- Vector float formats (R123). -/
inductive FFmt where
  | f32 | bf16x4 | f16x4
deriving DecidableEq, Repr

/-- Rounding attributes (R44 ROUND, R126, R133). -/
inductive RMode where
  | rn | rz | ru | rd
deriving DecidableEq, Repr

/-- Integer types of `cvtif` and `cvtfi` (R132, R133). -/
inductive IType where
  | i64 | n64 | i32 | n32
deriving DecidableEq, Repr

/-- Target codes of `cvtn` and `cvtw` (R129). -/
inductive NarrowFmt where
  | n8 | i8 | n4 | i4 | f16 | bf16 | e4m3 | e5m2 | e2m3 | e3m2 | e2m1 | firn8 | firn6
deriving DecidableEq, Repr

/-- `pack` formats (R134). -/
inductive PackFmt where
  | bf16 | f16
deriving DecidableEq, Repr

/-- `unpk` selections (R135). -/
inductive UnpkSel where
  | bf16lo | bf16hi | f16lo | f16hi
deriving DecidableEq, Repr

/-- `shfl` and `shflt` forms (R116). -/
inductive ShflOp where
  | from | pair | rise | fall
deriving DecidableEq, Repr

/-- `bcast` forms (R118). -/
inductive BcastOp where
  | lane | lo | hi
deriving DecidableEq, Repr

/-- Operations of `tred` and `tscan` (R119). -/
inductive RedOp where
  | add | min | max | or
deriving DecidableEq, Repr

/-- `ftred` types (R120). -/
inductive FtredTy where
  | f32 | c32
deriving DecidableEq, Repr

/-- Orderings of row 0x9 (R223). -/
inductive AOrd where
  | relaxed | acquire | release | acqRel
deriving DecidableEq, Repr

/-- Operations of `red` (R228), and of `ratom` and `rred` beside (R274, R275). -/
inductive AtomOp where
  | add | and | or | xor | min | max | minn | maxn | fadd
deriving DecidableEq, Repr

/-- Operations of `ratom` (R274). -/
inductive RatomOp where
  | op (o : AtomOp)
  | swp
  | cas
deriving DecidableEq, Repr

/-- Copy paths of `cdrain` (R231). -/
inductive CPath where
  | scratch | vault | dram | remote
deriving DecidableEq, Repr

/-- The m field of format X (R51): 8, 16 or 32 rows. -/
inductive MRows where
  | m8 | m16 | m32
deriving DecidableEq, Repr

/-- Tile kinds (R143, R155). -/
inductive TKind where
  | f32 | i32 | cf32
deriving DecidableEq, Repr

/-- `mxfer` operations (R159). -/
inductive XferOp where
  | mov | add | adds
deriving DecidableEq, Repr

/-- What the engine of a command does next (R246): it reads bytes i to i + n − 1 of the chunk that a segment stands at, or
writes bytes it has read, or ends the command. A chunk's bytes may go in several acts (R192, R244). -/
inductive EngAct where
  | read (seg i n : Nat)
  | write (seg i n : Nat)
  | finish
deriving DecidableEq, Repr

/-- What a remote packet does: its source is read and it is sent, or it arrives and is applied (R270, R271); on its way to
another device the relay buffer of a site takes it, or sends it on (R268). -/
inductive RemAct where
  | send
  | apply
  | relay (via : Nat)
  | forward
deriving DecidableEq, Repr

/-- What waits for delivery: a remote operation, or a team inside a remote promise instruction (R269, R304). -/
inductive DelivRef where
  | op (id : Nat)
  | team (id : Nat)
deriving DecidableEq, Repr

/-- What a thaw writes out: a team's rows, its scratch bytes, or the core's matrix state (R344). -/
inductive ThawWhat where
  | rows
  | scratch
  | matrix
deriving DecidableEq, Repr

/-- A reading in mV of a rail that a site's regulator watches: its 48 V input, or the core rail (R385). -/
inductive SupplyReading where
  | input (millivolts : Nat)
  | core (millivolts : Nat)
deriving DecidableEq, Repr

/-- Watchdogs other than the fault buffer's and the handler's (R367). -/
inductive WatchKind where
  | engineIdle (engine : Nat)
  | journalCommit
  | thawBound
  | sequencerIdle (core : Nat)
deriving DecidableEq, Repr

/-- One row of the opcode table. Field letters: g guard, d destination, a b sources, p predicate destination,
kb first register of the argument block, off an offset or displacement. -/
inductive Instr where
  -- row 0x0: control (R53 to R64)
  | ill (w : Code)
  | nop (g : Guard)
  | br (g : Guard) (disp : BitVec 20)
  | brany (g : Guard) (disp : BitVec 20)
  | brall (g : Guard) (disp : BitVec 20)
  | call (g : Guard) (disp : BitVec 20)
  | jmpi (g : Guard) (n : Fin 8)
  | calli (g : Guard) (n : Fin 8)
  | ret (g : Guard)
  | ifThen (g : Guard) (disp : BitVec 20)
  | elseArm (disp : BitVec 20)
  | endIf
  | loop (disp : BitVec 20)
  | brk (g : Guard)
  | cont (g : Guard)
  | endLoop (disp : BitVec 20)
  | exit (g : Guard)
  | teamRetire (team : Nat)
  -- row 0x1: integer arithmetic (R94 to R98)
  | add (g : Guard) (d : Dst) (a b : Src) (f : IWidth)
  | sub (g : Guard) (d : Dst) (a b : Src) (f : IWidth)
  | mul (g : Guard) (d : Dst) (a b : Src) (f : IWidth)
  | mulh (g : Guard) (d : Dst) (a b : Src) (f : IWidth)
  | mulhn (g : Guard) (d : Dst) (a b : Src) (f : IWidth)
  | mad (g : Guard) (d : Dst) (a b : Src) (f : IWidth)
  | div (g : Guard) (d : Dst) (a b : Src) (f : IWidth)
  | divn (g : Guard) (d : Dst) (a b : Src) (f : IWidth)
  | rem (g : Guard) (d : Dst) (a b : Src) (f : IWidth)
  | remn (g : Guard) (d : Dst) (a b : Src) (f : IWidth)
  | min (g : Guard) (d : Dst) (a b : Src) (f : IWidth)
  | max (g : Guard) (d : Dst) (a b : Src) (f : IWidth)
  | minn (g : Guard) (d : Dst) (a b : Src) (f : IWidth)
  | maxn (g : Guard) (d : Dst) (a b : Src) (f : IWidth)
  | adds (g : Guard) (d : Dst) (a b : Src) (f : IWidth)
  | subs (g : Guard) (d : Dst) (a b : Src) (f : IWidth)
  -- row 0x2: logic and bits (R99 to R103)
  | and (g : Guard) (d : Dst) (a b : Src) (f : IWidth)
  | or (g : Guard) (d : Dst) (a b : Src) (f : IWidth)
  | xor (g : Guard) (d : Dst) (a b : Src) (f : IWidth)
  | andn (g : Guard) (d : Dst) (a b : Src) (f : IWidth)
  | shl (g : Guard) (d : Dst) (a b : Src) (f : IWidth)
  | shr (g : Guard) (d : Dst) (a b : Src) (f : IWidth)
  | sar (g : Guard) (d : Dst) (a b : Src) (f : IWidth)
  | rol (g : Guard) (d : Dst) (a b : Src) (f : IWidth)
  | clz (g : Guard) (d : Dst) (a : Src) (f : IWidth)
  | ctz (g : Guard) (d : Dst) (a : Src) (f : IWidth)
  | popc (g : Guard) (d : Dst) (a : Src) (f : IWidth)
  | brev (g : Guard) (d : Dst) (a : Src) (f : IWidth)
  | bfx (g : Guard) (d : Dst) (a b : Src) (f : IWidth)
  | bfi (g : Guard) (d : Dst) (a b : Src) (f : IWidth)
  | ext (g : Guard) (d : Dst) (a : Src) (sign : Bool) (f : ExtFrom)
  | neg (g : Guard) (d : Dst) (a : Src)
  | abs (g : Guard) (d : Dst) (a : Src)
  | not (g : Guard) (d : Dst) (a : Src)
  -- row 0x3: immediates, comparisons, predicates (R104 to R114)
  | li (g : Guard) (d : Dst) (i : BitVec 14)
  | addi (g : Guard) (d : Dst) (a : Src) (i : BitVec 8)
  | andi (g : Guard) (d : Dst) (a : Src) (i : BitVec 6)
  | ori (g : Guard) (d : Dst) (a : Src) (i : BitVec 6)
  | xori (g : Guard) (d : Dst) (a : Src) (i : BitVec 6)
  | shi (g : Guard) (d : Dst) (a : Src) (f : ShiftOp) (c : BitVec 6)
  | lea (g : Guard) (d : Dst) (a b : Src) (f : Fin 4)
  | cmp (g : Guard) (p : Fin 7) (c : Cond) (a b : Src) (f : IWidth)
  | cmpn (g : Guard) (p : Fin 7) (c : Cond) (a b : Src) (f : IWidth)
  | sel (g : Guard) (d : Dst) (a b : Src)
  | pset (g : Guard) (p : Fin 7) (a b : PSrc) (f : PFn)
  | pmov (g : Guard) (p : Fin 7) (a : PSrc) (inv : Bool)
  | vote (g : Guard) (p : Fin 7) (a : PSrc) (f : VoteFn)
  | ballot (g : Guard) (a : PSrc)
  | fcmp (g : Guard) (p : Fin 7) (c : FCond) (a b : Src)
  | fclass (g : Guard) (d : Dst) (a : Src)
  -- row 0x4: float arithmetic (R123 to R126)
  | fadd (g : Guard) (d : Dst) (a b : Src) (f : FFmt)
  | fsub (g : Guard) (d : Dst) (a b : Src) (f : FFmt)
  | fmul (g : Guard) (d : Dst) (a b : Src) (f : FFmt)
  | ffma (g : Guard) (d : Dst) (a b : Src) (f : FFmt)
  | fmin (g : Guard) (d : Dst) (a b : Src) (f : FFmt)
  | fmax (g : Guard) (d : Dst) (a b : Src) (f : FFmt)
  | fabs (g : Guard) (d : Dst) (a : Src) (f : FFmt)
  | fneg (g : Guard) (d : Dst) (a : Src) (f : FFmt)
  | frcp (g : Guard) (d : Dst) (a : Src)
  | fsqrt (g : Guard) (d : Dst) (a : Src)
  | frsq (g : Guard) (d : Dst) (a : Src)
  | fex2 (g : Guard) (d : Dst) (a : Src)
  | flg2 (g : Guard) (d : Dst) (a : Src)
  | fdiv (g : Guard) (d : Dst) (a b : Src)
  | fround (g : Guard) (d : Dst) (a : Src) (f : RMode)
  -- row 0x5: complex and error-free (R127, R128)
  | cadd (g : Guard) (d : Dst) (a b : Src)
  | csub (g : Guard) (d : Dst) (a b : Src)
  | cmul (g : Guard) (d : Dst) (a b : Src)
  | cfma (g : Guard) (d : Dst) (a b : Src)
  | cconj (g : Guard) (d : Dst) (a : Src)
  | cabs2 (g : Guard) (d : Dst) (a : Src)
  | twosum (g : Guard) (d : Dst) (a b : Src)
  | twoprod (g : Guard) (d : Dst) (a b : Src)
  | cpack (g : Guard) (d : Dst) (a b : Src)
  | cpart (g : Guard) (d : Dst) (a : Src) (im : Bool)
  -- row 0x6: conversions (R129 to R136)
  | cvtif (g : Guard) (d : Dst) (a : Src) (t : IType)
  | cvtfi (g : Guard) (d : Dst) (a : Src) (t : IType) (f : RMode)
  | cvtn (g : Guard) (d : Dst) (a : Src) (b : NarrowFmt)
  | cvtw (g : Guard) (d : Dst) (a : Src) (b : NarrowFmt)
  | cvtmx (g : Guard) (d : Dst) (a : Src) (b : BitVec 6)
  | pack (g : Guard) (d : Dst) (a b : Src) (f : PackFmt)
  | unpk (g : Guard) (d : Dst) (a : Src) (f : UnpkSel)
  -- row 0x7: lanes (R115 to R120)
  | shfl (g : Guard) (d : Dst) (a b : Src) (f : ShflOp)
  | shflt (g : Guard) (d : Dst) (a b : Src) (f : ShflOp)
  | bcast (g : Guard) (d : Dst) (a b : Src) (f : BcastOp)
  | tred (g : Guard) (d : Dst) (a : Src) (f : RedOp)
  | tscan (g : Guard) (d : Dst) (a : Src) (excl : Bool) (f : RedOp)
  | ftred (g : Guard) (d : Dst) (a : Src) (f : FtredTy)
  -- row 0x8: loads and stores (R219 to R222)
  | ldI8 (g : Guard) (d : Dst) (b : Src) (off : BitVec 8)
  | ldN8 (g : Guard) (d : Dst) (b : Src) (off : BitVec 8)
  | ldI16 (g : Guard) (d : Dst) (b : Src) (off : BitVec 8)
  | ldN16 (g : Guard) (d : Dst) (b : Src) (off : BitVec 8)
  | ldI32 (g : Guard) (d : Dst) (b : Src) (off : BitVec 8)
  | ldN32 (g : Guard) (d : Dst) (b : Src) (off : BitVec 8)
  | ld64 (g : Guard) (d : Dst) (b : Src) (off : BitVec 8)
  | ldp (g : Guard) (d : Dst) (b : Src) (off : BitVec 8)
  | st8 (g : Guard) (d : Src) (b : Src) (off : BitVec 8)
  | st16 (g : Guard) (d : Src) (b : Src) (off : BitVec 8)
  | st32 (g : Guard) (d : Src) (b : Src) (off : BitVec 8)
  | st64 (g : Guard) (d : Src) (b : Src) (off : BitVec 8)
  | stp (g : Guard) (d : Src) (b : Src) (off : BitVec 8)
  | ldx (g : Guard) (d : Dst) (a b : Src) (f : Fin 4)
  | stx (g : Guard) (d : Src) (a b : Src) (f : Fin 4)
  | ldu (g : Guard) (d : Dst) (b : Src) (off : BitVec 8)
  | loadReturn (team load : Nat) (lanes : Mask)
  | writeBufferDrain (core bank : Nat)
  -- row 0x9: atomics (R223 to R228)
  | aadd (g : Guard) (d : Dst) (a b : Src) (f : AOrd)
  | aand (g : Guard) (d : Dst) (a b : Src) (f : AOrd)
  | aor (g : Guard) (d : Dst) (a b : Src) (f : AOrd)
  | axor (g : Guard) (d : Dst) (a b : Src) (f : AOrd)
  | amin (g : Guard) (d : Dst) (a b : Src) (f : AOrd)
  | amax (g : Guard) (d : Dst) (a b : Src) (f : AOrd)
  | aminn (g : Guard) (d : Dst) (a b : Src) (f : AOrd)
  | amaxn (g : Guard) (d : Dst) (a b : Src) (f : AOrd)
  | aswp (g : Guard) (d : Dst) (a b : Src) (f : AOrd)
  | acas (g : Guard) (d : Dst) (a b : Src) (f : AOrd)
  | afadd (g : Guard) (d : Dst) (a b : Src) (f : AOrd)
  | red (g : Guard) (o : AtomOp) (a b : Src) (f : AOrd)
  -- row 0xA: ordering and transactions (R229 to R240)
  | fence (g : Guard)
  | xfence (g : Guard)
  | cdrain (g : Guard) (f : CPath)
  | txbeg (disp : BitVec 20)
  | txend
  | txabt (g : Guard) (a : Src)
  | txst (g : Guard) (d : Dst) (rel : Bool)
  | ldacq (g : Guard) (d : Dst) (b : Src) (off : BitVec 8)
  | strel (g : Guard) (d : Src) (b : Src) (off : BitVec 8)
  | pfetch (g : Guard) (b : Src) (off : BitVec 8)
  -- row 0xB: engines, counters, fork sets (R242 to R259)
  | cpy (g : Guard) (kb : Fin 32) (c : Bool)
  | cpy2 (g : Guard) (kb : Fin 32) (c : Bool)
  | gath (g : Guard) (kb : Fin 32) (s : Fin 7) (c : Bool)
  | scat (g : Guard) (kb : Fin 32) (s : Fin 7) (c : Bool)
  | cfill (g : Guard) (kb : Fin 32) (c : Bool)
  | engineCommandComplete (cmd : Nat) (act : EngAct)
  | segmentReplay (cmd seg : Nat)
  | copyKernelRewrite (cmd : Nat)
  | cinc (g : Guard) (kb : Fin 32)
  | counterIncrement (inc : Nat)
  | cwait (g : Guard) (kb : Fin 32)
  | cwaitExpiry (team : Nat)
  | arm (g : Guard) (kb : Fin 32)
  | fork (g : Guard) (d : Dst) (a : Src) (c : Bool)
  | join (g : Guard) (a : Src)
  | cstat (g : Guard) (d : Dst) (a : Src) (arm : Bool)
  | entriesExhaustedExpiry (team : Nat)
  -- row 0xC: matrix (R149 to R161)
  | rload (g : Guard) (n : BitVec 6) (kb : Fin 32)
  | mloop (g : Guard) (m : MRows) (n : BitVec 6) (kb : Fin 32) (t : Fin 8) (acc : Bool)
  | mloopSp (g : Guard) (m : MRows) (n : BitVec 6) (kb : Fin 32) (t : Fin 8) (acc : Bool)
  | mdrain (g : Guard) (m : MRows) (n : BitVec 6) (kb : Fin 32) (t : Fin 8) (s : Bool)
  | mzero (g : Guard) (m : MRows) (n : BitVec 6) (t : Fin 8) (k : TKind)
  | mcol (g : Guard) (n : BitVec 6) (kb : Fin 32)
  | mload (g : Guard) (m : MRows) (n : BitVec 6) (kb : Fin 32) (t : Fin 8) (k : TKind)
  | mxfer (g : Guard) (m : MRows) (n : BitVec 6) (kb : Fin 32) (t : Fin 8) (o : XferOp)
  | mprog (g : Guard) (t : Fin 8) (clr : Bool)
  | mwait (g : Guard) (t : Fin 8) (rel : Bool) (all : Bool)
  | matrixSequencerProgress (core : Nat)
  | matrixUnitHandover (core : Nat)
  | matrixUnitWaitExpiry (team : Nat)
  | rimeScrub (core : Nat) (badRow : Option Nat)
  -- row 0xD: barriers, promises, spawning (R296 to R319)
  | bari (g : Guard) (kb : Fin 32)
  | barr (g : Guard) (d : Dst) (b : Src) (off : BitVec 8)
  | barw (g : Guard) (p : Fin 7) (off : BitVec 5) (a b : Src)
  | bard (g : Guard) (b : Src) (off : BitVec 8)
  | pinit (g : Guard) (b : Src) (off : BitVec 8)
  | pfill (g : Guard) (d : Src) (b : Src) (off : BitVec 8)
  | pwait (g : Guard) (d : Dst) (b : Src) (off : BitVec 8)
  | ptest (g : Guard) (p : Fin 7) (off : BitVec 5) (b : Src)
  | peq (g : Guard) (a b : Src)
  | pcomp (g : Guard) (b : Src) (off : BitVec 8)
  | spawn (g : Guard) (kb : Fin 32)
  | binTimerExpiry (site bin : Nat)
  | launch (g : Guard) (a : Src)
  | launcht (g : Guard) (p : Fin 7) (a : Src)
  | launchStalledExpiry (team : Nat)
  | deviceLaunchQueueDrain (part : Nat)
  | yield (g : Guard)
  -- row 0xE: remote operations and collectives (R270 to R277, R320 to R329)
  | rput (g : Guard) (kb : Fin 32) (n : Bool) (o : Bool)
  | rget (g : Guard) (kb : Fin 32) (n : Bool)
  | ratom (g : Guard) (kb : Fin 32) (w32 : Bool) (c : RatomOp)
  | rred (g : Guard) (kb : Fin 32) (n : Bool) (w32 : Bool) (c : AtomOp)
  | xput (g : Guard) (kb : Fin 32) (n : Bool)
  | xopen (g : Guard) (kb : Fin 32)
  | xred (g : Guard) (kb : Fin 32)
  | xclose (g : Guard) (a : Src)
  | rfence (g : Guard)
  | rname (g : Guard) (d : Dst) (a : Src)
  | remotePacketApply (op : Nat) (act : RemAct)
  | remoteCompletion (op : Nat)
  | deliveryTimeout (ref : DelivRef)
  | rotorSlot (site : Nat) (adjust : Int)
  | pdcTeardown (site pdc : Nat)
  | reductionPacketArrive (pkt : Nat)
  | nodeForwardDeadline (site inst h j : Nat)
  | nodeCloseDeadline (site inst h j : Nat)
  | noReductionSlotExpiry (team : Nat)
  | xcloseRemoteFailed (team : Nat)
  -- row 0xF: hints, special registers, system (R42 to R46, R65 to R69, R356 to R366)
  | imm (v : BitVec 24)
  | immh (v : BitVec 24)
  | mod (p : BitVec 12)
  | sget (g : Guard) (d : Dst) (n : BitVec 6)
  | sset (g : Guard) (a : Src) (n : BitVec 6)
  | qcfg (g : Guard) (q : Fin 8) (a : Src) (depth1 : BitVec 4) (count : BitVec 4)
  | trap (g : Guard) (c : BitVec 14)
  | eret
  | ctxs (g : Guard) (kb : Fin 32)
  | ctxr (g : Guard) (kb : Fin 32)
  | tlbi (g : Guard) (a : Src)
  | tlbiName (g : Guard) (a : Src)
  | tlbiAll (g : Guard)
  | fbpop (g : Guard) (d : Dst)
  | fbpopW1 (g : Guard) (d : Dst)
  | frz (g : Guard) (kb : Fin 32)
  | frzDetail (g : Guard) (kb : Fin 32)
  | frzRelease (g : Guard) (kb : Fin 32)
  | pidx (g : Guard) (d : Dst) (a : Src)
  | pidxSet (g : Guard) (a b : Src)
  -- steps of the scheduler, the recovery machinery and the outside world
  | faultBufferWatchdog (site : Nat)
  | hostNotify (site : Nat) (value : Word) (tenant : Nat)
  | chunkRefetch (site q : Nat)
  | launchAccept (part : Nat)
  | teamAdmit (team core : Nat)
  | teamAged (team : Nat)
  | gangReserve (part launch : Nat)
  | gangCommit (part launch : Nat)
  | gangBackoffExpiry (part launch : Nat)
  | tswitchGo (site next : Nat)
  | sliceDeadline (site : Nat)
  | handlerWatchdog (site : Nat)
  | rowThaw (team : Nat) (what : ThawWhat)
  | teamResume (team : Nat)
  | tenantDescriptorWrite (site ofs size : Nat) (value : BitVec 128) (monitor : Bool)
  | tvbdefWrite (site i : Nat) (value : Word)
  | hqcfgWrite (site q : Nat) (value : Word)
  | rselcfgWrite (site : Nat) (value : Word)
  | controlRegisterWrite (site ofs : Nat) (value : Word) (monitor : Bool)
  | freeze (site unit : Nat) (detail : BitVec 96)
  | partitionRecovery (part : Nat) (failed : List Nat) (lostReplicas : List Nat)
  | journalReplicaRebuild (part : Nat) (target : Nat)
  | watchdogTimeout (site : Nat) (k : WatchKind)
  | supplyFault (site : Nat) (reading : SupplyReading)
  | powerLoss (site : Nat)
  | thermalSample (site cluster tenths : Nat)
  | powerOnReset (dev : Nat)
  | deviceReset (site : Nat)
  | siteReset (site : Nat)
  | partitionBuild (dev : Nat) (sites : List Nat) (key reserved base : Nat) (time : Nat) (sig : List Byte)
  | partitionTeardown (part : Nat) (sig : List Byte)
  /-- the message: the 256 bytes of the record, then its signature (R373, R389) -/
  | reinstatementRecord (dev : Nat) (record : List Byte)
  | firmwareUpdate (site : Nat) (image sig : List Byte) (complete : Bool)
  | firmwareImageAnnounce (site : Nat) (length : Nat)
  | attestationRequest (site : Nat) (nonce : List Byte) (kind : Nat)
  | attestationReportDone (site : Nat)
  | hostBar4Access (site ofs : Nat) (write : Option (List Byte))
  | writeQueueApply (team op lane : Nat)
  | portLost (site port : Nat)
  | portRestored (site port : Nat)
  | deliveryRetransmit (ref : DelivRef)
deriving DecidableEq, Repr

end Sys2Proof
end

