-- ==== Sys2Proof/WellFormed.lean ====
section
/-! DEFINITION. What the operand types do not already exclude: the field values that R33 leaves unassigned, form by
form. A word that breaks one of these raises the illegal-class trap of R33 when a lane is active (R39, R49 step 1). -/

namespace Sys2Proof

/-- `ldp` names an even `k` register (R220). -/
def wfLdp : Dst → Bool
  | .k n => n.val % 2 == 0
  | _ => false

/-- `stp` names an even `k` register (R220). -/
def wfStp : Src → Bool
  | .k n => n.val % 2 == 0
  | _ => false

/-- `cvtmx` takes the five element formats 0x7 to 0xB (R136). -/
def wfCvtmx (b : BitVec 6) : Bool := 7 ≤ b.toNat && b.toNat ≤ 11

/-- `bcast.lo` and `bcast.hi` have b = 000000 (R118). -/
def wfBcast (f : BcastOp) (b : Src) : Bool :=
  match f with
  | .lane => true
  | .lo => b == .d 0
  | .hi => b == .d 0

/-- `fork` and `cstat` have a = 000000 unless f = 01 (R257, R259). -/
def wfOptA (c : Bool) (a : Src) : Bool := c || a == .d 0

/-- `qcfg`: the count is at most the depth, and with count 0 the a field is 000000 (R69). -/
def wfQcfg (a : Src) (depth1 count : BitVec 4) : Bool :=
  count.toNat ≤ depth1.toNat + 1 && (count != 0 || a == .d 0)

/-- `sget` names a register of the table, 0 to 27 (R52, R66, R67). -/
def wfSget (n : BitVec 6) : Bool := n.toNat ≤ 27

/-- `sset` names a register that some level may write: TENANT, TVB, FMT, MSEL, MWORD (R66, R67). -/
def wfSset (n : BitVec 6) : Bool :=
  n.toNat == 18 || n.toNat == 20 || n.toNat == 22 || n.toNat == 24 || n.toNat == 25

/-- `mwait.all` has tile field 000 (R161). -/
def wfMwait (t : Fin 8) (all : Bool) : Bool := !all || t == 0

/-- Opcodes 0x00 and 0xFF (R52, R64). -/
def wfIll (w : Code) : Bool := w.toNat / 0x1000000 == 0 || w.toNat / 0x1000000 == 255

/-- The fields of i hold only values that the spec assigns. Rows without an instruction word hold nothing to check. -/
def WellFormed : Instr → Bool
  | .ill w => wfIll w
  | .ldp _ d _ _ => wfLdp d
  | .stp _ d _ _ => wfStp d
  | .cvtmx _ _ _ b => wfCvtmx b
  | .bcast _ _ _ b f => wfBcast f b
  | .fork _ _ a c => wfOptA c a
  | .cstat _ _ a c => wfOptA c a
  | .qcfg _ _ a e c => wfQcfg a e c
  | .sget _ _ n => wfSget n
  | .sset _ _ n => wfSset n
  | .mwait _ t _ all => wfMwait t all
  | _ => true

end Sys2Proof
end

