-- ==== Sys2Proof/Decode.lean ====
section
/-! DEFINITION. From instruction words to `Instr` and back (R30 to R37, R50 to R52). `decode` is total: it answers
the row's instruction, or says by name what the word breaks. The checks that join two fields stand in WellFormed;
a decoded word that fails them takes the same illegal-class trap when it runs. -/

namespace Sys2Proof

/-- Why a word is no instruction (R33, R34, R35, R37, R52). -/
inductive DecodeError where
  /-- the opcode byte selects nothing (R52) -/
  | opcode
  /-- g = 0111, or a guard other than 1111 where only 1111 is legal (R37, R59, R234, R238, R357) -/
  | guard
  /-- a destination code 000001 to 001111, or pd = 111 (R34, R35) -/
  | destination
  /-- an unused field that is not zero, or a value that is not assigned (R33) -/
  | field
deriving DecidableEq, Repr

/-- Bits [lo + len − 1 : lo] of a word. -/
def bits (w : Code) (lo len : Nat) : BitVec len := w.extractLsb' lo len

/-! ### Field decoders -/

def decGuard (g : BitVec 4) : Except DecodeError Guard :=
  if h : g.toNat < 7 then .ok (.when ⟨g.toNat, h⟩)
  else if h : 8 ≤ g.toNat ∧ g.toNat < 15 then .ok (.unless ⟨g.toNat - 8, by omega⟩)
  else if g.toNat = 15 then .ok .always
  else .error .guard

def decSrc (c : BitVec 6) : Src :=
  if h : c.toNat < 16 then .d ⟨c.toNat, h⟩
  else if h : c.toNat < 48 then .k ⟨c.toNat - 16, by omega⟩
  else if h : c.toNat < 56 then .q ⟨c.toNat - 48, by omega⟩
  else .s ⟨c.toNat - 56, by have := c.isLt; omega⟩

def decDst (c : BitVec 6) : Except DecodeError Dst :=
  match decSrc c with
  | .d n => if n.val = 0 then .ok .drift else .error .destination
  | .k n => .ok (.k n)
  | .q n => .ok (.q n)
  | .s n => .ok (.s n)

def decPDst (p : BitVec 3) : Except DecodeError (Fin 7) :=
  if h : p.toNat < 7 then .ok ⟨p.toNat, h⟩ else .error .destination

def decPSrc (p : BitVec 3) : PSrc :=
  if h : p.toNat < 7 then .p ⟨p.toNat, h⟩ else .tt

/-- A bit that must be zero. -/
def zero? {n : Nat} (v : BitVec n) : Except DecodeError Unit :=
  if v = 0 then .ok () else .error .field

/-- A code that must be assigned. -/
def need {α : Type} (o : Option α) : Except DecodeError α :=
  match o with
  | some x => .ok x
  | none => .error .field

def gOf (w : Code) : Except DecodeError Guard := decGuard (bits w 20 4)
def dOf (w : Code) : Except DecodeError Dst := decDst (bits w 14 6)
def pOf (w : Code) : Except DecodeError (Fin 7) := decPDst (bits w 17 3)
def aOf (w : Code) : Src := decSrc (bits w 8 6)
def bOf (w : Code) : Src := decSrc (bits w 2 6)
/-- The data field of a store, [19:14], as a source. -/
def dataOf (w : Code) : Src := decSrc (bits w 14 6)
def kbOf (w : Code) : Fin 32 := (bits w 15 5).toFin
def xkbOf (w : Code) : Fin 32 := (bits w 7 5).toFin
def tOf (w : Code) : Fin 8 := (bits w 4 3).toFin

/-! ### Codes -/

def iwidthCodes (f : BitVec 2) : Option IWidth :=
  if f = 0 then some .w64 else if f = 1 then some .w32 else none
def condCodes (c : BitVec 3) : Option Cond :=
  if c = 0 then some .eq else if c = 1 then some .ne else if c = 2 then some .lt
  else if c = 3 then some .le else if c = 4 then some .gt else if c = 5 then some .ge else none
def fcondCodes (c : BitVec 3) : FCond :=
  if c = 0 then .eq else if c = 1 then .ne else if c = 2 then .lt else if c = 3 then .le
  else if c = 4 then .gt else if c = 5 then .ge else if c = 6 then .un else .or
def shiftCodes (f : BitVec 2) : ShiftOp :=
  if f = 0 then .shl else if f = 1 then .shr else if f = 2 then .sar else .rol
def extCodes (f : BitVec 2) : Option ExtFrom :=
  if f = 0 then some .b8 else if f = 1 then some .b16 else if f = 2 then some .b32 else none
def pfnCodes (f : BitVec 3) : PFn :=
  if f = 0 then .and else if f = 1 then .or else if f = 2 then .xor else if f = 3 then .andn
  else if f = 4 then .nand else if f = 5 then .nor else if f = 6 then .xnor else .orn
def voteCodes (f : BitVec 3) : Option VoteFn :=
  if f = 0 then some .some else if f = 1 then some .every else if f = 2 then some .same else none
def ffmtCodes (f : BitVec 2) : Option FFmt :=
  if f = 0 then some .f32 else if f = 1 then some .bf16x4 else if f = 2 then some .f16x4 else none
def rmodeCodes (f : BitVec 2) : RMode :=
  if f = 0 then .rn else if f = 1 then .rz else if f = 2 then .ru else .rd
/-- `cvtif` f (R132). -/
def itypeCodes (f : BitVec 2) : IType :=
  if f = 0 then .i64 else if f = 1 then .n64 else if f = 2 then .i32 else .n32
/-- `cvtn` and `cvtw` b (R129). -/
def narrowCodes (b : BitVec 6) : Option NarrowFmt :=
  if b = 0x00 then some .n8 else if b = 0x10 then some .i8 else if b = 0x01 then some .n4
  else if b = 0x11 then some .i4 else if b = 0x02 then some .f16 else if b = 0x03 then some .bf16
  else if b = 0x05 then some .e4m3 else if b = 0x06 then some .e5m2 else if b = 0x09 then some .e2m3
  else if b = 0x0A then some .e3m2 else if b = 0x0B then some .e2m1 else if b = 0x0C then some .firn8
  else if b = 0x0D then some .firn6 else none
def packCodes (f : BitVec 2) : Option PackFmt :=
  if f = 0 then some .bf16 else if f = 1 then some .f16 else none
def unpkCodes (f : BitVec 2) : UnpkSel :=
  if f = 0 then .bf16lo else if f = 1 then .bf16hi else if f = 2 then .f16lo else .f16hi
def shflCodes (f : BitVec 2) : ShflOp :=
  if f = 0 then .from else if f = 1 then .pair else if f = 2 then .rise else .fall
def bcastCodes (f : BitVec 2) : Option BcastOp :=
  if f = 0 then some .lane else if f = 1 then some .lo else if f = 2 then some .hi else none
def redCodes (f : BitVec 2) : RedOp :=
  if f = 0 then .add else if f = 1 then .min else if f = 2 then .max else .or
def ftredCodes (f : BitVec 2) : Option FtredTy :=
  if f = 0 then some .f32 else if f = 1 then some .c32 else none
def aordCodes (f : BitVec 2) : AOrd :=
  if f = 0 then .relaxed else if f = 1 then .acquire else if f = 2 then .release else .acqRel
def atomCodes (c : Nat) : Option AtomOp :=
  if c = 0 then some .add else if c = 1 then some .and else if c = 2 then some .or
  else if c = 3 then some .xor else if c = 4 then some .min else if c = 5 then some .max
  else if c = 6 then some .minn else if c = 7 then some .maxn else if c = 8 then some .fadd else none
def ratomCodes (c : Nat) : Option RatomOp :=
  if c = 9 then some .swp else if c = 10 then some .cas
  else match atomCodes c with
    | some o => some (.op o)
    | none => none
def cpathCodes (f : BitVec 2) : CPath :=
  if f = 0 then .scratch else if f = 1 then .vault else if f = 2 then .dram else .remote
def mrowsCodes (m : BitVec 2) : Option MRows :=
  if m = 0 then some .m8 else if m = 1 then some .m16 else if m = 2 then some .m32 else none
def tkindCodes (k : BitVec 2) : Option TKind :=
  if k = 0 then some .f32 else if k = 1 then some .i32 else if k = 3 then some .cf32 else none
def xferCodes (o : BitVec 2) : Option XferOp :=
  if o = 0 then some .mov else if o = 1 then some .add else if o = 2 then some .adds else none
def bitB (v : BitVec 1) : Bool := v = 1

/-! ### One decoder for each shape of word -/

/-- Format R of rows 0x1 and 0x2: dst, a, b and the width (R51, R94). -/
def rowDABw (w : Code) (mk : Guard → Dst → Src → Src → IWidth → Instr) : Except DecodeError Instr := do
  let g ← gOf w; let d ← dOf w; let f ← need (iwidthCodes (bits w 0 2))
  return mk g d (aOf w) (bOf w) f

/-- Format R, b zero: dst, a and the width (R100). -/
def rowDAw (w : Code) (mk : Guard → Dst → Src → IWidth → Instr) : Except DecodeError Instr := do
  let g ← gOf w; let d ← dOf w; zero? (bits w 2 6); let f ← need (iwidthCodes (bits w 0 2))
  return mk g d (aOf w) f

/-- Format R with f zero: dst, a, b. -/
def rowDAB (w : Code) (mk : Guard → Dst → Src → Src → Instr) : Except DecodeError Instr := do
  let g ← gOf w; let d ← dOf w; zero? (bits w 0 2)
  return mk g d (aOf w) (bOf w)

/-- Format R with b and f zero: dst, a. -/
def rowDA (w : Code) (mk : Guard → Dst → Src → Instr) : Except DecodeError Instr := do
  let g ← gOf w; let d ← dOf w; zero? (bits w 0 8)
  return mk g d (aOf w)

/-- Format R, float forms with b (R123). -/
def rowDABf (w : Code) (mk : Guard → Dst → Src → Src → FFmt → Instr) : Except DecodeError Instr := do
  let g ← gOf w; let d ← dOf w; let f ← need (ffmtCodes (bits w 0 2))
  return mk g d (aOf w) (bOf w) f

/-- Format R, float forms with b zero (R123). -/
def rowDAf (w : Code) (mk : Guard → Dst → Src → FFmt → Instr) : Except DecodeError Instr := do
  let g ← gOf w; let d ← dOf w; zero? (bits w 2 6); let f ← need (ffmtCodes (bits w 0 2))
  return mk g d (aOf w) f

/-- Only the guard (R51: all of dst, a, b, f zero). -/
def rowG (w : Code) (mk : Guard → Instr) : Except DecodeError Instr := do
  let g ← gOf w; zero? (bits w 0 20)
  return mk g

/-- Only the guard, which must be 1111. -/
def rowFixed (w : Code) (i : Instr) : Except DecodeError Instr := do
  if bits w 20 4 ≠ 15 then throw .guard
  zero? (bits w 0 20)
  return i

/-- Format B. -/
def rowB (w : Code) (mk : Guard → BitVec 20 → Instr) : Except DecodeError Instr := do
  let g ← gOf w
  return mk g (bits w 0 20)

/-- Format B with guard 1111 only. -/
def rowBFixed (w : Code) (mk : BitVec 20 → Instr) : Except DecodeError Instr := do
  if bits w 20 4 ≠ 15 then throw .guard
  return mk (bits w 0 20)

/-- Format K, `logi` (R106). -/
def rowLogi (w : Code) : Except DecodeError Instr := do
  let g ← gOf w; let d ← dOf w
  let f := bits w 6 2
  if f = 0 then return .andi g d (aOf w) (bits w 0 6)
  else if f = 1 then return .ori g d (aOf w) (bits w 0 6)
  else if f = 2 then return .xori g d (aOf w) (bits w 0 6)
  else throw .field

/-- Format M with a destination. -/
def rowM (w : Code) (mk : Guard → Dst → Src → BitVec 8 → Instr) : Except DecodeError Instr := do
  let g ← gOf w; let d ← dOf w
  return mk g d (aOf w) (bits w 0 8)

/-- Format M with a data source. -/
def rowMs (w : Code) (mk : Guard → Src → Src → BitVec 8 → Instr) : Except DecodeError Instr := do
  let g ← gOf w
  return mk g (dataOf w) (aOf w) (bits w 0 8)

/-- Format M with the data field zero. -/
def rowMz (w : Code) (mk : Guard → Src → BitVec 8 → Instr) : Except DecodeError Instr := do
  let g ← gOf w; zero? (bits w 14 6)
  return mk g (aOf w) (bits w 0 8)

/-- Format R of row 0x9. -/
def rowAt (w : Code) (mk : Guard → Dst → Src → Src → AOrd → Instr) : Except DecodeError Instr := do
  let g ← gOf w; let d ← dOf w
  return mk g d (aOf w) (bOf w) (aordCodes (bits w 0 2))

/-- Format E with fn zero. -/
def rowE (w : Code) (mk : Guard → Fin 32 → Instr) : Except DecodeError Instr := do
  let g ← gOf w; zero? (bits w 0 15)
  return mk g (kbOf w)

/-- Format E with fn[0] a flag. -/
def rowEc (w : Code) (mk : Guard → Fin 32 → Bool → Instr) : Except DecodeError Instr := do
  let g ← gOf w; zero? (bits w 1 14)
  return mk g (kbOf w) (bitB (bits w 0 1))

/-- Format E of `gath` and `scat`: fn[3:1] the size, 7 illegal (R243). -/
def rowEs (w : Code) (mk : Guard → Fin 32 → Fin 7 → Bool → Instr) : Except DecodeError Instr := do
  let g ← gOf w; zero? (bits w 4 11)
  if h : (bits w 1 3).toNat < 7 then return mk g (kbOf w) ⟨(bits w 1 3).toNat, h⟩ (bitB (bits w 0 1))
  else throw .field

/-- Only a as a source: dst, b, f zero. -/
def rowA (w : Code) (mk : Guard → Src → Instr) : Except DecodeError Instr := do
  let g ← gOf w; zero? (bits w 14 6); zero? (bits w 0 8)
  return mk g (aOf w)

/-! ### The opcode map (R50, R51) -/

def decode0 (lo : Nat) (w : Code) : Except DecodeError Instr :=
  match lo with
  | 0x0 => .ok (.ill w)
  | 0x1 => rowG w .nop
  | 0x2 => rowB w .br
  | 0x3 => rowB w .brany
  | 0x4 => rowB w .brall
  | 0x5 => rowB w .call
  | 0x6 => do
    let g ← gOf w; zero? (bits w 14 6)
    if bits w 11 3 ≠ 7 then throw .field
    zero? (bits w 1 7)
    if bits w 0 1 = 0 then return .jmpi g (bits w 8 3).toFin else return .calli g (bits w 8 3).toFin
  | 0x7 => rowG w .ret
  | 0x8 => rowB w .ifThen
  | 0x9 => rowBFixed w .elseArm
  | 0xA => rowFixed w .endIf
  | 0xB => rowBFixed w .loop
  | 0xC => rowG w .brk
  | 0xD => rowG w .cont
  | 0xE => rowBFixed w .endLoop
  | 0xF => rowG w .exit
  | _ => .error .opcode

def decode1 (lo : Nat) (w : Code) : Except DecodeError Instr :=
  match lo with
  | 0x0 => rowDABw w .add
  | 0x1 => rowDABw w .sub
  | 0x2 => rowDABw w .mul
  | 0x3 => rowDABw w .mulh
  | 0x4 => rowDABw w .mulhn
  | 0x5 => rowDABw w .mad
  | 0x6 => rowDABw w .div
  | 0x7 => rowDABw w .divn
  | 0x8 => rowDABw w .rem
  | 0x9 => rowDABw w .remn
  | 0xA => rowDABw w .min
  | 0xB => rowDABw w .max
  | 0xC => rowDABw w .minn
  | 0xD => rowDABw w .maxn
  | 0xE => rowDABw w .adds
  | 0xF => rowDABw w .subs
  | _ => .error .opcode

def decode2 (lo : Nat) (w : Code) : Except DecodeError Instr :=
  match lo with
  | 0x0 => rowDABw w .and
  | 0x1 => rowDABw w .or
  | 0x2 => rowDABw w .xor
  | 0x3 => rowDABw w .andn
  | 0x4 => rowDABw w .shl
  | 0x5 => rowDABw w .shr
  | 0x6 => rowDABw w .sar
  | 0x7 => rowDABw w .rol
  | 0x8 => rowDAw w .clz
  | 0x9 => rowDAw w .ctz
  | 0xA => rowDAw w .popc
  | 0xB => rowDAw w .brev
  | 0xC => rowDABw w .bfx
  | 0xD => rowDABw w .bfi
  | 0xE => do
    let g ← gOf w; let d ← dOf w; zero? (bits w 3 5); let f ← need (extCodes (bits w 0 2))
    return .ext g d (aOf w) (bitB (bits w 2 1)) f
  | 0xF => do
    let g ← gOf w; let d ← dOf w; zero? (bits w 2 6)
    let f := bits w 0 2
    if f = 0 then return .neg g d (aOf w)
    else if f = 1 then return .abs g d (aOf w)
    else if f = 2 then return .not g d (aOf w)
    else throw .field
  | _ => .error .opcode

def decode3 (lo : Nat) (w : Code) : Except DecodeError Instr :=
  match lo with
  | 0x0 => do let g ← gOf w; let d ← dOf w; return .li g d (bits w 0 14)
  | 0x1 => do let g ← gOf w; let d ← dOf w; return .addi g d (aOf w) (bits w 0 8)
  | 0x2 => rowLogi w
  | 0x3 => do let g ← gOf w; let d ← dOf w; return .shi g d (aOf w) (shiftCodes (bits w 6 2)) (bits w 0 6)
  | 0x4 => do let g ← gOf w; let d ← dOf w; return .lea g d (aOf w) (bOf w) (bits w 0 2).toFin
  | 0x5 => do
    let g ← gOf w; let p ← pOf w; let c ← need (condCodes (bits w 14 3)); let f ← need (iwidthCodes (bits w 0 2))
    return .cmp g p c (aOf w) (bOf w) f
  | 0x6 => do
    let g ← gOf w; let p ← pOf w; let c ← need (condCodes (bits w 14 3)); let f ← need (iwidthCodes (bits w 0 2))
    return .cmpn g p c (aOf w) (bOf w) f
  | 0x7 => rowDAB w .sel
  | 0x8 => do
    let g ← gOf w; let p ← pOf w; zero? (bits w 0 8)
    return .pset g p (decPSrc (bits w 14 3)) (decPSrc (bits w 11 3)) (pfnCodes (bits w 8 3))
  | 0x9 => do
    let g ← gOf w; let p ← pOf w; zero? (bits w 0 8); zero? (bits w 9 5)
    return .pmov g p (decPSrc (bits w 14 3)) (bitB (bits w 8 1))
  | 0xA => do
    let g ← gOf w; let p ← pOf w; zero? (bits w 0 8); zero? (bits w 11 3); let f ← need (voteCodes (bits w 8 3))
    return .vote g p (decPSrc (bits w 14 3)) f
  | 0xB => do
    let g ← gOf w; zero? (bits w 17 3); zero? (bits w 0 14)
    return .ballot g (decPSrc (bits w 14 3))
  | 0xC => do
    let g ← gOf w; let p ← pOf w; zero? (bits w 0 2)
    return .fcmp g p (fcondCodes (bits w 14 3)) (aOf w) (bOf w)
  | 0xD => rowDA w .fclass
  | _ => .error .opcode

def decode4 (lo : Nat) (w : Code) : Except DecodeError Instr :=
  match lo with
  | 0x0 => rowDABf w .fadd
  | 0x1 => rowDABf w .fsub
  | 0x2 => rowDABf w .fmul
  | 0x3 => rowDABf w .ffma
  | 0x4 => rowDABf w .fmin
  | 0x5 => rowDABf w .fmax
  | 0x6 => rowDAf w .fabs
  | 0x7 => rowDAf w .fneg
  | 0x8 => rowDA w .frcp
  | 0x9 => rowDA w .fsqrt
  | 0xA => rowDA w .frsq
  | 0xB => rowDA w .fex2
  | 0xC => rowDA w .flg2
  | 0xD => rowDAB w .fdiv
  | 0xE => do
    let g ← gOf w; let d ← dOf w; zero? (bits w 2 6)
    return .fround g d (aOf w) (rmodeCodes (bits w 0 2))
  | _ => .error .opcode

def decode5 (lo : Nat) (w : Code) : Except DecodeError Instr :=
  match lo with
  | 0x0 => rowDAB w .cadd
  | 0x1 => rowDAB w .csub
  | 0x2 => rowDAB w .cmul
  | 0x3 => rowDAB w .cfma
  | 0x4 => rowDA w .cconj
  | 0x5 => rowDA w .cabs2
  | 0x6 => rowDAB w .twosum
  | 0x7 => rowDAB w .twoprod
  | 0x8 => rowDAB w .cpack
  | 0x9 => do
    let g ← gOf w; let d ← dOf w; zero? (bits w 1 7)
    return .cpart g d (aOf w) (bitB (bits w 0 1))
  | _ => .error .opcode

def decode6 (lo : Nat) (w : Code) : Except DecodeError Instr :=
  match lo with
  | 0x0 => do
    let g ← gOf w; let d ← dOf w; zero? (bits w 2 6)
    return .cvtif g d (aOf w) (itypeCodes (bits w 0 2))
  | 0x1 => do
    let g ← gOf w; let d ← dOf w; zero? (bits w 4 4)
    return .cvtfi g d (aOf w) (itypeCodes (bits w 2 2)) (rmodeCodes (bits w 0 2))
  | 0x2 => do
    let g ← gOf w; let d ← dOf w; zero? (bits w 0 2); let b ← need (narrowCodes (bits w 2 6))
    return .cvtn g d (aOf w) b
  | 0x3 => do
    let g ← gOf w; let d ← dOf w; zero? (bits w 0 2); let b ← need (narrowCodes (bits w 2 6))
    return .cvtw g d (aOf w) b
  | 0x4 => do
    let g ← gOf w; let d ← dOf w; zero? (bits w 0 2)
    return .cvtmx g d (aOf w) (bits w 2 6)
  | 0x5 => do
    let g ← gOf w; let d ← dOf w; let f ← need (packCodes (bits w 0 2))
    return .pack g d (aOf w) (bOf w) f
  | 0x6 => do
    let g ← gOf w; let d ← dOf w; zero? (bits w 2 6)
    return .unpk g d (aOf w) (unpkCodes (bits w 0 2))
  | _ => .error .opcode

def decode7 (lo : Nat) (w : Code) : Except DecodeError Instr :=
  match lo with
  | 0x0 => do let g ← gOf w; let d ← dOf w; return .shfl g d (aOf w) (bOf w) (shflCodes (bits w 0 2))
  | 0x1 => do let g ← gOf w; let d ← dOf w; return .shflt g d (aOf w) (bOf w) (shflCodes (bits w 0 2))
  | 0x2 => do
    let g ← gOf w; let d ← dOf w; let f ← need (bcastCodes (bits w 0 2))
    return .bcast g d (aOf w) (bOf w) f
  | 0x3 => do
    let g ← gOf w; let d ← dOf w; zero? (bits w 2 6)
    return .tred g d (aOf w) (redCodes (bits w 0 2))
  | 0x4 => do
    let g ← gOf w; let d ← dOf w; zero? (bits w 3 5)
    return .tscan g d (aOf w) (bitB (bits w 2 1)) (redCodes (bits w 0 2))
  | 0x5 => do
    let g ← gOf w; let d ← dOf w; zero? (bits w 2 6); let f ← need (ftredCodes (bits w 0 2))
    return .ftred g d (aOf w) f
  | _ => .error .opcode

def decode8 (lo : Nat) (w : Code) : Except DecodeError Instr :=
  match lo with
  | 0x0 => rowM w .ldI8
  | 0x1 => rowM w .ldN8
  | 0x2 => rowM w .ldI16
  | 0x3 => rowM w .ldN16
  | 0x4 => rowM w .ldI32
  | 0x5 => rowM w .ldN32
  | 0x6 => rowM w .ld64
  | 0x7 => rowM w .ldp
  | 0x8 => rowMs w .st8
  | 0x9 => rowMs w .st16
  | 0xA => rowMs w .st32
  | 0xB => rowMs w .st64
  | 0xC => rowMs w .stp
  | 0xD => do let g ← gOf w; let d ← dOf w; return .ldx g d (aOf w) (bOf w) (bits w 0 2).toFin
  | 0xE => do let g ← gOf w; return .stx g (dataOf w) (aOf w) (bOf w) (bits w 0 2).toFin
  | 0xF => rowM w .ldu
  | _ => .error .opcode

def decode9 (lo : Nat) (w : Code) : Except DecodeError Instr :=
  match lo with
  | 0x0 => rowAt w .aadd
  | 0x1 => rowAt w .aand
  | 0x2 => rowAt w .aor
  | 0x3 => rowAt w .axor
  | 0x4 => rowAt w .amin
  | 0x5 => rowAt w .amax
  | 0x6 => rowAt w .aminn
  | 0x7 => rowAt w .amaxn
  | 0x8 => rowAt w .aswp
  | 0x9 => rowAt w .acas
  | 0xA => rowAt w .afadd
  | 0xB => do
    let g ← gOf w; let o ← need (atomCodes (bits w 14 6).toNat)
    return .red g o (aOf w) (bOf w) (aordCodes (bits w 0 2))
  | _ => .error .opcode

def decodeA (lo : Nat) (w : Code) : Except DecodeError Instr :=
  match lo with
  | 0x0 => rowG w .fence
  | 0x1 => rowG w .xfence
  | 0x2 => do let g ← gOf w; zero? (bits w 2 18); return .cdrain g (cpathCodes (bits w 0 2))
  | 0x3 => rowBFixed w .txbeg
  | 0x4 => rowFixed w .txend
  | 0x5 => rowA w .txabt
  | 0x6 => do
    let g ← gOf w; let d ← dOf w; zero? (bits w 1 13)
    return .txst g d (bitB (bits w 0 1))
  | 0x7 => rowM w .ldacq
  | 0x8 => rowMs w .strel
  | 0x9 => rowMz w .pfetch
  | _ => .error .opcode

def decodeB (lo : Nat) (w : Code) : Except DecodeError Instr :=
  match lo with
  | 0x0 => rowEc w .cpy
  | 0x1 => rowEc w .cpy2
  | 0x2 => rowEs w .gath
  | 0x3 => rowEs w .scat
  | 0x4 => rowEc w .cfill
  | 0x5 => rowE w .cinc
  | 0x6 => rowE w .cwait
  | 0x7 => rowE w .arm
  | 0x8 => do
    let g ← gOf w; let d ← dOf w; zero? (bits w 1 7)
    return .fork g d (aOf w) (bitB (bits w 0 1))
  | 0x9 => rowA w .join
  | 0xA => do
    let g ← gOf w; let d ← dOf w; zero? (bits w 1 7)
    return .cstat g d (aOf w) (bitB (bits w 0 1))
  | _ => .error .opcode

def decodeC (lo : Nat) (w : Code) : Except DecodeError Instr :=
  match lo with
  | 0x0 => do let g ← gOf w; zero? (bits w 18 2); zero? (bits w 0 7); return .rload g (bits w 12 6) (xkbOf w)
  | 0x1 => do
    let g ← gOf w; let m ← need (mrowsCodes (bits w 18 2)); zero? (bits w 1 3)
    return .mloop g m (bits w 12 6) (xkbOf w) (tOf w) (bitB (bits w 0 1))
  | 0x2 => do
    let g ← gOf w; let m ← need (mrowsCodes (bits w 18 2)); zero? (bits w 1 3)
    return .mloopSp g m (bits w 12 6) (xkbOf w) (tOf w) (bitB (bits w 0 1))
  | 0x3 => do
    let g ← gOf w; let m ← need (mrowsCodes (bits w 18 2)); zero? (bits w 1 3)
    return .mdrain g m (bits w 12 6) (xkbOf w) (tOf w) (bitB (bits w 0 1))
  | 0x4 => do
    let g ← gOf w; let m ← need (mrowsCodes (bits w 18 2)); zero? (bits w 7 5); zero? (bits w 2 2)
    let k ← need (tkindCodes (bits w 0 2))
    return .mzero g m (bits w 12 6) (tOf w) k
  | 0x5 => do let g ← gOf w; zero? (bits w 18 2); zero? (bits w 0 7); return .mcol g (bits w 12 6) (xkbOf w)
  | 0x6 => do
    let g ← gOf w; let m ← need (mrowsCodes (bits w 18 2)); zero? (bits w 2 2)
    let k ← need (tkindCodes (bits w 0 2))
    return .mload g m (bits w 12 6) (xkbOf w) (tOf w) k
  | 0x7 => do
    let g ← gOf w; let m ← need (mrowsCodes (bits w 18 2)); zero? (bits w 2 2)
    let o ← need (xferCodes (bits w 0 2))
    return .mxfer g m (bits w 12 6) (xkbOf w) (tOf w) o
  | 0x8 => do
    let g ← gOf w; zero? (bits w 7 13); zero? (bits w 1 3)
    return .mprog g (tOf w) (bitB (bits w 0 1))
  | 0x9 => do
    let g ← gOf w; zero? (bits w 7 13); zero? (bits w 2 2)
    return .mwait g (tOf w) (bitB (bits w 1 1)) (bitB (bits w 0 1))
  | _ => .error .opcode

def decodeD (lo : Nat) (w : Code) : Except DecodeError Instr :=
  match lo with
  | 0x0 => rowE w .bari
  | 0x1 => rowM w .barr
  | 0x2 => do
    let g ← gOf w; let p ← pOf w
    return .barw g p (bits w 14 3 ++ bits w 0 2) (aOf w) (bOf w)
  | 0x3 => rowMz w .bard
  | 0x4 => rowMz w .pinit
  | 0x5 => rowMs w .pfill
  | 0x6 => rowM w .pwait
  | 0x7 => do
    let g ← gOf w; let p ← pOf w; zero? (bits w 8 6)
    return .ptest g p (bits w 14 3 ++ bits w 0 2) (bOf w)
  | 0x8 => do
    let g ← gOf w; zero? (bits w 14 6); zero? (bits w 0 2)
    return .peq g (aOf w) (bOf w)
  | 0x9 => rowMz w .pcomp
  | 0xA => rowE w .spawn
  | 0xB => rowA w .launch
  | 0xC => do
    let g ← gOf w; let p ← pOf w; zero? (bits w 14 3); zero? (bits w 0 8)
    return .launcht g p (aOf w)
  | 0xD => rowG w .yield
  | _ => .error .opcode

def decodeE (lo : Nat) (w : Code) : Except DecodeError Instr :=
  match lo with
  | 0x0 => do
    let g ← gOf w; zero? (bits w 2 13)
    return .rput g (kbOf w) (bitB (bits w 1 1)) (bitB (bits w 0 1))
  | 0x1 => do
    let g ← gOf w; zero? (bits w 2 13); zero? (bits w 0 1)
    return .rget g (kbOf w) (bitB (bits w 1 1))
  | 0x2 => do
    let g ← gOf w; zero? (bits w 5 10); let c ← need (ratomCodes (bits w 0 4).toNat)
    return .ratom g (kbOf w) (bitB (bits w 4 1)) c
  | 0x3 => do
    let g ← gOf w; zero? (bits w 7 8); zero? (bits w 5 1); let c ← need (atomCodes (bits w 0 4).toNat)
    return .rred g (kbOf w) (bitB (bits w 6 1)) (bitB (bits w 4 1)) c
  | 0x4 => rowEc w .xput
  | 0x5 => rowE w .xopen
  | 0x6 => rowE w .xred
  | 0x7 => rowA w .xclose
  | 0x8 => rowG w .rfence
  | 0x9 => rowDA w .rname
  | _ => .error .opcode

def decodeF (lo : Nat) (w : Code) : Except DecodeError Instr :=
  match lo with
  | 0x0 => .ok (.imm (bits w 0 24))
  | 0x1 => .ok (.immh (bits w 0 24))
  | 0x2 => if bits w 0 12 = 0 then .ok (.mod (bits w 12 12)) else .error .field
  | 0x3 => do let g ← gOf w; let d ← dOf w; zero? (bits w 0 8); return .sget g d (bits w 8 6)
  | 0x4 => do let g ← gOf w; zero? (bits w 0 8); return .sset g (dataOf w) (bits w 8 6)
  | 0x5 => do
    let g ← gOf w
    if bits w 17 3 ≠ 6 then throw .field
    return .qcfg g (bits w 14 3).toFin (aOf w) (bits w 4 4) (bits w 0 4)
  | 0x6 => do let g ← gOf w; zero? (bits w 14 6); return .trap g (bits w 0 14)
  | 0x7 => rowFixed w .eret
  | 0x8 => rowE w .ctxs
  | 0x9 => rowE w .ctxr
  | 0xA => do
    let g ← gOf w; zero? (bits w 14 6); zero? (bits w 2 6)
    let f := bits w 0 2
    if f = 0 then return .tlbi g (aOf w)
    else if f = 1 then return .tlbiName g (aOf w)
    else if f = 2 then do zero? (bits w 8 6); return .tlbiAll g
    else throw .field
  | 0xB => do
    let g ← gOf w; let d ← dOf w; zero? (bits w 2 12)
    let f := bits w 0 2
    if f = 0 then return .fbpop g d
    else if f = 1 then return .fbpopW1 g d
    else throw .field
  | 0xC => do
    let g ← gOf w; zero? (bits w 2 13)
    let f := bits w 0 2
    if f = 0 then return .frz g (kbOf w)
    else if f = 1 then return .frzDetail g (kbOf w)
    else if f = 2 then return .frzRelease g (kbOf w)
    else throw .field
  | 0xD => do
    let g ← gOf w
    let f := bits w 0 2
    if f = 0 then do let d ← dOf w; zero? (bits w 2 6); return .pidx g d (aOf w)
    else if f = 1 then do zero? (bits w 14 6); return .pidxSet g (aOf w) (bOf w)
    else throw .field
  | 0xF => .ok (.ill w)
  | _ => .error .opcode

/-- The instruction a word stands for, or what the word breaks. -/
def decode (w : Code) : Except DecodeError Instr :=
  let lo := (bits w 24 4).toNat
  match (bits w 28 4).toNat with
  | 0x0 => decode0 lo w
  | 0x1 => decode1 lo w
  | 0x2 => decode2 lo w
  | 0x3 => decode3 lo w
  | 0x4 => decode4 lo w
  | 0x5 => decode5 lo w
  | 0x6 => decode6 lo w
  | 0x7 => decode7 lo w
  | 0x8 => decode8 lo w
  | 0x9 => decode9 lo w
  | 0xA => decodeA lo w
  | 0xB => decodeB lo w
  | 0xC => decodeC lo w
  | 0xD => decodeD lo w
  | 0xE => decodeE lo w
  | _ => decodeF lo w

/-- The four bytes of an instruction in memory, little-endian (R3, R30). -/
def codeOfBytes (b0 b1 b2 b3 : Byte) : Code := b3 ++ b2 ++ b1 ++ b0

/-- The instruction the decoder reads from one of the opcode table's words: bit 0 of w is bit 0 of the word. -/
def decodeTableWord (nbits w : Nat) : Option Instr :=
  let c := BitVec.ofNat 32 (w % 2 ^ nbits)
  match decode (codeOfBytes (c.extractLsb' 0 8) (c.extractLsb' 8 8) (c.extractLsb' 16 8) (c.extractLsb' 24 8)) with
  | .ok i => some i
  | .error _ => none

/-! ### The encoder (R32, R34, R35, R37, R51) -/

def encGuard : Guard → BitVec 4
  | .always => 15
  | .when p => BitVec.ofNat 4 p.val
  | .unless p => BitVec.ofNat 4 (8 + p.val)

def encSrc : Src → BitVec 6
  | .d n => BitVec.ofNat 6 n.val
  | .k n => BitVec.ofNat 6 (16 + n.val)
  | .q n => BitVec.ofNat 6 (48 + n.val)
  | .s n => BitVec.ofNat 6 (56 + n.val)

def encDst : Dst → BitVec 6
  | .drift => 0
  | .k n => BitVec.ofNat 6 (16 + n.val)
  | .q n => BitVec.ofNat 6 (48 + n.val)
  | .s n => BitVec.ofNat 6 (56 + n.val)

def encP (p : Fin 7) : BitVec 3 := BitVec.ofNat 3 p.val
def encPSrc : PSrc → BitVec 3
  | .p n => BitVec.ofNat 3 n.val
  | .tt => 7
def encBool (b : Bool) : BitVec 1 := if b then 1 else 0
def encIWidth : IWidth → BitVec 2
  | .w64 => 0 | .w32 => 1
def encCond : Cond → BitVec 3
  | .eq => 0 | .ne => 1 | .lt => 2 | .le => 3 | .gt => 4 | .ge => 5
def encFCond : FCond → BitVec 3
  | .eq => 0 | .ne => 1 | .lt => 2 | .le => 3 | .gt => 4 | .ge => 5 | .un => 6 | .or => 7
def encShift : ShiftOp → BitVec 2
  | .shl => 0 | .shr => 1 | .sar => 2 | .rol => 3
def encExt : ExtFrom → BitVec 2
  | .b8 => 0 | .b16 => 1 | .b32 => 2
def encPFn : PFn → BitVec 3
  | .and => 0 | .or => 1 | .xor => 2 | .andn => 3 | .nand => 4 | .nor => 5 | .xnor => 6 | .orn => 7
def encVote : VoteFn → BitVec 3
  | .some => 0 | .every => 1 | .same => 2
def encFFmt : FFmt → BitVec 2
  | .f32 => 0 | .bf16x4 => 1 | .f16x4 => 2
def encRMode : RMode → BitVec 2
  | .rn => 0 | .rz => 1 | .ru => 2 | .rd => 3
def encIType : IType → BitVec 2
  | .i64 => 0 | .n64 => 1 | .i32 => 2 | .n32 => 3
def encNarrow : NarrowFmt → BitVec 6
  | .n8 => 0x00 | .i8 => 0x10 | .n4 => 0x01 | .i4 => 0x11 | .f16 => 0x02 | .bf16 => 0x03 | .e4m3 => 0x05
  | .e5m2 => 0x06 | .e2m3 => 0x09 | .e3m2 => 0x0A | .e2m1 => 0x0B | .firn8 => 0x0C | .firn6 => 0x0D
def encPack : PackFmt → BitVec 2
  | .bf16 => 0 | .f16 => 1
def encUnpk : UnpkSel → BitVec 2
  | .bf16lo => 0 | .bf16hi => 1 | .f16lo => 2 | .f16hi => 3
def encShfl : ShflOp → BitVec 2
  | .from => 0 | .pair => 1 | .rise => 2 | .fall => 3
def encBcast : BcastOp → BitVec 2
  | .lane => 0 | .lo => 1 | .hi => 2
def encRed : RedOp → BitVec 2
  | .add => 0 | .min => 1 | .max => 2 | .or => 3
def encFtred : FtredTy → BitVec 2
  | .f32 => 0 | .c32 => 1
def encAOrd : AOrd → BitVec 2
  | .relaxed => 0 | .acquire => 1 | .release => 2 | .acqRel => 3
def encAtom : AtomOp → Nat
  | .add => 0 | .and => 1 | .or => 2 | .xor => 3 | .min => 4 | .max => 5 | .minn => 6 | .maxn => 7 | .fadd => 8
def encRatom : RatomOp → Nat
  | .op o => encAtom o
  | .swp => 9
  | .cas => 10
def encCPath : CPath → BitVec 2
  | .scratch => 0 | .vault => 1 | .dram => 2 | .remote => 3
def encMRows : MRows → BitVec 2
  | .m8 => 0 | .m16 => 1 | .m32 => 2
def encTKind : TKind → BitVec 2
  | .f32 => 0 | .i32 => 1 | .cf32 => 3
def encXfer : XferOp → BitVec 2
  | .mov => 0 | .add => 1 | .adds => 2

/-- Format R (R32). -/
def wordR (op : BitVec 8) (g : BitVec 4) (d a b : BitVec 6) (f : BitVec 2) : Code := op ++ g ++ d ++ a ++ b ++ f
/-- Format K. -/
def wordK (op : BitVec 8) (g : BitVec 4) (d a : BitVec 6) (f : BitVec 2) (i : BitVec 6) : Code :=
  op ++ g ++ d ++ a ++ f ++ i
/-- Formats J and M. -/
def wordM (op : BitVec 8) (g : BitVec 4) (d a : BitVec 6) (i : BitVec 8) : Code := op ++ g ++ d ++ a ++ i
/-- Format I. -/
def wordI (op : BitVec 8) (g : BitVec 4) (d : BitVec 6) (i : BitVec 14) : Code := op ++ g ++ d ++ i
/-- Format C. -/
def wordC (op : BitVec 8) (g : BitVec 4) (p c : BitVec 3) (a b : BitVec 6) (f : BitVec 2) : Code :=
  op ++ g ++ p ++ c ++ a ++ b ++ f
/-- Format P. -/
def wordP (op : BitVec 8) (g : BitVec 4) (p a b f : BitVec 3) : Code := op ++ g ++ p ++ a ++ b ++ f ++ (0 : BitVec 8)
/-- Format B. -/
def wordB (op : BitVec 8) (g : BitVec 4) (disp : BitVec 20) : Code := op ++ g ++ disp
/-- Format E. -/
def wordE (op : BitVec 8) (g : BitVec 4) (kb : Fin 32) (fn : BitVec 15) : Code := op ++ g ++ (BitVec.ofFin kb : BitVec 5) ++ fn
/-- Format X. -/
def wordX (op : BitVec 8) (g : BitVec 4) (m : BitVec 2) (n : BitVec 6) (kb : Fin 32) (t : Fin 8) (fl : BitVec 4) : Code :=
  op ++ g ++ m ++ n ++ (BitVec.ofFin kb : BitVec 5) ++ (BitVec.ofFin t : BitVec 3) ++ fl
/-- Format S. -/
def wordS (op : BitVec 8) (g : BitVec 4) (r n : BitVec 6) : Code := op ++ g ++ r ++ n ++ (0 : BitVec 8)
/-- Format H. -/
def wordH (op : BitVec 8) (v : BitVec 24) : Code := op ++ v

/-- Format R of rows 0x1 and 0x2. -/
def eDABw (op : BitVec 8) (g : Guard) (d : Dst) (a b : Src) (f : IWidth) : Code :=
  wordR op (encGuard g) (encDst d) (encSrc a) (encSrc b) (encIWidth f)
def eDAw (op : BitVec 8) (g : Guard) (d : Dst) (a : Src) (f : IWidth) : Code :=
  wordR op (encGuard g) (encDst d) (encSrc a) 0 (encIWidth f)
def eDABc (op : BitVec 8) (g : Guard) (d : Dst) (a b : Src) (f : BitVec 2) : Code :=
  wordR op (encGuard g) (encDst d) (encSrc a) (encSrc b) f
def eDAc (op : BitVec 8) (g : Guard) (d : Dst) (a : Src) (f : BitVec 2) : Code :=
  wordR op (encGuard g) (encDst d) (encSrc a) 0 f
def eAc (op : BitVec 8) (g : Guard) (a : Src) (f : BitVec 2) : Code := wordR op (encGuard g) 0 (encSrc a) 0 f
def eG (op : BitVec 8) (g : Guard) (f : BitVec 2) : Code := wordR op (encGuard g) 0 0 0 f
def eM (op : BitVec 8) (g : Guard) (d : Dst) (b : Src) (off : BitVec 8) : Code :=
  wordM op (encGuard g) (encDst d) (encSrc b) off
def eMs (op : BitVec 8) (g : Guard) (d : Src) (b : Src) (off : BitVec 8) : Code :=
  wordM op (encGuard g) (encSrc d) (encSrc b) off
def eMz (op : BitVec 8) (g : Guard) (b : Src) (off : BitVec 8) : Code := wordM op (encGuard g) 0 (encSrc b) off

/-- The word of an instruction (R32, R51). Rows that no word encodes have none. -/
def encode : Instr → Option Code
  | .ill w => some w
  | .nop g => some (eG 0x01 g 0)
  | .br g d => some (wordB 0x02 (encGuard g) d)
  | .brany g d => some (wordB 0x03 (encGuard g) d)
  | .brall g d => some (wordB 0x04 (encGuard g) d)
  | .call g d => some (wordB 0x05 (encGuard g) d)
  | .jmpi g n => some (wordR 0x06 (encGuard g) 0 (BitVec.ofNat 6 (56 + n.val)) 0 0)
  | .calli g n => some (wordR 0x06 (encGuard g) 0 (BitVec.ofNat 6 (56 + n.val)) 0 1)
  | .ret g => some (eG 0x07 g 0)
  | .ifThen g d => some (wordB 0x08 (encGuard g) d)
  | .elseArm d => some (wordB 0x09 15 d)
  | .endIf => some (eG 0x0A .always 0)
  | .loop d => some (wordB 0x0B 15 d)
  | .brk g => some (eG 0x0C g 0)
  | .cont g => some (eG 0x0D g 0)
  | .endLoop d => some (wordB 0x0E 15 d)
  | .exit g => some (eG 0x0F g 0)
  | .add g d a b f => some (eDABw 0x10 g d a b f)
  | .sub g d a b f => some (eDABw 0x11 g d a b f)
  | .mul g d a b f => some (eDABw 0x12 g d a b f)
  | .mulh g d a b f => some (eDABw 0x13 g d a b f)
  | .mulhn g d a b f => some (eDABw 0x14 g d a b f)
  | .mad g d a b f => some (eDABw 0x15 g d a b f)
  | .div g d a b f => some (eDABw 0x16 g d a b f)
  | .divn g d a b f => some (eDABw 0x17 g d a b f)
  | .rem g d a b f => some (eDABw 0x18 g d a b f)
  | .remn g d a b f => some (eDABw 0x19 g d a b f)
  | .min g d a b f => some (eDABw 0x1A g d a b f)
  | .max g d a b f => some (eDABw 0x1B g d a b f)
  | .minn g d a b f => some (eDABw 0x1C g d a b f)
  | .maxn g d a b f => some (eDABw 0x1D g d a b f)
  | .adds g d a b f => some (eDABw 0x1E g d a b f)
  | .subs g d a b f => some (eDABw 0x1F g d a b f)
  | .and g d a b f => some (eDABw 0x20 g d a b f)
  | .or g d a b f => some (eDABw 0x21 g d a b f)
  | .xor g d a b f => some (eDABw 0x22 g d a b f)
  | .andn g d a b f => some (eDABw 0x23 g d a b f)
  | .shl g d a b f => some (eDABw 0x24 g d a b f)
  | .shr g d a b f => some (eDABw 0x25 g d a b f)
  | .sar g d a b f => some (eDABw 0x26 g d a b f)
  | .rol g d a b f => some (eDABw 0x27 g d a b f)
  | .clz g d a f => some (eDAw 0x28 g d a f)
  | .ctz g d a f => some (eDAw 0x29 g d a f)
  | .popc g d a f => some (eDAw 0x2A g d a f)
  | .brev g d a f => some (eDAw 0x2B g d a f)
  | .bfx g d a b f => some (eDABw 0x2C g d a b f)
  | .bfi g d a b f => some (eDABw 0x2D g d a b f)
  | .ext g d a s f => some (wordR 0x2E (encGuard g) (encDst d) (encSrc a) ((0 : BitVec 5) ++ encBool s) (encExt f))
  | .neg g d a => some (eDAc 0x2F g d a 0)
  | .abs g d a => some (eDAc 0x2F g d a 1)
  | .not g d a => some (eDAc 0x2F g d a 2)
  | .li g d i => some (wordI 0x30 (encGuard g) (encDst d) i)
  | .addi g d a i => some (wordM 0x31 (encGuard g) (encDst d) (encSrc a) i)
  | .andi g d a i => some (wordK 0x32 (encGuard g) (encDst d) (encSrc a) 0 i)
  | .ori g d a i => some (wordK 0x32 (encGuard g) (encDst d) (encSrc a) 1 i)
  | .xori g d a i => some (wordK 0x32 (encGuard g) (encDst d) (encSrc a) 2 i)
  | .shi g d a f c => some (wordK 0x33 (encGuard g) (encDst d) (encSrc a) (encShift f) c)
  | .lea g d a b f => some (eDABc 0x34 g d a b (BitVec.ofFin f : BitVec 2))
  | .cmp g p c a b f => some (wordC 0x35 (encGuard g) (encP p) (encCond c) (encSrc a) (encSrc b) (encIWidth f))
  | .cmpn g p c a b f => some (wordC 0x36 (encGuard g) (encP p) (encCond c) (encSrc a) (encSrc b) (encIWidth f))
  | .sel g d a b => some (eDABc 0x37 g d a b 0)
  | .pset g p a b f => some (wordP 0x38 (encGuard g) (encP p) (encPSrc a) (encPSrc b) (encPFn f))
  | .pmov g p a i => some (wordP 0x39 (encGuard g) (encP p) (encPSrc a) 0 ((0 : BitVec 2) ++ encBool i))
  | .vote g p a f => some (wordP 0x3A (encGuard g) (encP p) (encPSrc a) 0 (encVote f))
  | .ballot g a => some (wordP 0x3B (encGuard g) 0 (encPSrc a) 0 0)
  | .fcmp g p c a b => some (wordC 0x3C (encGuard g) (encP p) (encFCond c) (encSrc a) (encSrc b) 0)
  | .fclass g d a => some (eDAc 0x3D g d a 0)
  | .fadd g d a b f => some (eDABc 0x40 g d a b (encFFmt f))
  | .fsub g d a b f => some (eDABc 0x41 g d a b (encFFmt f))
  | .fmul g d a b f => some (eDABc 0x42 g d a b (encFFmt f))
  | .ffma g d a b f => some (eDABc 0x43 g d a b (encFFmt f))
  | .fmin g d a b f => some (eDABc 0x44 g d a b (encFFmt f))
  | .fmax g d a b f => some (eDABc 0x45 g d a b (encFFmt f))
  | .fabs g d a f => some (eDAc 0x46 g d a (encFFmt f))
  | .fneg g d a f => some (eDAc 0x47 g d a (encFFmt f))
  | .frcp g d a => some (eDAc 0x48 g d a 0)
  | .fsqrt g d a => some (eDAc 0x49 g d a 0)
  | .frsq g d a => some (eDAc 0x4A g d a 0)
  | .fex2 g d a => some (eDAc 0x4B g d a 0)
  | .flg2 g d a => some (eDAc 0x4C g d a 0)
  | .fdiv g d a b => some (eDABc 0x4D g d a b 0)
  | .fround g d a f => some (eDAc 0x4E g d a (encRMode f))
  | .cadd g d a b => some (eDABc 0x50 g d a b 0)
  | .csub g d a b => some (eDABc 0x51 g d a b 0)
  | .cmul g d a b => some (eDABc 0x52 g d a b 0)
  | .cfma g d a b => some (eDABc 0x53 g d a b 0)
  | .cconj g d a => some (eDAc 0x54 g d a 0)
  | .cabs2 g d a => some (eDAc 0x55 g d a 0)
  | .twosum g d a b => some (eDABc 0x56 g d a b 0)
  | .twoprod g d a b => some (eDABc 0x57 g d a b 0)
  | .cpack g d a b => some (eDABc 0x58 g d a b 0)
  | .cpart g d a im => some (eDAc 0x59 g d a ((0 : BitVec 1) ++ encBool im))
  | .cvtif g d a t => some (eDAc 0x60 g d a (encIType t))
  | .cvtfi g d a t f =>
    some (wordR 0x61 (encGuard g) (encDst d) (encSrc a) ((0 : BitVec 4) ++ encIType t) (encRMode f))
  | .cvtn g d a b => some (wordR 0x62 (encGuard g) (encDst d) (encSrc a) (encNarrow b) 0)
  | .cvtw g d a b => some (wordR 0x63 (encGuard g) (encDst d) (encSrc a) (encNarrow b) 0)
  | .cvtmx g d a b => some (wordR 0x64 (encGuard g) (encDst d) (encSrc a) b 0)
  | .pack g d a b f => some (eDABc 0x65 g d a b (encPack f))
  | .unpk g d a f => some (eDAc 0x66 g d a (encUnpk f))
  | .shfl g d a b f => some (eDABc 0x70 g d a b (encShfl f))
  | .shflt g d a b f => some (eDABc 0x71 g d a b (encShfl f))
  | .bcast g d a b f => some (eDABc 0x72 g d a b (encBcast f))
  | .tred g d a f => some (eDAc 0x73 g d a (encRed f))
  | .tscan g d a e f =>
    some (wordR 0x74 (encGuard g) (encDst d) (encSrc a) ((0 : BitVec 5) ++ encBool e) (encRed f))
  | .ftred g d a f => some (eDAc 0x75 g d a (encFtred f))
  | .ldI8 g d b i => some (eM 0x80 g d b i)
  | .ldN8 g d b i => some (eM 0x81 g d b i)
  | .ldI16 g d b i => some (eM 0x82 g d b i)
  | .ldN16 g d b i => some (eM 0x83 g d b i)
  | .ldI32 g d b i => some (eM 0x84 g d b i)
  | .ldN32 g d b i => some (eM 0x85 g d b i)
  | .ld64 g d b i => some (eM 0x86 g d b i)
  | .ldp g d b i => some (eM 0x87 g d b i)
  | .st8 g d b i => some (eMs 0x88 g d b i)
  | .st16 g d b i => some (eMs 0x89 g d b i)
  | .st32 g d b i => some (eMs 0x8A g d b i)
  | .st64 g d b i => some (eMs 0x8B g d b i)
  | .stp g d b i => some (eMs 0x8C g d b i)
  | .ldx g d a b f => some (eDABc 0x8D g d a b (BitVec.ofFin f : BitVec 2))
  | .stx g d a b f => some (wordR 0x8E (encGuard g) (encSrc d) (encSrc a) (encSrc b) (BitVec.ofFin f : BitVec 2))
  | .ldu g d b i => some (eM 0x8F g d b i)
  | .aadd g d a b f => some (eDABc 0x90 g d a b (encAOrd f))
  | .aand g d a b f => some (eDABc 0x91 g d a b (encAOrd f))
  | .aor g d a b f => some (eDABc 0x92 g d a b (encAOrd f))
  | .axor g d a b f => some (eDABc 0x93 g d a b (encAOrd f))
  | .amin g d a b f => some (eDABc 0x94 g d a b (encAOrd f))
  | .amax g d a b f => some (eDABc 0x95 g d a b (encAOrd f))
  | .aminn g d a b f => some (eDABc 0x96 g d a b (encAOrd f))
  | .amaxn g d a b f => some (eDABc 0x97 g d a b (encAOrd f))
  | .aswp g d a b f => some (eDABc 0x98 g d a b (encAOrd f))
  | .acas g d a b f => some (eDABc 0x99 g d a b (encAOrd f))
  | .afadd g d a b f => some (eDABc 0x9A g d a b (encAOrd f))
  | .red g o a b f => some (wordR 0x9B (encGuard g) (BitVec.ofNat 6 (encAtom o)) (encSrc a) (encSrc b) (encAOrd f))
  | .fence g => some (eG 0xA0 g 0)
  | .xfence g => some (eG 0xA1 g 0)
  | .cdrain g f => some (eG 0xA2 g (encCPath f))
  | .txbeg d => some (wordB 0xA3 15 d)
  | .txend => some (eG 0xA4 .always 0)
  | .txabt g a => some (eAc 0xA5 g a 0)
  | .txst g d r => some (wordR 0xA6 (encGuard g) (encDst d) 0 0 ((0 : BitVec 1) ++ encBool r))
  | .ldacq g d b i => some (eM 0xA7 g d b i)
  | .strel g d b i => some (eMs 0xA8 g d b i)
  | .pfetch g b i => some (eMz 0xA9 g b i)
  | .cpy g k c => some (wordE 0xB0 (encGuard g) k ((0 : BitVec 14) ++ encBool c))
  | .cpy2 g k c => some (wordE 0xB1 (encGuard g) k ((0 : BitVec 14) ++ encBool c))
  | .gath g k s c => some (wordE 0xB2 (encGuard g) k ((0 : BitVec 11) ++ BitVec.ofNat 3 s.val ++ encBool c))
  | .scat g k s c => some (wordE 0xB3 (encGuard g) k ((0 : BitVec 11) ++ BitVec.ofNat 3 s.val ++ encBool c))
  | .cfill g k c => some (wordE 0xB4 (encGuard g) k ((0 : BitVec 14) ++ encBool c))
  | .cinc g k => some (wordE 0xB5 (encGuard g) k 0)
  | .cwait g k => some (wordE 0xB6 (encGuard g) k 0)
  | .arm g k => some (wordE 0xB7 (encGuard g) k 0)
  | .fork g d a c => some (eDAc 0xB8 g d a ((0 : BitVec 1) ++ encBool c))
  | .join g a => some (eAc 0xB9 g a 0)
  | .cstat g d a c => some (eDAc 0xBA g d a ((0 : BitVec 1) ++ encBool c))
  | .rload g n k => some (wordX 0xC0 (encGuard g) 0 n k 0 0)
  | .mloop g m n k t f => some (wordX 0xC1 (encGuard g) (encMRows m) n k t ((0 : BitVec 3) ++ encBool f))
  | .mloopSp g m n k t f => some (wordX 0xC2 (encGuard g) (encMRows m) n k t ((0 : BitVec 3) ++ encBool f))
  | .mdrain g m n k t s => some (wordX 0xC3 (encGuard g) (encMRows m) n k t ((0 : BitVec 3) ++ encBool s))
  | .mzero g m n t kk => some (wordX 0xC4 (encGuard g) (encMRows m) n 0 t ((0 : BitVec 2) ++ encTKind kk))
  | .mcol g n k => some (wordX 0xC5 (encGuard g) 0 n k 0 0)
  | .mload g m n k t kk => some (wordX 0xC6 (encGuard g) (encMRows m) n k t ((0 : BitVec 2) ++ encTKind kk))
  | .mxfer g m n k t o => some (wordX 0xC7 (encGuard g) (encMRows m) n k t ((0 : BitVec 2) ++ encXfer o))
  | .mprog g t c => some (wordX 0xC8 (encGuard g) 0 0 0 t ((0 : BitVec 3) ++ encBool c))
  | .mwait g t r a => some (wordX 0xC9 (encGuard g) 0 0 0 t ((0 : BitVec 2) ++ encBool r ++ encBool a))
  | .bari g k => some (wordE 0xD0 (encGuard g) k 0)
  | .barr g d b i => some (eM 0xD1 g d b i)
  | .barw g p o a b =>
    some (wordC 0xD2 (encGuard g) (encP p) (o.extractLsb' 2 3) (encSrc a) (encSrc b) (o.extractLsb' 0 2))
  | .bard g b i => some (eMz 0xD3 g b i)
  | .pinit g b i => some (eMz 0xD4 g b i)
  | .pfill g d b i => some (eMs 0xD5 g d b i)
  | .pwait g d b i => some (eM 0xD6 g d b i)
  | .ptest g p o b => some (wordC 0xD7 (encGuard g) (encP p) (o.extractLsb' 2 3) 0 (encSrc b) (o.extractLsb' 0 2))
  | .peq g a b => some (wordR 0xD8 (encGuard g) 0 (encSrc a) (encSrc b) 0)
  | .pcomp g b i => some (eMz 0xD9 g b i)
  | .spawn g k => some (wordE 0xDA (encGuard g) k 0)
  | .launch g a => some (eAc 0xDB g a 0)
  | .launcht g p a => some (wordC 0xDC (encGuard g) (encP p) 0 (encSrc a) 0 0)
  | .yield g => some (eG 0xDD g 0)
  | .rput g k n o => some (wordE 0xE0 (encGuard g) k ((0 : BitVec 13) ++ encBool n ++ encBool o))
  | .rget g k n => some (wordE 0xE1 (encGuard g) k ((0 : BitVec 13) ++ encBool n ++ (0 : BitVec 1)))
  | .ratom g k w c =>
    some (wordE 0xE2 (encGuard g) k ((0 : BitVec 10) ++ encBool w ++ BitVec.ofNat 4 (encRatom c)))
  | .rred g k n w c =>
    some (wordE 0xE3 (encGuard g) k
      ((0 : BitVec 8) ++ encBool n ++ (0 : BitVec 1) ++ encBool w ++ BitVec.ofNat 4 (encAtom c)))
  | .xput g k n => some (wordE 0xE4 (encGuard g) k ((0 : BitVec 14) ++ encBool n))
  | .xopen g k => some (wordE 0xE5 (encGuard g) k 0)
  | .xred g k => some (wordE 0xE6 (encGuard g) k 0)
  | .xclose g a => some (eAc 0xE7 g a 0)
  | .rfence g => some (eG 0xE8 g 0)
  | .rname g d a => some (eDAc 0xE9 g d a 0)
  | .imm v => some (wordH 0xF0 v)
  | .immh v => some (wordH 0xF1 v)
  | .mod p => some (wordH 0xF2 (p ++ (0 : BitVec 12)))
  | .sget g d n => some (wordS 0xF3 (encGuard g) (encDst d) n)
  | .sset g a n => some (wordS 0xF4 (encGuard g) (encSrc a) n)
  | .qcfg g q a e c =>
    some (wordM 0xF5 (encGuard g) (BitVec.ofNat 6 (48 + q.val)) (encSrc a) (e ++ c))
  | .trap g c => some (wordI 0xF6 (encGuard g) 0 c)
  | .eret => some (eG 0xF7 .always 0)
  | .ctxs g k => some (wordE 0xF8 (encGuard g) k 0)
  | .ctxr g k => some (wordE 0xF9 (encGuard g) k 0)
  | .tlbi g a => some (eAc 0xFA g a 0)
  | .tlbiName g a => some (eAc 0xFA g a 1)
  | .tlbiAll g => some (eG 0xFA g 2)
  | .fbpop g d => some (wordR 0xFB (encGuard g) (encDst d) 0 0 0)
  | .fbpopW1 g d => some (wordR 0xFB (encGuard g) (encDst d) 0 0 1)
  | .frz g k => some (wordE 0xFC (encGuard g) k 0)
  | .frzDetail g k => some (wordE 0xFC (encGuard g) k 1)
  | .frzRelease g k => some (wordE 0xFC (encGuard g) k 2)
  | .pidx g d a => some (eDAc 0xFD g d a 0)
  | .pidxSet g a b => some (wordR 0xFD (encGuard g) 0 (encSrc a) (encSrc b) 1)
  | .teamRetire _ => none
  | .loadReturn _ _ _ => none
  | .writeBufferDrain _ _ => none
  | .engineCommandComplete _ _ => none
  | .segmentReplay _ _ => none
  | .copyKernelRewrite _ => none
  | .counterIncrement _ => none
  | .cwaitExpiry _ => none
  | .entriesExhaustedExpiry _ => none
  | .matrixSequencerProgress _ => none
  | .matrixUnitHandover _ => none
  | .matrixUnitWaitExpiry _ => none
  | .rimeScrub _ _ => none
  | .binTimerExpiry _ _ => none
  | .launchStalledExpiry _ => none
  | .deviceLaunchQueueDrain _ => none
  | .remotePacketApply _ _ => none
  | .remoteCompletion _ => none
  | .deliveryTimeout _ => none
  | .rotorSlot _ _ => none
  | .pdcTeardown _ _ => none
  | .reductionPacketArrive _ => none
  | .nodeForwardDeadline _ _ _ _ => none
  | .nodeCloseDeadline _ _ _ _ => none
  | .noReductionSlotExpiry _ => none
  | .xcloseRemoteFailed _ => none
  | .faultBufferWatchdog _ => none
  | .hostNotify _ _ _ => none
  | .chunkRefetch _ _ => none
  | .launchAccept _ => none
  | .teamAdmit _ _ => none
  | .teamAged _ => none
  | .gangReserve _ _ => none
  | .gangCommit _ _ => none
  | .gangBackoffExpiry _ _ => none
  | .tswitchGo _ _ => none
  | .sliceDeadline _ => none
  | .handlerWatchdog _ => none
  | .rowThaw _ _ => none
  | .teamResume _ => none
  | .tenantDescriptorWrite _ _ _ _ _ => none
  | .tvbdefWrite _ _ _ => none
  | .hqcfgWrite _ _ _ => none
  | .rselcfgWrite _ _ => none
  | .controlRegisterWrite _ _ _ _ => none
  | .freeze _ _ _ => none
  | .partitionRecovery _ _ _ => none
  | .journalReplicaRebuild _ _ => none
  | .watchdogTimeout _ _ => none
  | .supplyFault _ _ => none
  | .powerLoss _ => none
  | .thermalSample _ _ _ => none
  | .powerOnReset _ => none
  | .deviceReset _ => none
  | .siteReset _ => none
  | .partitionBuild _ _ _ _ _ _ _ => none
  | .partitionTeardown _ _ => none
  | .reinstatementRecord _ _ => none
  | .firmwareUpdate _ _ _ _ => none
  | .firmwareImageAnnounce _ _ => none
  | .attestationRequest _ _ _ => none
  | .attestationReportDone _ => none
  | .hostBar4Access _ _ _ => none
  | .writeQueueApply _ _ _ => none
  | .portLost _ _ => none
  | .portRestored _ _ => none
  | .deliveryRetransmit _ => none

end Sys2Proof
end

