-- ==== Sys2Proof/Machine/Float.lean ====
section
/-! DEFINITION. Number formats and exact arithmetic (05_formats, 07_float): values are exact dyadic numbers,
every operation computes exactly and rounds once. -/

namespace Sys2Proof.Machine

/-- A number, an infinity or NaN. fin neg m e is (−1)^neg × m × 2^e; a zero keeps its sign. -/
inductive FV where
  | nan
  | inf (neg : Bool)
  | fin (neg : Bool) (m : Nat) (e : Int)
deriving DecidableEq, Repr

/-- A binary format: exponent and fraction bits, bias, largest finite code, its infinity and canonical NaN codes
where it has them (R72, R74, R75). -/
structure Fmt where
  eb : Nat
  mb : Nat
  bias : Int
  maxc : Nat
  infc : Option Nat
  nanc : Option Nat
deriving DecidableEq, Repr

def b32 : Fmt := ⟨8, 23, 127, 0x7F7FFFFF, some 0x7F800000, some 0x7FC00000⟩
def b16 : Fmt := ⟨5, 10, 15, 0x7BFF, some 0x7C00, some 0x7E00⟩
def bf16 : Fmt := ⟨8, 7, 127, 0x7F7F, some 0x7F80, some 0x7FC0⟩
def e4m3 : Fmt := ⟨4, 3, 7, 0x7E, none, some 0x7F⟩
def e5m2 : Fmt := ⟨5, 2, 15, 0x7B, some 0x7C, some 0x7E⟩
def e2m3 : Fmt := ⟨2, 3, 1, 0x1F, none, none⟩
def e3m2 : Fmt := ⟨3, 2, 3, 0x1F, none, none⟩
def e2m1 : Fmt := ⟨2, 1, 1, 0x7, none, none⟩

/-- Reads a code of a format (R72, R75, R77). -/
def FV.decode (f : Fmt) (c : Nat) : FV :=
  let neg := c / 2 ^ (f.eb + f.mb) % 2 == 1
  let mag := c % 2 ^ (f.eb + f.mb)
  if f.maxc < mag then
    match f.infc with
    | some i => if mag = i then .inf neg else .nan
    | none => .nan
  else
    let ex := mag / 2 ^ f.mb
    let fr := mag % 2 ^ f.mb
    let q := 1 - f.bias - f.mb
    if ex = 0 then .fin neg fr q else .fin neg (2 ^ f.mb + fr) (q + ex - 1)

/-- ⌊log2 m⌋ + e of a non-zero number: E(x) of R85. -/
def expOf (m : Nat) (e : Int) : Int := Nat.log2 m + e

/-- m × 2^sh as an integer, rounded in a mode; neg is the sign for the directed modes (R83). -/
def roundNat (mode : RMode) (neg : Bool) (m : Nat) (sh : Int) : Nat :=
  if 0 ≤ sh then m * 2 ^ sh.toNat
  else
    let k := (-sh).toNat
    let q := m / 2 ^ k
    let r := m % 2 ^ k
    if r = 0 then q
    else match mode with
      | .rn => if 2 * r < 2 ^ k then q else if 2 ^ k < 2 * r then q + 1 else q + q % 2
      | .rz => q
      | .ru => if neg then q else q + 1
      | .rd => if neg then q + 1 else q

/-- The magnitude code of m × 2^e in a format's precision, without its range limit (R84). -/
def magCode (f : Fmt) (mode : RMode) (neg : Bool) (m : Nat) (e : Int) : Nat :=
  if m = 0 then 0
  else
    let qmin := 1 - f.bias - f.mb
    let q0 := expOf m e - f.mb
    let q := if q0 < qmin then qmin else q0
    (q - qmin).toNat * 2 ^ f.mb + roundNat mode neg m (e - q)

def withSign (f : Fmt) (neg : Bool) (c : Nat) : Nat := if neg then c + 2 ^ (f.eb + f.mb) else c

/-- Rounds to a format with IEEE 754 overflow (R73): ±∞ or ± max by the attribute. Formats here have ∞ and NaN. -/
def roundIeee (f : Fmt) (mode : RMode) : FV → Nat
  | .nan => f.nanc.getD 0
  | .inf neg => withSign f neg (f.infc.getD f.maxc)
  | .fin neg m e =>
    let c := magCode f mode neg m e
    let big := match mode with
      | .rn => f.infc.getD f.maxc
      | .rz => f.maxc
      | .ru => if neg then f.maxc else f.infc.getD f.maxc
      | .rd => if neg then f.infc.getD f.maxc else f.maxc
    withSign f neg (if f.maxc < c then big else c)

/-- Rounds to a format with saturation (R84): the code, and whether a finite source was beyond max. A negative value that
rounds to zero gives the -0 code, in the formats of R83 too. DESIGN CHOICE, log 87. -/
def roundSat (f : Fmt) (mode : RMode) : FV → Nat × Bool
  | .nan => (f.nanc.getD 0, false)
  | .inf neg => (withSign f neg (f.infc.getD f.maxc), false)
  | .fin neg m e =>
    let c := magCode f mode neg m e
    (withSign f neg (if f.maxc < c then f.maxc else c), decide (f.maxc < c))

/-! ### Exact sums and products -/

def FV.neg : FV → FV
  | .nan => .nan
  | .inf s => .inf (!s)
  | .fin s m e => .fin (!s) m e

def sgn (neg : Bool) (m : Nat) : Int := if neg then -(m : Int) else m

/-- Exact product; ∞ × 0 is NaN (R82, R124). -/
def FV.mul : FV → FV → FV
  | .nan, _ => .nan
  | _, .nan => .nan
  | .inf s, .inf t => .inf (s != t)
  | .inf s, .fin t m _ => if m = 0 then .nan else .inf (s != t)
  | .fin s m _, .inf t => if m = 0 then .nan else .inf (s != t)
  | .fin s m e, .fin t n f => .fin (s != t) (m * n) (e + f)

/-- Signed integer of a finite value over 2^q, q at or below its exponent. -/
def FV.over (q : Int) : FV → Int
  | .fin s m e => sgn s m * 2 ^ (e - q).toNat
  | _ => 0

def ofInt (v q : Int) : FV := .fin (decide (v < 0)) v.natAbs q

/-- Exact sum. A zero sum of opposite signs, or of numbers that cancel, is +0, or −0 toward −∞ (R123). -/
def FV.add (mode : RMode) : FV → FV → FV
  | .nan, _ => .nan
  | _, .nan => .nan
  | .inf s, .inf t => if s = t then .inf s else .nan
  | .inf s, .fin .. => .inf s
  | .fin .., .inf t => .inf t
  | .fin s m e, .fin t n f =>
    if m = 0 ∧ n = 0 then .fin (if s = t then s else mode == .rd) 0 0
    else
      let q := if e < f then e else f
      let v := FV.over q (.fin s m e) + FV.over q (.fin t n f)
      if v = 0 then .fin (mode == .rd) 0 0 else ofInt v q

/-- Steps 1 to 5 of R82 over the terms of a sum: zero when the exact value is zero takes the sign given. -/
def sumTerms (zneg : Bool) (ts : List FV) : FV :=
  if ts.any (fun t => t == .nan) then .nan
  else
    let p := ts.any (fun t => t == .inf false)
    let n := ts.any (fun t => t == .inf true)
    if p && n then .nan
    else if p then .inf false
    else if n then .inf true
    else
      let q := ts.foldl (fun q t => match t with | .fin _ _ e => if e < q then e else q | _ => q) 0
      let v := ts.foldl (fun (v : Int) t => v + FV.over q t) 0
      if v = 0 then .fin zneg 0 0 else ofInt v q

/-- Compares two numbers: −1, 0 or 1; zeros are equal. NaN is not compared here. -/
def FV.cmp : FV → FV → Int
  | .inf s, .inf t => if s = t then 0 else if s then -1 else 1
  | .inf s, _ => if s then -1 else 1
  | _, .inf t => if t then 1 else -1
  | .fin s m e, .fin t n f =>
    let q := if e < f then e else f
    let a := FV.over q (.fin s m e)
    let b := FV.over q (.fin t n f)
    if a < b then -1 else if a = b then 0 else 1
  | _, _ => 0

/-! ### Division and roots, with a sticky bit -/

/-- m/n with a sticky bit in bit 0, scaled by 2^−(k + 1). -/
def quot (m n k : Nat) : Nat :=
  let x := m * 2 ^ k
  2 * (x / n) + (if x % n = 0 then 0 else 1)

/-- ⌊√x⌋ by binary digits, from bit b down. -/
def isqrt (x : Nat) : Nat → Nat → Nat
  | 0, r => r
  | b + 1, r =>
    let r1 := r + 2 ^ b
    isqrt x b (if r1 * r1 ≤ x then r1 else r)

def FV.div : FV → FV → FV
  | .nan, _ => .nan
  | _, .nan => .nan
  | .inf _, .inf _ => .nan
  | .inf s, .fin t _ _ => .inf (s != t)
  | .fin s _ _, .inf t => .fin (s != t) 0 0
  | .fin s m e, .fin t n f =>
    if n = 0 then (if m = 0 then .nan else .inf (s != t))
    else if m = 0 then .fin (s != t) 0 0
    else .fin (s != t) (quot m n 64) (e - f - 65)

def FV.sqrt : FV → FV
  | .nan => .nan
  | .inf s => if s then .nan else .inf false
  | .fin s m e =>
    if m = 0 then .fin s 0 0
    else if s then .nan
    else
      let odd := e % 2 == 1
      let x := (if odd then 2 * m else m) * 2 ^ 80
      let r := isqrt x 56 0
      .fin false (2 * r + (if r * r = x then 0 else 1)) ((if odd then e - 1 else e) / 2 - 41)

def FV.rsqrt : FV → FV
  | .nan => .nan
  | .inf s => if s then .nan else .fin false 0 0
  | .fin s m e =>
    if m = 0 then .inf s
    else if s then .nan
    else
      let odd := e % 2 == 1
      let x := if odd then 2 * m else m
      let r := isqrt (2 ^ 160 / x) 81 0
      .fin false (2 * r + (if r * r * x = 2 ^ 160 then 0 else 1)) (-((if odd then e - 1 else e) / 2) - 81)

/-! ### 2^a and log2 a

Both are irrational unless the argument is an integer or a power of two, so a fixed-point value with about 200
correct bits and a sticky bit rounds correctly in every mode. -/

/-- ⌊ln 2 × 2^256⌋. -/
def ln2 : Nat := 0xb17217f7d1cf79abc9e3b39803f2f6af40f343267298b62d8a0d175b8baafa2b

/-- Σ x^i / i! in fixed point with 256 fraction bits. -/
def expSeries (x : Nat) : Nat → Nat → Nat → Nat → Nat
  | 0, _, _, acc => acc
  | fuel + 1, i, term, acc =>
    let t := term * x / 2 ^ 256 / i
    expSeries x fuel (i + 1) t (acc + t)

def FV.exp2 : FV → FV
  | .nan => .nan
  | .inf s => if s then .fin false 0 0 else .inf false
  | .fin s m e =>
    let v : Int := if 0 ≤ e then sgn s m * 2 ^ (if 16 < e.toNat then 16 else e.toNat) else sgn s m
    let q : Int := if 0 ≤ e then 0 else e
    let k := (-q).toNat
    let n := v.fdiv (2 ^ k)
    let f := (v.fmod (2 ^ k)).toNat
    let nc : Int := if 300 < n then 300 else if n < -300 then -300 else n
    if f = 0 then .fin false 1 nc
    else
      let x := f * 2 ^ (256 - k) * ln2 / 2 ^ 256
      .fin false (2 * expSeries x 70 1 (2 ^ 256) (2 ^ 256) + 1) (nc - 257)

/-- Binary digits of log2 of y/2^320 in [1, 2). -/
def logDigits : Nat → Nat → Nat → Nat
  | 0, _, acc => acc
  | fuel + 1, y, acc =>
    let y2 := y * y / 2 ^ 320
    if 2 ^ 321 ≤ y2 then logDigits fuel (y2 / 2) (2 * acc + 1) else logDigits fuel y2 (2 * acc)

def FV.log2 : FV → FV
  | .nan => .nan
  | .inf s => if s then .nan else .inf false
  | .fin s m e =>
    if m = 0 then .inf true
    else if s then .nan
    else
      let l := Nat.log2 m
      let ex : Int := l + e
      if m = 2 ^ l then ofInt ex 0
      else
        let d := logDigits 140 (m * 2 ^ (320 - l)) 0
        let v : Int := ex * 2 ^ 140 + d
        if 0 ≤ v then .fin false (2 * v.toNat + 1) (-141)
        else .fin true (2 * ((-v).toNat - 1) + 1) (-141)

/-! ### Integers (R83, R84, R126, R132, R133) -/

/-- A finite value rounded to an integer. -/
def roundInt (mode : RMode) (neg : Bool) (m : Nat) (e : Int) : Int := sgn neg (roundNat mode neg m e)

/-- Rounds to an integer and clamps to [lo, hi]; NaN gives 0. The flag says that a finite source was beyond the maximum: its
rounded value has a magnitude above hi (R84, R86); a negative one is clamped to lo all the same (DEDUCED, log 88). -/
def toIntSat (mode : RMode) (lo hi : Int) : FV → Int × Bool
  | .nan => (0, false)
  | .inf s => (if s then lo else hi, false)
  | .fin s m e =>
    let v := roundInt mode s m e
    (max lo (min v hi), decide (hi < (v.natAbs : Int)))

/-- fround (R126): an integral value with the sign of a. -/
def FV.round (mode : RMode) : FV → FV
  | .fin s m e => if 0 ≤ e then .fin s m e else .fin s (roundNat mode s m e) 0
  | x => x

/-! ### FIRN (R79, R80, R83) -/

/-- Length of the run of bits equal to b from bit i downward. -/
def runLen (m : Nat) (b : Bool) : Nat → Nat
  | 0 => 0
  | i + 1 => if Nat.testBit m i == b then 1 + runLen m b i else 0

/-- Value of a magnitude of n − 1 bits with es exponent bits. -/
def firnMag (n es m : Nat) : Nat × Int :=
  if m = 0 then (0, 0)
  else
    let b := Nat.testBit m (n - 2)
    let k := runLen m b (n - 1)
    let r : Int := if b then (k : Int) - 1 else -(k : Int)
    -- bits below the run and its terminating bit
    let w := (n - 1) - k - 1
    let rest := m % 2 ^ w
    let e := if es ≤ w then rest / 2 ^ (w - es) else rest * 2 ^ (es - w)
    let fb := w - es
    let f := rest % 2 ^ fb
    (2 ^ fb + f, r * 2 ^ es + e - fb)

def firnDecode (n es c : Nat) : FV :=
  let s := Nat.testBit c (n - 1)
  let m := c % 2 ^ (n - 1)
  if m = 0 then (if s then .nan else .fin false 0 0)
  else let (v, e) := firnMag n es m; .fin s v e

/-- Compares m × 2^e with n × 2^f: less or equal. -/
def leDy (m : Nat) (e : Int) (n : Nat) (f : Int) : Bool :=
  let q := if e < f then e else f
  decide (m * 2 ^ (e - q).toNat ≤ n * 2 ^ (f - q).toNat)

/-- The FIRN code of a value, and whether a finite source was beyond max. Past the maximum the next step is the
maximum times 2^2^es. -/
def firnRound (n es : Nat) (mode : RMode) : FV → Nat × Bool
  | .nan => (2 ^ (n - 1), false)
  | .inf s => ((if s then 2 ^ (n - 1) else 0) + (2 ^ (n - 1) - 1), false)
  | .fin s m e =>
    let top := 2 ^ (n - 1) - 1
    let sg := if s then 2 ^ (n - 1) else 0
    let c := (List.range (top + 1)).foldl (fun c i =>
      let (v, f) := firnMag n es i
      if leDy v f m e then i else c) 0
    let (v, f) := firnMag n es c
    let (v2, f2) := if c < top then firnMag n es (c + 1) else (v, f + 2 ^ es)
    if leDy m e v f then (if c = 0 then (0, false) else (sg + c, false))
    else
      -- twice the midpoint
      let q := if f < f2 then f else f2
      let mid := v * 2 ^ (f - q).toNat + v2 * 2 ^ (f2 - q).toNat
      let up : Bool := match mode with
        | .rz => false
        | .ru => !s
        | .rd => s
        | .rn =>
          if !leDy mid (q - 1) m e then false
          else if !leDy m e mid (q - 1) then true
          else c % 2 == 1
      let c2 := if up then c + 1 else c
      if top < c2 then (sg + top, true) else if c2 = 0 then (0, false) else (sg + c2, false)

/-! ### Narrow formats by name (R75, R129) -/

/-- A value of a narrow code. -/
def narrowDecode : NarrowFmt → Nat → FV
  | .n8, c => ofInt (c % 256) 0
  | .i8, c => ofInt (if c % 256 < 128 then c % 256 else (c % 256 : Nat) - 256) 0
  | .n4, c => ofInt (c % 16) 0
  | .i4, c => ofInt (if c % 16 < 8 then c % 16 else (c % 16 : Nat) - 16) 0
  | .f16, c => .decode b16 (c % 65536)
  | .bf16, c => .decode bf16 (c % 65536)
  | .e4m3, c => .decode e4m3 (c % 256)
  | .e5m2, c => .decode e5m2 (c % 256)
  | .e2m3, c => .decode e2m3 (c % 64)
  | .e3m2, c => .decode e3m2 (c % 64)
  | .e2m1, c => .decode e2m1 (c % 16)
  | .firn8, c => firnDecode 8 1 (c % 256)
  | .firn6, c => firnDecode 6 0 (c % 64)

/-- The narrow code of a value, with the saturation flag (R84, R129, R130). -/
def narrowEncode (mode : RMode) : NarrowFmt → FV → Nat × Bool
  | .n8, x => let (v, b) := toIntSat mode 0 255 x; (v.toNat, b)
  | .i8, x => let (v, b) := toIntSat mode (-128) 127 x; ((v % 256).toNat, b)
  | .n4, x => let (v, b) := toIntSat mode 0 15 x; (v.toNat, b)
  | .i4, x => let (v, b) := toIntSat mode (-8) 7 x; ((v % 16).toNat, b)
  | .f16, x => roundSat b16 mode x
  | .bf16, x => roundSat bf16 mode x
  | .e4m3, x => roundSat e4m3 mode x
  | .e5m2, x => roundSat e5m2 mode x
  | .e2m3, x => roundSat e2m3 mode x
  | .e3m2, x => roundSat e3m2 mode x
  | .e2m1, x => roundSat e2m1 mode x
  | .firn8, x => firnRound 8 1 mode x
  | .firn6, x => firnRound 6 0 mode x

/-! ### Words -/

def lo32 (w : Word) : Nat := w.toNat % 2 ^ 32
def hi32 (w : Word) : Nat := w.toNat / 2 ^ 32
def f32 (w : Word) : FV := .decode b32 (lo32 w)
def f32hi (w : Word) : FV := .decode b32 (hi32 w)
/-- A .f32 result: bits [63:32] are 0 (R72). -/
def w32 (c : Nat) : Word := BitVec.ofNat 64 c
def wc32 (re im : Nat) : Word := BitVec.ofNat 64 (re + im * 2 ^ 32)
def canonNaN32 : Nat := 0x7FC00000

/-- Rounds to binary32 by IEEE, or nearest-even. -/
def r32 (mode : RMode) (x : FV) : Nat := roundIeee b32 mode x

/-- RNE(x + y) of two binary32 codes, as `afadd` and `fadd` have it (R226). -/
def addRne (a b : Nat) : Nat := r32 .rn (FV.add .rn (.decode b32 a) (.decode b32 b))

/-- `afadd` (R226): .c32 at width 64, one binary32 value at width 32. -/
def afaddWord (narrow : Bool) (v b : Word) : Word :=
  if narrow then w32 (addRne (lo32 v) (lo32 b))
  else wc32 (addRne (lo32 v) (lo32 b)) (addRne (hi32 v) (hi32 b))

/-- TWOSUM on binary32 values, saturating (R6, R84, R92): the sum and its exact error rounded. -/
def twoSumSat (a b : FV) : FV × FV :=
  let t := FV.add .rn a b
  let s := FV.decode b32 (roundSat b32 .rn t).1
  let e := FV.decode b32 (roundSat b32 .rn (FV.add .rn t s.neg)).1
  (s, e)

end Sys2Proof.Machine
end

