-- ==== Sys2Proof/Config.lean ====
section
/-! DEFINITION. What an implementation fixes, and the free values: the constants the manual leaves open. A free
value has no body, so nothing can be proved of it beyond its bound. The figures of R1, R138, R169, R242, R270 and
their like are the manual's own numbers. -/

namespace Sys2Proof.Config

/-! ### Figures the manual fixes -/

/-- Devices a system can hold (R1: a 21-bit device number). -/
def maxDevices : Nat := 2097152
/-- Logical sites of a device (R1). -/
def sitesPerDevice : Nat := 64
/-- Clusters of a site (R1). -/
def clustersPerSite : Nat := 4
/-- Logical cores of a cluster (R1). -/
def coresPerCluster : Nat := 64
/-- Team slots of a core (R1). -/
def slotsPerCore : Nat := 8
/-- Register rows of a core (R1). -/
def rowsPerCore : Nat := 4096
/-- Bytes of one core's scratchpad (R1). -/
def scratchPerCore : Nat := 262144
/-- Ticks of the model's clock in one nanosecond; a core cycle at 1.5 GHz is two of them (R1). -/
def ticksPerNs : Nat := 3
/-- Ticks of one core cycle (R1). -/
def ticksPerCycle : Nat := 2

/-! ### Free values -/

/-- A bit the manual leaves open, one for each draw: whether an access under a leaf that was changed before its
`tlbi` uses the old leaf (R174). FREE VALUE. -/
opaque freeBool : Nat → Bool

/-- A number the manual leaves open, one for each draw: the skid of a freeze record, used modulo 65 (R365).
FREE VALUE. -/
opaque freeNat : Nat → Nat

/-- A word the manual leaves open, one for each draw. FREE VALUE. -/
opaque freeWord : Nat → BitVec 64

/-- The effective value of a field under `immh` without `imm`, which R43 does not give: payload, the field's own value.
FREE VALUE, log 79. -/
opaque immhAlone : BitVec 24 → Int → Int

/-- The fixed schedule of the rotor switches (R268): in this slot this port of the site is matched to the device. The manual
does not give the schedule. Left uninterpreted. -/
opaque rotorMatched : Nat → Nat → Nat → Nat → Bool

/-- The units of a site, as R371 numbers them, that a boot self-test finds failing: site, boot count (R372).
FREE VALUE. -/
opaque selfTest : Nat → Nat → List Nat

/-- SHAKE256 with 64 bytes of output (R1, R347, R371): a function fixed outside this manual, left uninterpreted. -/
opaque shake256 : List (BitVec 8) → List (BitVec 8)

/-- The CRC-32 of a group descriptor (R321), whose polynomial the manual does not give. Left uninterpreted. -/
opaque crc32 : List (BitVec 8) → Nat

/-- Ed448 signing with a context string (R347): context, message. The private half never leaves the fuse block.
Left uninterpreted. -/
opaque ed448Sign : Nat → String → List (BitVec 8) → List (BitVec 8)

/-- Ed448 verification under the owner's or the firmware key (R373, R389, R391): context, message, signature.
Left uninterpreted. -/
opaque ed448Verify : String → List (BitVec 8) → List (BitVec 8) → Bool

/-- Fixed facts of one device that the attestation report carries (R347): serial number and identity public key. -/
opaque deviceSerial : Nat → List (BitVec 8)
opaque identityKey : Nat → List (BitVec 8)

end Sys2Proof.Config
end

