-- ==== Sys2Proof/Machine/State.lean ====
section
/-! DEFINITION. The state of the machine as plain data: every piece of state the spec names (INVENTORY.md, State),
the machine right after reset, and the two ways a step can stop. Numbers that software never sees as a word (keys,
identities, times, counts) are natural numbers; everything software reads as a word is a bit vector.

Keys. A site is named by its physical device × 64 + physical site; a core by its site key × 256 + cluster × 64 +
core; a byte of memory by its site key × 2^37 + OFS (R21), which is its physical global address. Times are in ticks
of one third of a nanosecond; a core cycle is two ticks (R1). -/

namespace Sys2Proof.Machine

/-- Bytes by address: strictly rising addresses, no entry equal to 0, which is what an unlisted byte reads as. -/
abbrev Memory := List Host.Cell

/-! ### A team -/

/-- The fields of a kernel header (R24). -/
structure Header where
  /-- the header's own global address -/
  addr : Word := 0
  entry : Word := 0
  lanes : Nat := 1
  kregs : Nat := 0
  qdepth : Nat := 0
  priority : Nat := 0
  spawnable : Bool := false
  usesTx : Bool := false
  gang : Bool := false
  supervisor : Bool := false
  bintimer : Nat := 0
  scratch : Nat := 0
  gangteams : Nat := 0
  gangspan : Nat := 0
deriving DecidableEq, Repr

/-- A carry queue: its configured depth and its entries, oldest first (R69, R70). -/
structure Queue where
  depth : Nat := 0
  items : List LaneVec := []
deriving DecidableEq, Repr

/-- The registers of a team (R16): drift entries newest first, one lane vector each. -/
structure Regs where
  drift : List LaneVec := []
  k : List LaneVec := []
  q : List Queue := []
  s : List Word := []
  p : List Mask := []
deriving DecidableEq, Repr

/-- One level of the mask stack (R57, R59). -/
structure Level where
  image : Mask := 0
  isLoop : Bool := false
  inElse : Bool := false
  target : Word := 0
  body : Word := 0
deriving DecidableEq, Repr

/-- The pending hint: three slots, each empty or a payload (R42). -/
structure Hint where
  imm : Option (BitVec 24) := none
  immh : Option (BitVec 24) := none
  mod : Option (BitVec 24) := none
deriving DecidableEq, Repr

/-- Control state of a team's slot (R57, R67, R354). `stack` holds the top level first; DEPTH is its length. -/
structure Ctl where
  pc : Word := 0
  live : Mask := 0
  cur : Mask := 0
  brk : Mask := 0
  stack : List Level := []
  hint : Hint := {}
  fmt : BitVec 32 := 0
  msel : Word := 0
  priv : Nat := 0
  inHandler : Bool := false
  tvb : Word := 0
  home : BitVec 16 := 0
  acting : BitVec 16 := 0
deriving DecidableEq, Repr

/-- Where a team stands and what its read-only registers answer (R13, R14, R67). -/
structure Place where
  /-- key of its site -/
  site : Nat := 0
  /-- its partition -/
  part : Nat := 0
  lsite : Nat := 0
  ldev : Nat := 0
  cluster : Nat := 0
  core : Nat := 0
  slot : Nat := 0
  team : Nat := 0
  launch : Nat := 0
  /-- run of register rows (R15) -/
  rowBase : Nat := 0
  /-- the rows of its allocation that have thawed, each with the index in the save area where it stands (R344) -/
  thawed : List (Nat × Nat) := []
  /-- the first row of its allocation that its run of rows still holds, where a move has left the thawed ones before it out
  (R287) -/
  rowSkip : Nat := 0
  scratchBase : Nat := 0
  /-- the scratch bytes have thawed (R344) -/
  scratchThawed : Bool := false
  args : List LaneVec := []
deriving DecidableEq, Repr

/-- Page kinds (R171), weakest last. -/
inductive PageKind where
  | strong | rc | unordered
deriving DecidableEq, Repr

/-- One line held by a transaction, with the bytes to put back when it was written (R234, R235). -/
structure TxLine where
  line : Nat
  write : Bool
  undo : List Byte
deriving DecidableEq, Repr

/-- Transaction state (R234 to R240). -/
structure Tx where
  live : Bool := false
  held : Bool := false
  depth : Nat := 0
  ts : BitVec 48 := 0
  code : BitVec 8 := 0
  heldpc : Word := 0
  handler : Word := 0
  saveV : Mask := 0
  saveC : Mask := 0
  saveB : Mask := 0
  saveStack : List Level := []
  lines : List TxLine := []
deriving DecidableEq, Repr

/-- One lane's part of an outstanding access: its physical address, operand and expected value, and the value it
has taken (for a pair, the second word beside). -/
structure LaneAcc where
  lane : Nat
  addr : Nat
  kind : PageKind
  /-- replica sites, as keys; empty when the page is not replicated -/
  repl : List Nat
  opnd : Word
  expect : Word
  got : Option (Word × Word)
deriving DecidableEq, Repr

/-- A range of physical addresses, low end and end. -/
abbrev Span := Nat × Nat

/-- What an outstanding access does. -/
inductive AccOp where
  | load (size : Nat) (sign : Bool)
  | atom (o : RatomOp) (w32 : Bool)
deriving DecidableEq, Repr

/-- An access issued and not yet complete: a load that has not returned (R165, R185), or an atomic or reduction in
its port's write queue (R223, R228). `age` is the drift entry that waits for it. -/
structure Pend where
  id : Nat
  seq : Nat
  op : AccOp
  /-- a release write: the physical addresses whose accesses it orders under its scope (R190) -/
  release : Option Span
  /-- an acquire read that has not read yet: the addresses whose accesses it orders (R190) -/
  acquire : Option Span
  dst : Option Dst
  /-- `ldu`: one read for all lanes (R221) -/
  uniform : Bool
  age : Nat
  act : Mask
  lanes : List LaneAcc
deriving DecidableEq, Repr

/-- A long instruction in progress (R117, R119): opcode, the values staged before the first pass writes (those that inactive
lanes push among them), operand a as it was read then, the running value after the passes written, and their number. -/
structure LongOp where
  op : Nat
  staged : LaneVec
  src : LaneVec
  run : Word
  passes : Nat
deriving DecidableEq, Repr

/-- A trap to be raised at a later instruction (R152, R245, R270, R276). -/
inductive DeferWhen where
  /-- of the matrix unit, with the tile whose FAULT its entry clears -/
  | matrix (tile : Option Nat)
  | engine (paths : List CPath) (token : Option Nat)
  | remote
deriving DecidableEq, Repr

structure Deferred where
  w : DeferWhen
  cls : Nat
  code : Nat
  op : Nat
  lane : Nat
  addr : Word
  pidx : Nat
  aux : Nat
deriving DecidableEq, Repr

/-- The team's part of a reduction instance (R326, R328, R329). -/
structure Handle where
  site : Nat
  inst : Nat
  job : Nat
  index : Nat
  contributed : Bool
  /-- closed by the "remote failed" trap: nothing is left to wait for (R329) -/
  failed : Bool
deriving DecidableEq, Repr

/-- Why a team is parked, or stalled at an instruction (R7, R11). -/
inductive Park where
  /-- a translation entry of a site's fault buffer (R175) -/
  | translation (site tenant page : Nat)
  /-- a place in a full fault buffer (R175) -/
  | faultPlace (site tenant page : Nat)
  /-- a promise class, through this cell of a lane (R311) -/
  | cell (lane : Nat) (addr : Word)
  /-- a barrier word and the token waited for (R301) -/
  | barrier (word token : Nat)
  /-- a spawn bin for this header (R291) -/
  | bins (hdr : Word)
  /-- a counter to reach a target, and the time bound in ns (R253) -/
  | counter (word : Nat) (target : Word) (timeout : Nat)
  /-- copies of the core that count toward a path (R180) -/
  | copies (ids : List Nat)
  /-- members of a fork set, or commands that an `exit` waits for (R258, R61) -/
  | forkSet (ids : List Nat)
  /-- engine entries of the core (R242) -/
  | entries
  /-- remote entries of the core or site (R270) -/
  | remoteEntries
  /-- the team's remote operations (R276, R61) -/
  | remote (ids : List Nat)
  /-- remote operations and reduction packets resolved through names that a `tlbi` has removed (R358) -/
  | named (ids : List Nat)
  /-- the matrix unit (R138) -/
  | matrixUnit
  /-- queued matrix instructions; none names all (R161, R61) -/
  | matrixDone (tile : Option Nat)
  /-- a queued matrix instruction that met a translation fault (R152) -/
  | matrixFault
  /-- room for so many records in the device launch queue (R293) -/
  | launchQueue (need : Nat)
  /-- a reduction slot, for a tenant's job (R322) -/
  | reductionSlot (tenant job : Nat)
  /-- the correction cells of an instance on the team's site (R329) -/
  | reductionClose (inst index : Nat)
  /-- room on a core to restore an exported team with so many commands (R360) -/
  | restore (core team cmds : Nat)
  /-- delivery of a remote promise operation that cannot succeed: the lane and the cell it names, the cell not reached
  (R304) -/
  | delivery (lane : Nat) (addr cell : Word)
  /-- a way across the external plane for a packet of a promise instruction (R268) -/
  | rotor
deriving DecidableEq, Repr

/-- What a wake delivers to the parked instruction. -/
inductive Wake where
  | value (v : Word)
  | phase (ok : Bool) (v : Word)
  /-- a trap at it, marking every active lane, or one lane with an address -/
  | trap (cls code aux : Nat) (at_ : Option (Nat × Word))
  /-- the time bound of an `xopen` without a slot has passed (R322) -/
  | expired
deriving DecidableEq, Repr

/-- A team's place in its life. -/
inductive TStatus where
  /-- waits for admission since then; aged, with the target core named for it (R286) -/
  | waiting (since : Nat) (aged : Bool) (target : Option Nat)
  /-- resident, but its gang is not yet complete (R288); since when it has waited (R289) -/
  | reserved (since : Nat)
  | running
  | parked (why : Park) (since : Nat)
  /-- retired, its stores, copies and remote operations not all complete (R61) -/
  | retiring
  /-- out at a slice end since then: saved in full or cooperatively, and the park it stood in with its start (R341) -/
  | halted (full : Bool) (why : Option (Park × Nat)) (since : Nat)
  | exported (token : Word)
  | retired
deriving DecidableEq, Repr

/-- A queued matrix instruction: its word, argument values as read, the party it acts for, progress index (R150,
R162). Shape and tile are fields of the word. -/
structure MEntry where
  /-- its place in the team's program order (R151) -/
  seq : Nat
  /-- some page it reads keeps reads in order (R186) -/
  keep : Bool
  /-- the physical bytes it may read, as its check found them -/
  spans : List Span
  /-- memory as it stood when another party's write came to a line that the team has fetched from behind it: what it still
  reads, it reads there (R181, R186) -/
  old : Option Memory
  word : Code
  args : List Word
  tenant : Nat
  user : Bool
  prog : Nat
  /-- parked on a translation fault (R152) -/
  stuck : Bool
  /-- the rload in place, repeated on resume (R162) -/
  again : Bool
deriving DecidableEq, Repr

/-- Bytes that a matrix instruction has put out, by physical address and replica sites: a store of the team that takes
its place at the `mwait` that waits for the tile (R151). -/
structure MWrite where
  tile : Nat
  addr : Nat
  kind : PageKind
  repl : List Nat
  bytes : List Byte
  /-- offsets of the bytes that a load or fetch of the team has returned already: what comes later sees them too (R31, R194) -/
  seen : List Nat := []
deriving DecidableEq, Repr

/-- A line that a team has fetched from while accesses that go before the fetch were outstanding: they go before any write by
another party to the line (R181, R186). -/
structure Fetch where
  line : Nat
  kind : PageKind
  seq : Nat
deriving DecidableEq, Repr

/-- What the state keeps of a command that an export took along: the party it acts for, and its set (R257, R360, R394). -/
structure CmdKeep where
  tenant : Nat
  user : Bool
  token : Option Nat
  setCtr : Option Word
deriving DecidableEq, Repr

/-- A packet of the remote instruction at which a team stalls that has no entry yet: its lowest lane, its destination as the
checks at issue resolved it, and the counter places that its words name (R270, R320). -/
structure Unsent where
  lane : Nat
  site : Nat
  inc : BitVec 32
  ctrs : List Word
deriving DecidableEq, Repr

/-- A team (R16). -/
structure Team where
  id : Nat := 0
  status : TStatus := .running
  hdr : Header := {}
  place : Place := {}
  regs : Regs := {}
  ctl : Ctl := {}
  tx : Tx := {}
  /-- loads and atomics outstanding, in program order -/
  pend : List Pend := []
  /-- program-order position of the next memory event (R182) -/
  seq : Nat := 0
  /-- the position of its latest `xfence`: what stands before it is over when a later command starts (R192) -/
  xseq : Nat := 0
  /-- matrix stores whose `mwait` has not come (R151) -/
  mwr : List MWrite := []
  /-- since when it has stalled at this instruction, across the stall's attempts (R242, R270, R322) -/
  stalled : Option Nat := none
  /-- its next word stalled when it was last tried (R150, R229, R294) -/
  held : Bool := false
  fetched : List Fetch := []
  long : Option LongOp := none
  /-- fork set: open, counter of `fork.c`, fork count (R257) -/
  forkOpen : Bool := false
  forkCtr : Option Word := none
  forkCount : Nat := 0
  /-- token of the latest set, and the pc of a `join` that closed it and has not completed (R258) -/
  forkTok : Nat := 0
  joinPc : Option Word := none
  deferred : List Deferred := []
  handles : List Handle := []
  /-- word 1 of the entry the latest `fbpop` removed (R359) -/
  fbWord1 : Word := 0
  /-- lanes of the parked instruction that have acted already (R216, R242, R291) -/
  did : Mask := 0
  wake : Option Wake := none
  /-- a yield request is posted (R340) -/
  yieldReq : Bool := false
  /-- its core's slot count when it last issued, or became ready (R294) -/
  lastIssue : Nat := 0
  /-- when it came back from a slice end (R138) -/
  resumedAt : Nat := 0
  /-- queued matrix entries recorded at a slice end, the rload in place first (R162) -/
  savedMx : Option (List MEntry) := none
  /-- admitted again ahead of its equals after a `launch` park (R293) -/
  aheadOfEquals : Bool := false
  /-- lanes of a `spawn` parked on full bins that are still to place, with the headers as it read them (R291, R317) -/
  spawning : List (Nat × Header) := []
  unsent : List Unsent := []
  /-- the commands that its export took along, in the image's order (R360) -/
  cmdKeep : List CmdKeep := []
deriving DecidableEq, Repr

/-! ### A core -/

/-- A write-buffer entry: a 64-byte line with the bytes written, by offset (R169). -/
structure WbEntry where
  id : Nat
  team : Nat
  seq : Nat
  line : Nat
  bytes : List (Nat × Byte)
  kind : PageKind
  /-- a release store: the addresses whose accesses it orders (R190) -/
  release : Option Span
  repl : List Nat
deriving DecidableEq, Repr

/-- A valid leaf of a translation table (R171). -/
structure Leaf where
  kind : PageKind
  repl : Bool
  wr : Bool
  ex : Bool
  usr : Bool
  big : Bool
  /-- site-local frame base -/
  frame : Nat
  rmask : BitVec 64
deriving DecidableEq, Repr

/-- A TLB entry (R174): tenant, OFS[36:16] of the page's first 64 KiB, leaf. -/
structure TlbEntry where
  tenant : Nat
  page : Nat
  leaf : Leaf
deriving DecidableEq, Repr

/-- The rload in place with the resident B (R153): element codes of each column, and its scale bytes. -/
structure RLoad where
  /-- the party it acts for (R394) -/
  tenant : Nat
  user : Bool
  src : Word
  stride : Word
  kres : Nat
  nres : Nat
  fmt : BitVec 32
  codes : List (List Nat)
  scales : List (List Nat)
deriving DecidableEq, Repr

/-- Per-slot tile state (R143). -/
structure Slot where
  kind : TKind := .f32
  sat : Bool := false
  rowsum : List Word := []
  step : Nat := 0
  fault : Bool := false
deriving DecidableEq, Repr

/-- A column record (R157). -/
structure ColRec where
  col : Nat
  mult : BitVec 32
  shift : BitVec 8
  zout : BitVec 8
  bias : BitVec 32
deriving DecidableEq, Repr

/-- Slot states and loaded columns of a tenant whose tiles have thawed to its save area (R139, R344, R345). -/
structure MxOut where
  tenant : Nat
  slots : List Slot
  cols : List Nat
deriving DecidableEq, Repr

/-- The matrix unit of a core (R138 to R143, R157). -/
structure Matrix where
  holder : Option Nat := none
  tenant : Option Nat := none
  rl : Option RLoad := none
  acc : Memory := []
  slots : List Slot := List.replicate 8 {}
  cols : List ColRec := []
  queue : List MEntry := []
  /-- when the queue last moved (R367) -/
  moved : Nat := 0
  out : List MxOut := []
deriving DecidableEq, Repr

/-- A thaw in progress on a core (R344, R346): the team it makes room for, the runs of rows and of scratch bytes that must
come free of other tenants' halted teams, and when it began. -/
structure Thaw where
  team : Nat
  rows : List (Nat × Nat)
  scratch : Nat × Nat
  since : Nat
  /-- the halted teams that it has still to write out -/
  owners : List Nat := []
deriving DecidableEq, Repr

/-- A core. Only cores that differ from this record are listed. -/
structure Core where
  key : Nat := 0
  /-- issue slots that have passed (R294) -/
  slots : Nat := 0
  wbuf : List WbEntry := []
  tlb : List TlbEntry := []
  /-- physical line numbers the line buffer holds (R168) -/
  lbuf : List Nat := []
  mx : Matrix := {}
  thaw : Option Thaw := none
deriving DecidableEq, Repr

/-! ### A site -/

/-- Who waits on a translation entry (R175). -/
inductive FWaiter where
  | team (id : Nat)
  | seg (cmd lo : Nat)
  | op (id : Nat)
  | dep (part launch cell : Nat)
  | fill (id : Nat)
  | action (id : Nat)
  | sequencer (core : Nat)
  | output (site inst index : Nat)
deriving DecidableEq, Repr

/-- An entry of the site fault buffer, in arrival order (R175, R176, R359). -/
inductive FbEntry where
  | page (tenant page : Nat) (wrt fet eng lvl : Bool) (first : Word) (popped : Bool) (waiters : List FWaiter)
  | event (w0 w1 : Word)
deriving DecidableEq, Repr

/-- A fault that waits for a place in the full buffer. -/
structure FbWait where
  tenant : Nat
  page : Nat
  wrt : Bool
  fet : Bool
  eng : Bool
  lvl : Bool
  first : Word
  who : FWaiter
deriving DecidableEq, Repr

/-- A name-cache entry (R177). -/
structure NameEntry where
  tenant : Nat
  ldev : Nat
  lsite : Nat
  inc : BitVec 32
  site : Nat
deriving DecidableEq, Repr

/-- An armed action (R254), in arming order. -/
structure Armed where
  ctr : Nat
  thr : Word
  kind : Nat
  target : Word
  value : Word
  recd : List Word
  tenant : Nat
  user : Bool
deriving DecidableEq, Repr

/-- A waiter of an empty promise root (R307). -/
inductive CWaiter where
  | team (id : Nat)
  | dep (part launch cell : Nat)
deriving DecidableEq, Repr

/-- The waiter list of one empty root, by physical address, with the LINK value that names it (R303). -/
structure WaitList where
  root : Nat
  head : BitVec 60
  who : List CWaiter
deriving DecidableEq, Repr

/-- A spawn bin that holds records (R291). -/
structure Bin where
  num : Nat
  cluster : Nat
  tenant : Nat
  part : Nat
  launch : Nat
  hdr : Header
  argblk : Word
  opened : Nat
  /-- arrival number of its first record -/
  order : Nat
  recs : List (List Word)
deriving DecidableEq, Repr

/-- A value travelling in a reduction (R325): bytes of the buffer, contributors included, flags. -/
structure XVal where
  bytes : List Byte
  incl : List Nat
  rescaled : Bool
  scalesat : Bool
deriving DecidableEq, Repr

/-- A tree node held at this site (R325, R328). -/
structure XNode where
  h : Nat
  j : Nat
  left : Option XVal
  right : Option XVal
  forwarded : Bool
  closed : Bool
deriving DecidableEq, Repr

/-- A write or fill that the root's outputs make for a participant (R328), in order. Its stage orders it among those of
all participants: result, record 0, completion fill, correction, final result, record 1, correction fill. -/
inductive XOut where
  | write (stage : Nat) (addr : Word) (bytes : List Byte)
  | fill (stage : Nat) (cell value : Word)
  /-- a fill under way, as a fill of the machine -/
  | filling (stage id : Nat)
  /-- the correction cell is filled -/
  | last
deriving DecidableEq, Repr

/-- A participant that opened the instance on this site (R326). -/
structure XMember where
  team : Nat
  index : Nat
  user : Bool
  result : Word
  corr : Word
  area : Word
  compCell : Word
  corrCell : Word
  closed : Bool
  /-- its correction cell is filled -/
  filled : Bool
  /-- outputs not yet applied; the first one may wait on a translation fault -/
  todo : List XOut
  stuck : Bool
deriving DecidableEq, Repr

/-- A reduction instance of a site (R322). -/
structure XInst where
  id : Nat
  num : Nat
  isSlot : Bool
  tenant : Nat
  job : Nat
  n : Nat
  spec : Word
  t : Word
  d : Nat
  crc : Nat
  contributors : List Word
  nodes : List XNode
  members : List XMember
  /-- TIME of the root's latest result -/
  fwdTime : Word
  /-- outputs kept for late openers (R328): the result with record 0, the latest correction, the final result with
  record 1 -/
  result : Option (XVal × List Byte)
  corr : Option XVal
  final : Option (XVal × List Byte)
deriving DecidableEq, Repr

/-- What a reduction packet carries. -/
inductive XKind where
  /-- input of node (h, j) on one side: right when set; first when its node forwards for the first time -/
  | up (h j : Nat) (right first : Bool) (v : XVal)
  | result (v : XVal) (rec : List Byte)
  | corr (v : XVal)
  | final (v : XVal) (rec : List Byte)
deriving DecidableEq, Repr

/-- The way that a packet takes: its plane, 1 mesh or 2 external, and on the external plane the site by whose ports it leaves
(R265). -/
structure Way where
  plane : Nat := 1
  exit : Nat := 0
deriving DecidableEq, Repr

/-- A reduction packet in flight, or held (R321, R323). -/
structure XPkt where
  id : Nat
  src : Nat
  dst : Nat
  tenant : Nat
  key : Nat
  job : Nat
  n : Nat
  spec : Word
  t : Word
  d : Nat
  crc : Nat
  contributors : List Word
  inc : BitVec 32
  sent : Nat
  kind : XKind
  /-- the tenant whose name it was sent by (R394) -/
  namer : Nat := tenant
  /-- the site whose relay buffer holds it, and whether one has (R268) -/
  relay : Option Nat := none
  relayed : Bool := false
  way : Way := {}
deriving DecidableEq, Repr

/-- What the records of a job count (R321, R323, R328). -/
structure XCount where
  key : Nat
  tenant : Nat
  job : Nat
  spec : Word
  t : Word
  d : Nat
  crc : Nat
  dropped : Nat
  mismatch : Bool
deriving DecidableEq, Repr

/-- A chunk being fetched again (R281). -/
structure Refetch where
  entry : Nat
  retries : Nat
  next : Nat
  /-- the chunks that matched already -/
  got0 : Option (List Byte)
  got1 : Option (List Byte)
deriving DecidableEq, Repr

/-- The four words of a host queue (R278) and its fetch in progress. -/
structure HostQueue where
  cfg : Word := 0
  head : BitVec 32 := 0
  tail : BitVec 32 := 0
  torn : Word := 0
  refetch : Option Refetch := none
  tenant : Nat := 0
deriving DecidableEq, Repr

/-- A packet delivery context (R267): toward a site, or for ordered rputs toward a device (R271). -/
structure Pdc where
  num : Nat
  dst : Nat
  ordered : Bool
  last : Nat
  /-- team, plane of a pinned stream of `rput.o` (R271) -/
  pin : Option (Nat × Nat)
deriving DecidableEq, Repr

/-- Management state of a site (R347, R371, R385 to R391). -/
structure Mgmt where
  powered : Bool := true
  inReset : Bool := false
  boot : Nat := 1
  builds : Nat := 0
  bootCount : Nat := 0
  /-- the image in the slot; one byte stands for the image that a device starts with: DESIGN CHOICE, log 128 -/
  image : List Byte := [0]
  /-- no update of the slot was cut off -/
  imageWhole : Bool := true
  nonce : List Byte := List.replicate 32 0
  attKind : Word := 0
  doorbell : Word := 0
  report : List Byte := []
  done : Word := 0
  imageLen : Word := 0
  updating : Bool := false
  log : List (List Byte) := []
  /-- SEQ of the torn entry that the latest boot discarded, as the boot report names it (R372) -/
  torn : Option Nat := none
  throttled : List Nat := []
deriving DecidableEq, Repr

/-- A site. Only sites that differ from this record are listed. -/
structure Site where
  key : Nat := 0
  part : Option Nat := none
  lsite : Nat := 0
  resetAt : Nat := 0
  timeOfs : Int := 0
  inc : BitVec 32 := 0
  incDrop : Word := 0
  keyDrop : Word := 0
  rselcfg : Word := 0x0028038402020200
  hq : List HostQueue := List.replicate 16 {}
  tvbdef : List Word := List.replicate 64 0
  tswNext : BitVec 16 := 0
  /-- outgoing tenant and deadline of the slice end in progress (R340) -/
  tswOut : Option (BitVec 16 × Nat) := none
  /-- the tenant whose slice this is, once TSWITCH has named one -/
  slice : Option (BitVec 16) := none
  evLost : Word := 0
  /-- DEAD masks of the four clusters, 128 bits each as R336 lays them out -/
  remap : List (BitVec 128) := List.replicate 4 0
  /-- the values of them that the fuses hold (R336, R390) -/
  fuses : List (BitVec 128) := List.replicate 4 0
  txClock : BitVec 48 := 0
  fbuf : List FbEntry := []
  fbWaits : List FbWait := []
  /-- since when the watchdog of R175 measures -/
  fbSince : Option Nat := none
  names : List NameEntry := []
  armed : List Armed := []
  waits : List WaitList := []
  bins : List Bin := []
  insts : List XInst := []
  held : List XPkt := []
  ports : BitVec 4 := 15
  /-- the fuses mark this site's mesh router dead (R264) -/
  routerDead : Bool := false
  pdcs : List Pdc := []
  /-- rotor slots that have passed (R268) -/
  rotor : Nat := 0
  /-- when the latest of them began -/
  rotorAt : Nat := 0
  /-- bytes that the relay buffer holds (R268) -/
  relay : Nat := 0
  frozen : Bool := false
  frzUnit : Nat := 0
  frzClock : Word := 0
  /-- this site's contribution to the line, until its release (R366) -/
  frzHeld : Bool := false
  /-- the draw that gives each unit's core cycles from the rise to its stop, once a freeze has been recorded -/
  frzSeed : Option Nat := none
  detail : BitVec 96 := 0
  /-- the detail that the raising unit's record keeps, beyond the release (R365) -/
  frzDetail : BitVec 96 := 0
  /-- notifies of the host that the freeze holds, oldest first: value and tenant (R364) -/
  heldNotes : List (Word × Nat) := []
  /-- errors of scratch and vault that a check has corrected (R369) -/
  corrected : Nat := 0
  /-- bytes 0x28 to 0x6F of the records that are not zero there, by unit (R365) -/
  frzRecs : List (Nat × List Byte) := []
  /-- logical cores that are fenced until the next build, and parts by their UNIT of R371 (R368) -/
  fenced : List Nat := []
  fencedParts : List Nat := []
  /-- physical core of each logical core, by cluster, since the last build (R336) -/
  grid : List (List (Nat × Nat)) := []
  /-- core units reinstated, in that order: the last in their rows' live orders (R373) -/
  late : List Nat := []
  mgmt : Mgmt := {}
deriving DecidableEq, Repr

/-! ### A partition -/

/-- The fields of a launch record (R26). -/
structure LRecord where
  header : Word := 0
  teamspc : Nat := 1
  clustersps : Nat := 1
  sites : Nat := 1
  firstsite : Nat := 0
  args : Word := 0
  deps : List Word := []
  comp : Word := 0
deriving DecidableEq, Repr

/-- States of a journal entry (R283). -/
inductive JState where
  | waiting | eligible | running | done | failed
deriving DecidableEq, Repr

/-- A launch-journal entry (R282, R283). -/
structure JEntry where
  launch : Nat
  tenant : Nat
  lrec : LRecord
  hdr : Header
  state : JState
  /-- sites (keys) whose DRAM holds a replica -/
  replicas : List Nat
  /-- dependence cells seen full -/
  depsFull : List Nat
  /-- a dependence cell was found invalid -/
  bad : Bool
  /-- clusters chosen on each site: site key, cluster -/
  clusters : List (Nat × Nat)
  /-- next TEAM number on each cluster: core group key site × 4 + cluster -/
  nextTeam : List (Nat × Nat)
  /-- tokens of exported teams (R360) -/
  exported : List Word
  /-- gang: attempts that failed, end of the back-off, sites granted, committed (R290) -/
  fails : Nat
  backoff : Option Nat
  granted : List Nat
  committed : Bool
deriving DecidableEq, Repr

/-- A record waiting to be accepted: 64 bytes, tenant, whether its source may start supervisor headers (R25). -/
structure Intake where
  bytes : List Byte
  tenant : Nat
  sup : Bool
  /-- R279: a byte that must be zero was not -/
  bad : Bool
  /-- the host queue it came from: site key, queue number -/
  src : Option (Nat × Nat)
  since : Nat
deriving DecidableEq, Repr

/-- A record in the device launch queue (R293). -/
structure DlqRec where
  bytes : List Byte
  tenant : Nat
  sup : Bool
deriving DecidableEq, Repr

/-- States of a partition (R368). -/
inductive PState where
  | running | frozen | recovering | lost
deriving DecidableEq, Repr

/-- A partition (R334). Its member sites are listed in logical order. -/
structure Partition where
  id : Nat
  dev : Nat
  sites : List Nat
  domain : Nat
  reserved : Nat
  state : PState
  nextLaunch : Nat
  journal : List JEntry
  intake : List Intake
  dlq : List DlqRec
  /-- when a record last left the queue (R293) -/
  dlqMoved : Nat
  replicas : List Nat
deriving DecidableEq, Repr

/-! ### Work in flight -/

/-- How far an engine command is. -/
inductive CmdState where
  | heldInSet | flight | stopped
deriving DecidableEq, Repr

/-- A segment of a command under way (R179, R246): where it starts in the command (an element's index for a gather or
scatter), and within it, in bytes, how far it is read and written in whole chunks. `held` are runs read and not yet
written, `put` runs of the chunk at `wr` that are written already. -/
structure Seg where
  lo : Nat
  rd : Nat
  wr : Nat
  held : List (Nat × List Byte)
  put : List (Nat × Nat)
  /-- the element's index, once read -/
  idx : Option Nat
  /-- parked on a translation fault -/
  stuck : Bool
deriving DecidableEq, Repr

/-- An engine command (R242 to R248). A prepared command has no team (R255). -/
structure Cmd where
  id : Nat
  team : Option Nat
  site : Nat
  core : Nat
  op : Nat
  fn : Nat
  lane : Nat
  args : List Word
  tenant : Nat
  user : Bool
  state : CmdState
  token : Option Nat
  setCtr : Option Word
  rewritten : Bool
  /-- when it started, or an engine last moved bytes of it -/
  issued : Nat
  /-- the 32 MiB blocks of its ranges that one leaf maps: pages of its segments (R179) -/
  bigs : List Nat := []
  /-- every segment that starts below this is written -/
  upto : Nat
  /-- starts of segments above it that are written too -/
  done : List Nat
  /-- segments under way -/
  segs : List Seg
deriving DecidableEq, Repr

/-- An increment on its way to a counter's port (R252, R261). -/
structure Inc where
  id : Nat
  team : Option Nat
  ctr : Nat
  amount : Nat
deriving DecidableEq, Repr

/-- A fill or a fired action whose target is not yet applied (R29, R254, R328). -/
structure Fill where
  id : Nat
  /-- site at whose port it acts -/
  site : Nat
  tenant : Nat
  user : Bool
  target : Word
  value : Word
  /-- 0 fill, 1 increment -/
  kind : Nat
  /-- event codes when already full and when it cannot be applied (R359) -/
  evFull : Nat
  evBad : Nat
  part : Nat
  waiting : Bool
deriving DecidableEq, Repr

/-- How far a remote operation is (R270): its entry taken, its packet sent, dropped at the destination until delivery
sends it again, arrived and tried again after a page fault, applied there; or waiting for a page of its source, of the
destination, or of its local result, which it then tries again. -/
inductive RemPhase where
  | issued | sent | dropped | arrived | landing | applied | failed | waitSrc | waitDst | waitReply | replied
deriving DecidableEq, Repr

/-- A remote operation in flight: one lane's, or one packet of an `xput`. -/
structure RemOp where
  id : Nat
  team : Nat
  seq : Nat
  site : Nat
  core : Nat
  op : Nat
  fn : Nat
  lane : Nat
  tenant : Nat
  user : Bool
  key : Nat
  /-- logical global destination, or source for rget -/
  dest : Word
  local_ : Word
  len : Nat
  opnd : Word
  expect : Word
  ctr : Option Word
  /-- xput: lane, destination, value, counter place -/
  words : List (Nat × Word × Word × Word)
  dsite : Nat
  inc : BitVec 32
  plane : Nat
  ordered : Bool
  phase : RemPhase
  data : List Byte
  sent : Nat
  /-- the site whose relay buffer holds the packet, or once applied its reply (R268) -/
  relay : Option Nat
  /-- it has been relayed: at most two rotor hops -/
  relayed : Bool
  /-- increments of an applied packet of an `xput` that wait to merge with those of later packets: counter place and physical
  address (R320) -/
  carried : List (Word × Nat)
  /-- the way of the packet, or once applied or failed of its answer -/
  way : Way := {}
  /-- once failed, the cause that the answer gives (R270) -/
  cause : Nat := 0
  /-- an `xput`'s words that have not landed, as place, replicas, value, and its counters as place and physical address -/
  places : List (Nat × List Nat × Word) := []
  counts : List (Word × Nat) := []
deriving DecidableEq, Repr

/-! ### The whole machine -/

/-- What a turn does: a core has an issue slot, or an event of the table takes place. -/
inductive Act where
  | issue (core : Nat)
  | event (i : Instr)
deriving DecidableEq, Repr

/-- One turn the world has fixed: ticks that pass first, then the act. -/
structure Turn where
  wait : Nat
  act : Act
deriving DecidableEq, Repr

/-- A message that Bammusan sends: on the management port (R371, R372, R389), or to a partition's supervisor (R269). -/
inductive Report where
  /-- a boot of a site: what it ended in (R388), and SEQ of a torn retirement entry -/
  | boot (site state : Nat) (torn : Option Nat)
  | journalLost (part : Nat)
  | logFull (site : Nat)
  /-- the new incarnation of a site, to the supervisor of the partition that it belonged to or belongs to (R269, R364) -/
  | incarnation (part site : Nat) (inc : BitVec 32)
deriving DecidableEq, Repr

/-- The machine. -/
structure State where
  mem : Memory
  sites : List Site
  cores : List Core
  teams : List Team
  parts : List Partition
  cmds : List Cmd
  incs : List Inc
  fills : List Fill
  ops : List RemOp
  xpkts : List XPkt
  xcounts : List XCount
  /-- reinstatement records waiting for the next build of their device (R373) -/
  reinst : List (Nat × List Byte)
  /-- what the management ports have sent, oldest first -/
  reports : List Report
  now : Nat
  /-- the MODEL's own: which agent moves next -/
  agenda : List Turn
  /-- the MODEL's own: the team that issues; no team has number 0 -/
  cur : Nat
  /-- the MODEL's own: free values drawn so far -/
  free : Nat
  /-- the MODEL's own: next fresh identity -/
  uid : Nat
deriving DecidableEq, Repr

/-- The machine right after power-on reset has reached R392 step 3: memories cleared, nothing built, no team. -/
def State.reset : State where
  mem := []
  sites := []
  cores := []
  teams := []
  parts := []
  cmds := []
  incs := []
  fills := []
  ops := []
  xpkts := []
  xcounts := []
  reinst := []
  reports := []
  now := 0
  agenda := []
  cur := 0
  free := 0
  uid := 1

/-- Why a step stops the machine. -/
inductive Fault where
  /-- Raised by step when the agenda gives a turn to a team of a partition in state lost (R368: the partition
  stops, no state follows it in the table). Safe: the hardware runs nothing there. -/
  | partitionLost (part : Nat)
deriving DecidableEq, Repr

/-- Why a step has no meaning. -/
inductive Refusal where
  /-- Raised by exec for an instruction the model does not cover. Safe. -/
  | notModelled (mnemonic : String)
deriving DecidableEq, Repr

end Sys2Proof.Machine
end

