-- ==== Sys2Proof/Machine/MatrixMath.lean ====
section
/-! DEFINITION. Matrix arithmetic: operand formats (R75 to R81), classes (R140), the format word (R144, R145), element
packing (R146 to R148), alignment and group values (R82, R85, R88), accumulation (R90 to R92) and drain rounding
(R86, R158). -/

namespace Sys2Proof.Machine

/-! ### Formats and classes -/

/-- Bits of an element (R75). -/
def elemBits (f : Nat) : Nat :=
  match f with
  | 0x1 | 0xB => 4
  | 0x9 | 0xA | 0xD => 6
  | 0x2 | 0x3 => 16
  | 0x4 => 32
  | 0xE => 64
  | _ => 8

/-- Class of a format: 0 the 4-bit class, 1 8-bit, 2 16-bit, 3 FP32, 4 CF32 (R140). -/
def fmtClass (f : Nat) : Nat :=
  match f with
  | 0x1 | 0xB => 0
  | 0x2 | 0x3 => 2
  | 0x4 => 3
  | 0xE => 4
  | _ => 1

def kStep (c : Nat) : Nat := match c with | 0 => 128 | 1 => 64 | 2 => 32 | 3 => 16 | _ => 8
def cells (c : Nat) : Nat := match c with | 0 => 4 | 1 => 8 | 2 => 16 | 3 => 32 | _ => 128
def window (c : Nat) : Nat := match c with | 0 => 4 | 1 => 8 | 2 => 16 | 3 => 32 | _ => 48
def groupOf (c : Nat) : Nat := min 32 (kStep c)

def isMx (f : Nat) : Bool := decide (0x7 ≤ f ∧ f ≤ 0xB)
def isIntFmt (f : Nat) : Bool := f == 0 || f == 1

/-- Natural alignment of elements (R146). -/
def natAlign (f : Nat) : Nat := if elemBits f ≤ 8 then 1 else elemBits f / 8

/-! ### The format word -/

def fwA (w : Nat) : Nat := w % 16
def fwB (w : Nat) : Nat := w / 2 ^ 4 % 16
def fwASgn (w : Nat) : Bool := w.testBit 8
def fwBSgn (w : Nat) : Bool := w.testBit 9
def fwAcc (w : Nat) : Nat := w / 2 ^ 10 % 4
def fwRsum (w : Nat) : Bool := w.testBit 12
def fwCplx (w : Nat) : Bool := w.testBit 13
def fwSparse (w : Nat) : Nat := w / 2 ^ 14 % 4
def fwD (w : Nat) : Nat := w / 2 ^ 16 % 16
def fwReq (w : Nat) : Bool := w.testBit 20
def fwScale (w : Nat) : Nat := w / 2 ^ 21 % 8

/-- R145 on a 64-bit lane element. -/
def fmtWordOk (w : Nat) : Bool :=
  let a := fwA w
  let b := fwB w
  let cf := a == 0xE && b == 0xE
  decide (w < 2 ^ 24) && a != 0xF && b != 0xF && fwD w != 0xF && fmtClass a == fmtClass b &&
  (!fwASgn w || isIntFmt a) && (!fwBSgn w || isIntFmt b) &&
  (!(fwAcc w == 1 || fwAcc w == 2) || (isIntFmt a && isIntFmt b)) &&
  (fwAcc w == 3) == cf && fwCplx w == cf &&
  (!fwRsum w || isIntFmt a) && decide (fwSparse w < 2) &&
  (if isMx a || isMx b then fwScale w == 1 || fwScale w == 2
   else if fwReq w && isIntFmt b then decide (fwScale w < 5)
   else fwScale w == 0)

/-- The zero point of B (R145 rule 8). -/
def zeroPoint (w : Nat) : Int :=
  match fwScale w with | 1 => 8 | 2 => 128 | 3 => -8 | 4 => -128 | _ => 0

/-- Scale bytes follow the elements of an MX operand under SCALE 001; the other operand's rows carry none when only one
of the two is an MX format (DESIGN CHOICE, log 86). -/
def trailing (w f : Nat) : Bool := isMx f && fwScale w == 1

/-- Tile kind of an ACC field (R143, R154). -/
def kindOfAcc (acc : Nat) : TKind := if acc = 0 then .f32 else if acc = 3 then .cf32 else .i32

/-! ### Elements -/

/-- An element: one number, or a complex pair. -/
structure Elem where
  re : FV
  im : FV
deriving DecidableEq, Repr

def zeroElem : Elem := ⟨.fin false 0 0, .fin false 0 0⟩

/-- Scales a finite value by 2^k (R78). -/
def FV.blockScale (k : Int) : FV → FV
  | .fin s m e => .fin s m (e + k)
  | x => x

/-- The value of an element code (R76 to R81). -/
def elemValue (f : Nat) (signed : Bool) (c : Nat) : Elem :=
  let z : FV := .fin false 0 0
  match f with
  | 0x0 => ⟨ofInt (if signed && decide (128 ≤ c) then (c : Int) - 256 else c) 0, z⟩
  | 0x1 => ⟨ofInt (if signed && decide (8 ≤ c) then (c : Int) - 16 else c) 0, z⟩
  | 0x2 => ⟨.decode b16 c, z⟩
  | 0x3 => ⟨.decode bf16 c, z⟩
  | 0x4 => ⟨.decode b32 c, z⟩
  | 0x5 | 0x7 => ⟨.decode e4m3 c, z⟩
  | 0x6 | 0x8 => ⟨.decode e5m2 c, z⟩
  | 0x9 => ⟨.decode e2m3 c, z⟩
  | 0xA => ⟨.decode e3m2 c, z⟩
  | 0xB => ⟨.decode e2m1 c, z⟩
  | 0xC => ⟨firnDecode 8 1 c, z⟩
  | 0xD => ⟨firnDecode 6 0 c, z⟩
  | 0xE => ⟨.decode b32 (c % 2 ^ 32), .decode b32 (c / 2 ^ 32)⟩
  | _ => zeroElem

/-- Applies a block's scale byte (R78). -/
def Elem.scaled (e : Elem) (sc : Nat) : Elem :=
  if sc = 0xFF then ⟨.nan, e.im⟩ else { e with re := e.re.blockScale ((sc : Int) - 127) }

/-- n codes of w bits from bytes, lowest bits first (R146). -/
def unpackCodes (bs : List Byte) (w n : Nat) : List Nat :=
  let v := bs.foldr (fun b x => b.toNat + 256 * x) 0
  (List.range n).map (fun i => v / 2 ^ (w * i) % 2 ^ w)

/-- Packs codes of w bits into bytes, the last byte filled with zeros (R158). -/
def packCodes (cs : List Nat) (w : Nat) : List Byte :=
  let v := cs.foldr (fun c x => c + 2 ^ w * x) 0
  (List.range ((cs.length * w + 7) / 8)).map (fun i => BitVec.ofNat 8 (v / 256 ^ i))

/-- Values of codes with their scale bytes, one for each 32; no bytes: every scale 127. -/
def elemValues (f : Nat) (signed : Bool) (codes scales : List Nat) : List Elem :=
  codes.zipIdx.map (fun (x : Nat × Nat) =>
    let e := elemValue f signed x.1
    match scales[x.2 / 32]? with
    | some sc => e.scaled sc
    | none => e)

/-- The expansion of 2:4 values under their metadata (R147, R148). -/
def expandSparse (vals : List Nat) (meta_ : List Byte) (k : Nat) : List (Option Nat) :=
  (List.range k).map (fun i =>
    let q := i / 4
    let nib := (meta_.getD (q / 2) 0).toNat / (if q % 2 = 0 then 1 else 16) % 16
    if nib / 4 % 4 = i % 4 then some (vals.getD (2 * q + 1) 0)
    else if nib % 4 = i % 4 then some (vals.getD (2 * q) 0)
    else none)

/-- Bytes of one row-step of A. -/
def rowBytes (w : Nat) (sparse : Bool) : Nat :=
  let f := fwA w
  let k := kStep (fmtClass f)
  (if sparse then k / 2 * elemBits f / 8 + k / 8 else k * elemBits f / 8) + (if trailing w f then k / 32 else 0)

/-- A row-step of A from its bytes. -/
def rowValues (w : Nat) (sparse : Bool) (bs : List Byte) : List Elem :=
  let f := fwA w
  let k := kStep (fmtClass f)
  let eb := elemBits f
  let sc := if trailing w f then (bs.drop (rowBytes w sparse - k / 32)).map (fun b => b.toNat) else []
  if sparse then
    let vb := k / 2 * eb / 8
    let xs := expandSparse (unpackCodes (bs.take vb) eb (k / 2)) ((bs.drop vb).take (k / 8)) k
    xs.zipIdx.map (fun (x : Option Nat × Nat) =>
      let e := match x.1 with | some c => elemValue f (fwASgn w) c | none => zeroElem
      match sc[x.2 / 32]? with
      | some b => e.scaled b
      | none => e)
  else elemValues f (fwASgn w) (unpackCodes (bs.take (k * eb / 8)) eb k) sc

/-! ### Alignment and groups -/

/-- A finite value over 2^q, rounded to a signed integer, ties to even; an infinity or NaN gives 0. -/
def alignOne (q : Int) : FV → Int
  | .fin s m e => sgn s (roundNat .rn s m (e - q))
  | _ => 0

/-- ALIGN of a group of values: integers and log2 of the quantum (R85). -/
def align (intFmt : Bool) (w : Nat) (xs : List FV) : List Int × Int :=
  if intFmt then (xs.map (alignOne 0), 0)
  else
    let es := xs.filterMap (fun x => match x with
      | .fin _ m e => if m = 0 then none else some (expOf m e)
      | _ => none)
    match es with
    | [] => (xs.map (fun _ => 0), 0)
    | e0 :: r =>
      let emax := r.foldl (fun a b => if a < b then b else a) e0
      let q := emax - w + 1
      let as_ := xs.map (alignOne q)
      if as_.any (fun a => a.natAbs == 2 ^ w) then (xs.map (alignOne (q + 1)), q + 1) else (as_, q)

def FV.isZero : FV → Bool
  | .fin _ m _ => m == 0
  | _ => false
def FV.isInf : FV → Bool
  | .inf _ => true
  | _ => false

/-- The value of one sum of products: specials by R82, else the exact sum over aligned integers (R88). -/
def groupSum (xs ys : List FV) (ax ay : List Int) (q : Int) : FV :=
  let ps := xs.zip ys
  if xs.any (fun x => x == .nan) || ys.any (fun y => y == .nan) then .nan
  else if ps.any (fun p => (p.1.isInf && p.2.isZero) || (p.1.isZero && p.2.isInf)) then .nan
  else
    let infs := ps.filterMap (fun p => match FV.mul p.1 p.2 with | .inf s => some s | _ => none)
    if infs.contains true && infs.contains false then .nan
    else match infs with
      | s :: _ => .inf s
      | [] =>
        let v := (ax.zip ay).foldl (fun (v : Int) p => v + p.1 * p.2) 0
        if v = 0 then .fin false 0 0 else ofInt v q

/-- The value of a real group (R88). -/
def groupReal (intA intB : Bool) (w : Nat) (as_ bs : List Elem) : FV :=
  let xs := as_.map (fun e => e.re)
  let ys := bs.map (fun e => e.re)
  let (ax, qx) := align intA w xs
  let (ay, qy) := align intB w ys
  groupSum xs ys ax ay (qx + qy)

/-- The value of a complex group; all components of a side share one window (R88). -/
def groupComplex (w : Nat) (as_ bs : List Elem) : FV × FV :=
  let ar := as_.map (fun e => e.re)
  let ai := as_.map (fun e => e.im)
  let br := bs.map (fun e => e.re)
  let bi := bs.map (fun e => e.im)
  let (xa, qa) := align false w (ar ++ ai)
  let (xb, qb) := align false w (br ++ bi)
  let n := ar.length
  let m := br.length
  let q := qa + qb
  let rr := groupSum ar br (xa.take n) (xb.take m) q
  let ii := groupSum ai bi (xa.drop n) (xb.drop m) q
  let ri := groupSum ar bi (xa.take n) (xb.drop m) q
  let ir := groupSum ai br (xa.drop n) (xb.take m) q
  (FV.add .rn rr ii.neg, FV.add .rn ri ir)

/-! ### Accumulation -/

def satF (x : FV) : Nat := (roundSat b32 .rn x).1
def satV (x : FV) : FV := .decode b32 (satF x)

/-- R90: one binary32 element takes a value. -/
def accF32 (c : Nat) (v : FV) : Nat := satF (FV.add .rn (.decode b32 c) (satV v))

/-- R91: one INT32 element takes an integer; the flag says that a clamp changed the sum. -/
def accI32 (sat : Bool) (c : Nat) (v : Int) : Nat × Bool :=
  let s := (BitVec.ofNat 32 c).toInt + v
  if sat then
    if s < -(2 ^ 31) then (0x80000000, true)
    else if 2 ^ 31 ≤ s then (0x7FFFFFFF, true)
    else ((s % 2 ^ 32).toNat, false)
  else ((s % 2 ^ 32).toNat, false)

/-- R92: one component pair (H, L) takes a value. -/
def accPair (h l : Nat) (v : FV) : Nat × Nat :=
  let hv := FV.decode b32 h
  let nan := (canonNaN32, canonNaN32)
  match v, hv with
  | .nan, _ => nan
  | .inf _, .nan => nan
  | .inf s, .inf t => if s = t then (satF v, 0) else nan
  | .inf _, .fin .. => (satF v, 0)
  | .fin .., .inf _ => (h, l)
  | .fin .., .nan => nan
  | .fin .., .fin .. =>
    let h1 := satV v
    let l1 := satV (FV.add .rn v h1.neg)
    let (s, e) := twoSumSat hv h1
    let t := satV (FV.add .rn (.decode b32 l) l1)
    let e2 := satV (FV.add .rn e t)
    let (hh, ll) := twoSumSat s e2
    if hh = .nan ∨ ll = .nan ∨ e2 = .nan ∨ t = .nan then nan else (satF hh, satF ll)

/-! ### Drain (R86, R158) -/

/-- The narrow format of a drain, for DFMT and the signed flag. -/
def drainFmt (d : Nat) (signed : Bool) : Option NarrowFmt :=
  match d with
  | 0x0 => some (if signed then .i8 else .n8)
  | 0x1 => some (if signed then .i4 else .n4)
  | 0x2 => some .f16
  | 0x3 => some .bf16
  | 0x5 => some .e4m3
  | 0x6 => some .e5m2
  | 0xC => some .firn8
  | 0xD => some .firn6
  | _ => none

/-- Legal combinations of a drain (R158). -/
def drainOk (w : Nat) : Bool :=
  let d := fwD w
  match fwAcc w with
  | 0 => !fwReq w && (d == 0x4 || (drainFmt d true).isSome)
  | 3 => !fwReq w && d == 0xE
  | _ => if fwReq w then d == 0 || d == 1 else d == 0x4

/-- One output of RNEF: its code, and the residual that goes on. A negative value that rounds to zero gives the -0 code
of a float format; an accumulator -0 plus a residual +0 is +0 (DESIGN CHOICE, log 87). -/
def rnefOne (f : NarrowFmt) (y : FV) : Nat × FV :=
  let (code, sat) := narrowEncode .rn f y
  match y with
  | .fin .. => (code, if sat then .fin false 0 0 else FV.add .rn y (narrowDecode f code).neg)
  | _ => (code, .fin false 0 0)

/-- RNEF over the columns of a range: blocks of 32 columns from column 0, the residual 0 at the first (R86, R158).
`y n c` is the exact value of column n under residual c. -/
def rnef (f : NarrowFmt) (y : Nat → FV → FV) : Nat → Nat → FV → List Nat
  | _, 0, _ => []
  | n, k + 1, c =>
    let c0 : FV := if n % 32 = 0 then .fin false 0 0 else c
    let (code, c1) := rnefOne f (y n c0)
    code :: rnef f y (n + 1) k c1

/-- The requantised value of a column without its residual (R158). -/
def requant (acc : Int) (w : Nat) (rowsum : Word) (r : ColRec) : FV :=
  let sh := r.shift.toInt
  let sh := if sh < 0 then 0 else if 63 < sh then 63 else sh
  let v := (acc - zeroPoint w * rowsum.toInt + r.bias.toInt) * r.mult.toInt
  FV.add .rn (ofInt v (-sh)) (ofInt r.zout.toInt 0)

end Sys2Proof.Machine
end

