-- ==== Sys2Proof/Machine/Ops.lean ====
section
/-! DEFINITION. Named operations over the state: bytes of memory, records by key, masks and lane vectors, registers
and queues, pages and translation, the write buffer and outstanding accesses, transactions' aborts, waking teams,
taking a trap (R354), and leaving a handler (R357). Every instruction's meaning goes through these. -/

namespace Sys2Proof.Machine

/-! ### Bytes of memory -/

/-- Every entry lies at or above lo, addresses rise strictly, and no entry is 0. -/
def Mem.above (lo : Nat) : Memory → Bool
  | [] => true
  | (x, v) :: r => decide (lo ≤ x) && (v != 0) && Mem.above (x + 1) r

/-- The canonical form. -/
def Mem.wf (m : Memory) : Bool := Mem.above 0 m

/-- One byte; an unlisted byte reads as 0 (R390: memories cleared). -/
def Mem.get : Memory → Nat → Byte
  | [], _ => 0
  | (x, v) :: r, a => if a = x then v else if a < x then 0 else Mem.get r a

/-- Writes one byte, keeping the canonical form. -/
def Mem.set : Memory → Nat → Byte → Memory
  | [], a, b => if b = 0 then [] else [(a, b)]
  | (x, v) :: r, a, b =>
    if a = x then (if b = 0 then r else (a, b) :: r)
    else if a < x then (if b = 0 then (x, v) :: r else (a, b) :: (x, v) :: r)
    else (x, v) :: Mem.set r a b

/-- n bytes from address a, lowest first. -/
def Mem.bytes (m : Memory) (a : Nat) : Nat → List Byte
  | 0 => []
  | n + 1 => Mem.get m a :: Mem.bytes m (a + 1) n

/-- Writes bytes from address a upward. -/
def Mem.setBytes : Memory → Nat → List Byte → Memory
  | m, _, [] => m
  | m, a, b :: bs => Mem.setBytes (Mem.set m a b) (a + 1) bs

/-- A little-endian number of n bytes (R3). -/
def leNat : List Byte → Nat
  | [] => 0
  | b :: bs => b.toNat + 256 * leNat bs

/-- n bytes of a number, little-endian (R3). -/
def leBytes : Nat → Nat → List Byte
  | 0, _ => []
  | n + 1, v => BitVec.ofNat 8 v :: leBytes n (v / 256)

def Mem.read (m : Memory) (a n : Nat) : Nat := leNat (Mem.bytes m a n)
def Mem.word (m : Memory) (a : Nat) : Word := BitVec.ofNat 64 (Mem.read m a 8)
def Mem.write (m : Memory) (a n v : Nat) : Memory := Mem.setBytes m a (leBytes n v)
def Mem.setWord (m : Memory) (a : Nat) (w : Word) : Memory := Mem.write m a 8 w.toNat

/-- Clears [lo, hi). -/
def Mem.clear (m : Memory) (lo hi : Nat) : Memory := m.filter (fun c => c.1 < lo || hi ≤ c.1)

/-! ### Records by key -/

def State.team? (s : State) (id : Nat) : Option Team := s.teams.find? (fun t => t.id == id)
def State.putTeam (s : State) (t : Team) : State :=
  { s with teams := s.teams.map (fun u => if u.id == t.id then t else u) }
/-- The team that issues. -/
def State.curTeam? (s : State) : Option Team := s.team? s.cur

/-- Puts a record into a list kept in ascending key order. -/
def putKey {α : Type} (key : α → Nat) (x : α) : List α → List α
  | [] => [x]
  | y :: r => if key x = key y then x :: r else if key x < key y then x :: y :: r else y :: putKey key x r

def State.site (s : State) (k : Nat) : Site := (s.sites.find? (fun x => x.key == k)).getD { key := k }
def State.putSite (s : State) (x : Site) : State := { s with sites := putKey Site.key x s.sites }
def State.core (s : State) (k : Nat) : Core := (s.cores.find? (fun x => x.key == k)).getD { key := k }
def State.putCore (s : State) (x : Core) : State := { s with cores := putKey Core.key x s.cores }
def State.part? (s : State) (id : Nat) : Option Partition := s.parts.find? (fun p => p.id == id)
def State.putPart (s : State) (p : Partition) : State :=
  { s with parts := s.parts.map (fun q => if q.id == p.id then p else q) }

/-- An operating unit of a site works: powered, out of reset, its freeze line down (R364, R385, R388). -/
def State.live (s : State) (site : Nat) : Bool :=
  let x := s.site site
  !x.frozen && !x.mgmt.inReset && x.mgmt.powered

/-- The place of a free value: the draw of this step, what it is for, and for which of several. -/
def State.draw (s : State) (what x : Nat) : Nat := (s.free * 32 + what) * 2 ^ 64 + x

def siteBase (k : Nat) : Nat := k * 2 ^ 37
def Team.coreKey (t : Team) : Nat := t.place.site * 256 + t.place.cluster * 64 + t.place.core
def coreSite (k : Nat) : Nat := k / 256
def coreIdx (k : Nat) : Nat := k % 256

/-- DEV, SITE and OFS of a global address (R21). -/
def gDev (a : Word) : Nat := a.toNat / 2 ^ 43
def gSite (a : Word) : Nat := a.toNat / 2 ^ 37 % 64
def gOfs (a : Word) : Nat := a.toNat % 2 ^ 37

/-! ### Masks and lane vectors -/

def Mask.has (m : Mask) (l : Nat) : Bool := m.getLsbD l

/-- The mask of the lanes below n that satisfy f. -/
def Mask.ofFn (n : Nat) (f : Nat → Bool) : Mask :=
  (List.range n).foldl (fun m l => if f l then m ||| (1 <<< l : Mask) else m) 0

/-- The n lowest lanes. -/
def Mask.low (n : Nat) : Mask := Mask.ofFn n (fun _ => true)

/-- Marked lanes below n, ascending. -/
def Mask.lanes (m : Mask) (n : Nat) : List Nat := (List.range n).filter (fun l => m.getLsbD l)

/-- The lowest marked lane. -/
def Mask.first (m : Mask) (n : Nat) : Nat := (Mask.lanes m n).headD 0

def Mask.card (m : Mask) : Nat := (Mask.lanes m 1024).length

def lane (v : LaneVec) (l : Nat) : Word := v.getD l 0

/-- One value for each of n lanes. -/
def vtab (n : Nat) (f : Nat → Word) : LaneVec := (List.range n).map f

/-- Marked lanes take the first vector, the others the second. -/
def blend (m : Mask) (n : Nat) (x y : LaneVec) : LaneVec :=
  vtab n (fun l => if Mask.has m l then lane x l else lane y l)

def Team.nlane (t : Team) : Nat := t.hdr.lanes

/-- An image's summary word (R57). -/
def Mask.summary (m : Mask) : Word :=
  (List.range 32).foldl (fun s w =>
    if m.extractLsb' (32 * w) 32 = 0 then s else s ||| (1 <<< w : Word)) 0

/-! ### Registers (R34, R36, R53, R69) -/

/-- Puts x at place n of a list; places that were missing before it hold e. -/
def setAt {α : Type} (e : α) : List α → Nat → α → List α
  | [], 0, x => [x]
  | [], n + 1, x => e :: setAt e [] n x
  | _ :: r, 0, x => x :: r
  | y :: r, n + 1, x => y :: setAt e r n x

def Team.withRegs (t : Team) (r : Regs) : Team := { t with regs := r }
def Team.withCtl (t : Team) (c : Ctl) : Team := { t with ctl := c }

/-- The drift entry of age n. -/
def Team.d (t : Team) (n : Nat) : LaneVec := t.regs.drift.getD n []
def Team.k (t : Team) (n : Nat) : LaneVec := t.regs.k.getD n []
def Team.queue (t : Team) (n : Nat) : Queue := t.regs.q.getD n {}
def Team.s (t : Team) (n : Nat) : Word := t.regs.s.getD n 0

/-- Predicate p0 to p6 (R35). -/
def Team.p (t : Team) (n : Nat) : Mask := t.regs.p.getD n 0
def Team.setP (t : Team) (n : Nat) (m : Mask) : Team :=
  t.withRegs { t.regs with p := setAt 0 t.regs.p n m }
def Team.setS (t : Team) (n : Nat) (v : Word) : Team :=
  t.withRegs { t.regs with s := setAt 0 t.regs.s n v }
def Team.setK (t : Team) (n : Nat) (v : LaneVec) : Team :=
  t.withRegs { t.regs with k := setAt [] t.regs.k n v }
def Team.setQueue (t : Team) (n : Nat) (q : Queue) : Team :=
  t.withRegs { t.regs with q := setAt {} t.regs.q n q }

/-- Adds one entry to the drift of every lane; the entry that was d15 goes (R53). Outstanding accesses age. -/
def Team.pushDrift (t : Team) (v : LaneVec) : Team :=
  { t with regs := { t.regs with drift := (v :: t.regs.drift).take 16 },
           pend := t.pend.map (fun p => { p with age := p.age + 1 }) }

/-- Reads a source operand; a queue gives its oldest entry and loses it (R36, R70). -/
def Team.readSrc (t : Team) : Src → LaneVec × Team
  | .d n => (t.d n.val, t)
  | .k n => (t.k n.val, t)
  | .q n =>
    let q := t.queue n.val
    (q.items.headD [], t.setQueue n.val { q with items := q.items.tail })
  | .s n => (List.replicate t.nlane (t.s n.val), t)

/-- Reads sources in order (R36). -/
def Team.readSrcs (t : Team) : List Src → List LaneVec × Team
  | [] => ([], t)
  | a :: r =>
    let (v, t1) := t.readSrc a
    let (vs, t2) := t1.readSrcs r
    (v :: vs, t2)

/-- Writes a named destination in the active lanes: a queue takes an entry in every lane, with the passthrough in
the others; a uniform register takes the lowest active lane's value (R34, R35, R54). -/
def Team.writeNamed (t : Team) (d : Dst) (act : Mask) (v pass : LaneVec) : Team :=
  match d with
  | .drift => t
  | .k n => t.setK n.val (blend act t.nlane v (t.k n.val))
  | .q n =>
    let q := t.queue n.val
    t.setQueue n.val { q with items := q.items ++ [blend act t.nlane v pass] }
  | .s n => if act = 0 then t else t.setS n.val (lane v (Mask.first act t.nlane))

/-- Writes the destination and pushes the drift (R53, R54). -/
def Team.writePush (t : Team) (d : Dst) (act : Mask) (v pass : LaneVec) : Team :=
  (t.writeNamed d act v pass).pushDrift (blend act t.nlane v pass)

/-- The instruction is complete: the pc moves on, the hint is used up, a wake is consumed (R30, R46). -/
def Team.finish (t : Team) (pc : Word) : Team :=
  { t with ctl := { t.ctl with pc := pc, hint := {} }, wake := none, did := 0, stalled := none, held := false,
           spawning := [], unsent := [] }

/-- Completes with the next word. -/
def Team.next (t : Team) : Team := t.finish (t.ctl.pc + 4)

/-! ### Time (R67, R335) -/

def State.clock (s : State) (site : Nat) : Word :=
  BitVec.ofNat 64 ((s.now - (s.site site).resetAt) / Config.ticksPerCycle)
def State.time (s : State) (site : Nat) : Word :=
  BitVec.ofInt 64 ((s.now / Config.ticksPerNs : Nat) + (s.site site).timeOfs)
def us (n : Nat) : Nat := n * 1000 * Config.ticksPerNs
def State.fresh (s : State) : Nat × State := (s.uid, { s with uid := s.uid + 1 })

/-! ### The address map (R22) -/

inductive Region where
  | dram | vault | scratch | control | hole
deriving DecidableEq, Repr

def region (ofs : Nat) : Region :=
  if ofs < 0x0800000000 then .dram
  else if 0x1000000000 ≤ ofs ∧ ofs < 0x1040000000 then .vault
  else if 0x1800000000 ≤ ofs ∧ ofs < 0x1804000000 then .scratch
  else if 0x1F00000000 ≤ ofs then .control
  else .hole

/-! ### Tenant table and name table (R338, R177) -/

def tenantTable : Nat := 0x1F00400000

structure Desc where
  idx : Nat
  root : Nat
  names : Nat
  devices : Nat
  tenant : Nat
  share : Nat
  save : Nat
deriving DecidableEq, Repr

/-- Descriptor i of a site's tenant table, when it is valid. -/
def State.desc (s : State) (site i : Nat) : Option Desc :=
  let b := siteBase site + tenantTable + i * 64
  if (Mem.get s.mem (b + 0x17)).getLsbD 0 then
    some { idx := i, root := Mem.read s.mem b 8, names := Mem.read s.mem (b + 8) 8,
           devices := Mem.read s.mem (b + 0x10) 4, tenant := Mem.read s.mem (b + 0x14) 2,
           share := Mem.read s.mem (b + 0x16) 1, save := Mem.read s.mem (b + 0x18) 8 }
  else none

/-- The valid descriptor of a tenant. -/
def State.tenantDesc (s : State) (site tenant : Nat) : Option Desc :=
  (List.range 64).findSome? (fun i =>
    match s.desc site i with
    | some d => if d.tenant = tenant then some d else none
    | none => none)

/-! ### What live transactions hold back (R200, R235) -/

def undoLines (m : Memory) (ls : List TxLine) : Memory :=
  ls.foldl (fun m l => if l.write then Mem.setBytes m (l.line * 64) l.undo else m) m

/-- The live transactions other than the team's own that hold a line. -/
def State.txHolders (s : State) (except line : Nat) : List Team :=
  s.teams.filter (fun t => t.id != except && t.tx.live && t.tx.lines.any (fun l => l.line == line))

/-- Memory without what live transactions have written (R200). -/
def State.committed (s : State) (line : Nat) : Memory :=
  (s.txHolders 0 line).foldl (fun m t => undoLines m t.tx.lines) s.mem

/-- An aligned word of a table of names or pages, which its reader sees without what live transactions have written (R238). -/
def State.tableWord (s : State) (a : Nat) : Word := Mem.word (s.committed (a / 64)) a

/-- Looks a logical device and site up in a tenant's name table: the physical site and the incarnation it expects
(R177, R334). A cached name may serve until `tlbi` removes it. -/
def State.lookupName (s : State) (site tenant ldev lsite : Nat) : Option (Nat × BitVec 32) :=
  let own := s.site site
  let fresh : Option (Nat × BitVec 32) :=
    match s.tenantDesc site tenant with
    | none => none
    | some d =>
      if ldev < d.devices then
        let b := siteBase site + d.names + (ldev * 64 + lsite) * 16
        let w := s.tableWord b
        let hi := s.tableWord (b + 8)
        let dst := (w.extractLsb' 42 21).toNat * 64 + (w.extractLsb' 36 6).toNat
        let outside := dst / 64 = site / 64 ∧ (s.site dst).part ≠ own.part
        if w.getLsbD 63 && !decide outside then some (dst, hi.extractLsb' 0 32) else none
      else none
  match own.names.find? (fun e => e.tenant == tenant && e.ldev == ldev && e.lsite == lsite) with
  | some e =>
    if fresh = some (e.site, e.inc) then fresh
    else if Config.freeBool (s.draw 1 (ldev * 64 + lsite)) then some (e.site, e.inc) else fresh
  | none => fresh

/-- Fills the name cache (R177: 256 entries). -/
def State.fillName (s : State) (site tenant ldev lsite : Nat) : State :=
  match s.lookupName site tenant ldev lsite with
  | none => s
  | some (dst, inc) =>
    let x := s.site site
    let keep := x.names.filter (fun e => !(e.tenant == tenant && e.ldev == ldev && e.lsite == lsite))
    s.putSite { x with names := ({ tenant, ldev, lsite, inc, site := dst } :: keep).take 256 }

/-- The first site with power that still belongs to a partition: its scheduler's port, whose name table and translation serve the
acceptance checks, and from which dependence and completion cells are reached. DESIGN CHOICE, log 90. -/
def State.partHome (s : State) (p : Partition) : Nat :=
  (p.sites.find? (fun k => (s.sites.find? (fun x => x.key == k)).any (fun x => x.part == some p.id && x.mgmt.powered))).getD
    (p.sites.headD 0)

/-- The partition of a site; 0 for a site of none. -/
def State.partOf (s : State) (site : Nat) : Nat := (s.site site).part.getD 0

/-- A partition works: it is running, and both replicas of its journal stand (R282, R368). -/
def Partition.works (p : Partition) : Bool := p.state == .running && p.replicas.length == 2

/-- A dependence cell of a waiting launch is found invalid; the entry fails once the partition works (R283). -/
def State.depBad (s : State) (part launch : Nat) : State :=
  match s.part? part with
  | none => s
  | some p => s.putPart { p with journal := p.journal.map (fun e =>
      if e.launch == launch && e.state == .waiting then { e with bad := true } else e) }

/-- The key of logical site l of a partition. -/
def State.partSite (s : State) (part l : Nat) : Option Nat :=
  match s.part? part with
  | some p => p.sites[l]?
  | none => none

/-! ### Translation (R170 to R175) -/

/-- What a walk, or a TLB hit, answers. -/
inductive Walk where
  | leaf (l : Leaf)
  /-- V = 0 at level 1, or at level 2 -/
  | invalid (lvl2 : Bool)
  /-- a pointer names an offset outside every range (R22) -/
  | hole
  /-- a valid entry breaks rule n of R171 and R173 -/
  | broken (rule : Nat)
deriving DecidableEq, Repr

def kindOf (w : Word) : Option PageKind :=
  let k := w.extractLsb' 62 2
  if k = 0 then some .strong else if k = 1 then some .rc else if k = 2 then some .unordered else none

/-- Word 0 and word 1 of the leaf entry that a site's table holds for an offset, whatever its fields. -/
def leafWords (s : State) (site root ofs : Nat) : Option (Word × Word) :=
  let a1 := siteBase site + root + ofs / 2 ^ 25 * 16
  let w := s.tableWord a1
  let a2 := siteBase site + (w.extractLsb' 13 24).toNat * 8192 + ofs / 2 ^ 16 % 512 * 16
  if !w.getLsbD 60 then none
  else if w.getLsbD 56 then some (w, s.tableWord (a1 + 8))
  else if (s.tableWord a2).getLsbD 60 then some (s.tableWord a2, s.tableWord (a2 + 8))
  else none

/-- Every site that a replica mask names maps the offset to a leaf of the same FRAME, KIND and RMASK (R173). -/
def replicasAgree (s : State) (site tenant ofs : Nat) (w r : Word) : Bool :=
  (List.range 64).all (fun i => !r.getLsbD i || i == (s.site site).lsite ||
    (match (s.site site).part.bind (fun p => s.partSite p i) with
     | none => false
     | some k =>
       match (s.tenantDesc k tenant).bind (fun d => leafWords s k d.root ofs) with
       | none => false
       | some (w', r') => w'.extractLsb' 13 24 == w.extractLsb' 13 24 && w'.extractLsb' 62 2 == w.extractLsb' 62 2 &&
         w'.getLsbD 61 && r' == r))

/-- Checks a valid leaf entry (R171, R173) and reads it. -/
def readLeaf (s : State) (site tenant ofs : Nat) (w r : Word) (big : Bool) : Walk :=
  match kindOf w with
  | none => .broken 1
  | some kind =>
    let repl := w.getLsbD 61
    if w.extractLsb' 37 19 ≠ 0 ∨ w.extractLsb' 0 13 ≠ 0 then .broken 2
    else if w.getLsbD 56 != big then .broken 3
    else if (if big then w.extractLsb' 13 12 ≠ 0 else w.extractLsb' 13 3 ≠ 0) then .broken 4
    else if !repl && r ≠ 0 then .broken 5
    else if repl && (kind = .strong || !r.getLsbD (s.site site).lsite || !replicasAgree s site tenant ofs w r) then
      .broken 6
    else .leaf { kind, repl, wr := w.getLsbD 59, ex := w.getLsbD 58, usr := w.getLsbD 57, big,
                 frame := (w.extractLsb' 13 24).toNat * 8192, rmask := r }

/-- Walks the two levels of a tenant's table on its site: V = 0 at either level comes before a rule that an entry
breaks (R172). A pointer whose address lies in vault, scratch or the control windows is walked there like one into DRAM.
DESIGN CHOICE, log 106. -/
def walkTable (s : State) (site root tenant ofs : Nat) : Walk :=
  let a1 := siteBase site + root + ofs / 2 ^ 25 * 16
  let w := s.tableWord a1
  let r := s.tableWord (a1 + 8)
  if !w.getLsbD 60 then .invalid false
  else if w.getLsbD 56 then readLeaf s site tenant ofs w r true
  else
    let table := (w.extractLsb' 13 24).toNat * 8192
    let a2 := siteBase site + table + ofs / 2 ^ 16 % 512 * 16
    let w2 := s.tableWord a2
    if region table != .hole && !w2.getLsbD 60 then .invalid true
    else if w.extractLsb' 62 2 ≠ 0 ∨ w.extractLsb' 57 3 ≠ 0 ∨ w.getLsbD 61 ∨ r ≠ 0 then .broken 7
    else if w.extractLsb' 37 19 ≠ 0 ∨ w.extractLsb' 0 13 ≠ 0 then .broken 2
    else if region table = .hole then .hole
    else readLeaf s site tenant ofs w2 (s.tableWord (a2 + 8)) false

/-- The TLB entry of a core for a page (R174). -/
def tlbHit (c : Core) (tenant ofs : Nat) : Option Leaf :=
  c.tlb.findSome? (fun e =>
    if e.tenant = tenant ∧ (if e.leaf.big then e.page / 512 = ofs / 2 ^ 25 else e.page = ofs / 2 ^ 16)
    then some e.leaf else none)

/-- A walk with the TLB of a core in front: a leaf held there may serve until `tlbi` removes it, and where it
differs from the table either of the two serves (R174). -/
def translate (s : State) (site : Nat) (core : Option Nat) (root tenant ofs : Nat) : Walk :=
  let w := walkTable s site root tenant ofs
  match core with
  | none => w
  | some c =>
    match tlbHit (s.core c) tenant ofs with
    | none => w
    | some l =>
      if w = .leaf l then w
      else if Config.freeBool (s.draw 0 ofs) then .leaf l else w

/-- What an access needs of its page. -/
inductive Need where
  | read | write | fetch
deriving DecidableEq, Repr

/-- The outcome of one address after the walk (R172). -/
inductive Xlate where
  /-- the physical address, the kind, and the replica sites when a write goes to more than one -/
  | ok (phys : Nat) (kind : PageKind) (leaf : Leaf)
  | prot
  | fault (lvl2 : Bool)
  | broken (rule : Nat)
deriving DecidableEq, Repr

def xlate (s : State) (site : Nat) (core : Option Nat) (tenant : Nat) (user : Bool) (need : Need) (ofs : Nat) :
    Xlate :=
  match s.tenantDesc site tenant with
  | none => .prot
  | some d =>
    match translate s site core d.root tenant ofs with
    | .invalid l => .fault l
    | .hole => .prot
    | .broken r => .broken r
    | .leaf l =>
      let size := if l.big then 2 ^ 25 else 2 ^ 16
      let f := l.frame + ofs % size
      if (user && !l.usr) || (need == .write && !l.wr) || (need == .fetch && !l.ex) then .prot
      else match region f with
        | .control => .prot
        | .hole => .prot
        | _ => .ok (siteBase site + f) l.kind l

/-- Fills a core's TLB with the leaf that served a page (512 entries). A leaf already held stays until `tlbi` removes it,
whichever of the two served (R174). -/
def tlbFill (c : Core) (tenant ofs : Nat) (l : Leaf) : Core :=
  match tlbHit c tenant ofs with
  | some _ => c
  | none => { c with tlb := ({ tenant, page := ofs / 2 ^ 16, leaf := l } :: c.tlb).take 512 }

/-- The physical sites that a leaf's stores reach: the replicas in ascending logical order, or none (R173, R198). Another
replica's site is the one that the tenant's name gives (R177), and for a write that no instruction's names have been checked for,
where there is none, the partition's. DESIGN CHOICE, log 110. -/
def replSites (s : State) (site ldev lsite tenant : Nat) (l : Leaf) : List Nat :=
  if l.repl then
    (List.range 64).filterMap (fun i =>
      if !l.rmask.getLsbD i then none
      else if i = lsite then some site
      else match s.lookupName site tenant ldev i with
        | some (k, _) => some k
        | none => s.partSite (s.partOf site) i)
  else []

/-- The names of a leaf's other replicas enter the name cache (R177). -/
def State.fillReplicas (s : State) (site ldev lsite tenant : Nat) (l : Leaf) : State :=
  if l.repl then
    (List.range 64).foldl (fun s i => if l.rmask.getLsbD i && i != lsite then s.fillName site tenant ldev i else s) s
  else s

/-! ### The site fault buffer (R175, R176, R359) -/

def fbPages (x : Site) : Nat :=
  (x.fbuf.filter (fun e => match e with | .page .. => true | .event .. => false)).length
def fbEvents (x : Site) : Nat :=
  (x.fbuf.filter (fun e => match e with | .page .. => false | .event .. => true)).length

/-- Enters an event; one that finds the 256 event places full is counted by EVLOST (R359). -/
def State.event (s : State) (site tenant code : Nat) (addr : Word) : State :=
  let x := s.site site
  if fbEvents x < 256 then
    s.putSite { x with fbuf := x.fbuf ++
      [.event (BitVec.ofNat 64 (tenant * 2 ^ 48 + 2 ^ 28 + code * 2 ^ 21)) addr] }
  else s.putSite { x with evLost := x.evLost + 1 }

def fbMatches (tenant page : Nat) : FbEntry → Bool
  | .page t p .. => t == tenant && p == page
  | .event .. => false

/-- The park that a team stands in, in its slot or out of it, and since when. -/
def Team.parkedIn (t : Team) : Option (Park × Nat) :=
  match t.status with
  | .parked w n => some (w, n)
  | .halted _ w _ => w
  | _ => none

/-- The waiter of a page still waits for it: it has not stopped, nor gone on, nor been dropped meanwhile. -/
def State.stillWaits (s : State) (site tenant page : Nat) : FWaiter → Bool
  | .team id => s.teams.any (fun t => t.id == id && t.parkedIn.any (fun w =>
      w.1 == .translation site tenant page || w.1 == .faultPlace site tenant page))
  | .seg cmd lo => s.cmds.any (fun k => k.id == cmd && k.segs.any (fun g => g.lo == lo && g.stuck))
  | .op id => s.ops.any (fun o => o.id == id && (o.phase == .waitSrc || o.phase == .waitDst || o.phase == .waitReply))
  | .dep part launch cell => s.parts.any (fun p => p.id == part && p.journal.any (fun e =>
      e.launch == launch && e.state == .waiting && !e.depsFull.contains cell))
  | .fill id => s.fills.any (fun f => f.id == id && f.waiting)
  | .action id => s.fills.any (fun f => f.id == id && f.waiting)
  | .output k inst index => (s.site k).insts.any (fun x => x.id == inst && x.members.any (fun m => m.index == index && m.stuck))
  | .sequencer core => (s.core core).mx.queue.head?.any (fun e => e.stuck)

/-- The faults that wait for a place in a site's buffer (R175). -/
def State.placeWaiters (s : State) (site : Nat) : List FbWait :=
  (s.site site).fbWaits.filter (fun w => s.stillWaits site w.tenant w.page w.who)

/-- A translation fault enters the buffer, or joins the entry of its page, or waits for a place: the first to wait starts the
watchdog's measure. Answers whether it found one. -/
def State.pageFault (s : State) (site tenant page : Nat) (wrt fet eng lvl : Bool) (first : Word) (who : FWaiter) :
    Bool × State :=
  let x := s.site site
  if x.fbuf.any (fbMatches tenant page) then
    (true, s.putSite { x with fbuf := x.fbuf.map (fun e =>
      match e with
      | .page t p w f g l a b ws =>
        if t = tenant ∧ p = page then .page t p (w || wrt) (f || fet) (g || eng) l a b (ws ++ [who]) else e
      | .event .. => e) })
  else if fbPages x < 4096 then
    (true, s.putSite { x with fbuf := x.fbuf ++ [.page tenant page wrt fet eng lvl first false [who]] })
  else
    (false, s.putSite { x with fbWaits := x.fbWaits ++ [{ tenant, page, wrt, fet, eng, lvl, first, who }],
                               fbSince := if (s.placeWaiters site).isEmpty then some s.now else x.fbSince })

/-! ### Parking and waking -/

/-- Parks the team at its instruction; everything else stays (R7). -/
def State.park (s : State) (t : Team) (why : Park) : State :=
  s.putTeam { t with status := .parked why s.now }

/-- A trap of a team parked on a cell names the cell (R352). -/
def Park.names (why : Park) (w : Option Wake) : Option Wake :=
  match w, why with
  | some (.trap cls code aux none), .cell l a => some (.trap cls code aux (some (l, a)))
  | some (.trap cls code aux none), .delivery l a _ => some (.trap cls code aux (some (l, a)))
  | _, _ => w

/-- The team waits where it stands, for something else. -/
def State.repark (s : State) (id : Nat) (why : Park) : State :=
  match s.team? id with
  | none => s
  | some t =>
    match t.status with
    | .parked _ n => s.putTeam { t with status := .parked why n }
    | .halted f (some (_, n)) k => s.putTeam { t with status := .halted f (some (why, n)) k }
    | _ => s

/-- Delivers a wake. A team that is out keeps it for its resume (R341). -/
def State.wakeTeam (s : State) (id : Nat) (w : Option Wake) : State :=
  match s.team? id with
  | none => s
  | some t =>
    match t.status with
    | .parked why _ => s.putTeam { t with status := .running, wake := why.names w, lastIssue := (s.core t.coreKey).slots }
    | .halted f (some (why, _)) n => s.putTeam { t with status := .halted f none n, wake := why.names w }
    | _ => s

/-- A translation fault parks the team (R175). -/
def State.parkFault (s : State) (t : Team) (tenant page : Nat) (wrt fet lvl : Bool) (first : Word) : State :=
  let (placed, s1) := s.pageFault t.place.site tenant page wrt fet false lvl first (.team t.id)
  s1.park t (if placed then .translation t.place.site tenant page else .faultPlace t.place.site tenant page)

/-- The delivery context of a site toward a destination is found or created, and in use now (R267). -/
def State.touchPdc (s : State) (site dst : Nat) (ordered : Bool) (pin : Option (Nat × Nat)) : State :=
  let x := s.site site
  let mine (p : Pdc) : Bool := p.dst == dst && p.ordered == ordered && p.pin == pin
  if x.pdcs.any mine then
    s.putSite { x with pdcs := x.pdcs.map (fun p => if mine p then { p with last := s.now } else p) }
  else
    let (num, s1) := s.fresh
    s1.putSite { x with pdcs := x.pdcs ++ [{ num, dst, ordered, last := s.now, pin }] }

/-! ### The freeze line (R364, R365, R367) -/

/-- A team stands in a slot: it has been admitted and is neither out nor gone. -/
def TStatus.inSlot : TStatus → Bool
  | .running | .reserved _ | .parked .. | .retiring => true
  | .waiting .. | .halted .. | .exported .. | .retired => false

/-- A slot of a core record (R365). -/
def Team.slotWord (t : Team) : Nat :=
  let st := if t.ctl.inHandler then 3 else match t.status with | .parked .. => 2 | _ => 1
  st * 2 ^ 62 + t.ctl.acting.toNat * 2 ^ 46 + t.ctl.pc.toNat / 4 % 2 ^ 35

/-- What the units of a site hold at the stop: count, and for a core its slots (R365). -/
def State.heldBy (s : State) (site : Nat) : List (Nat × List Byte) :=
  let here := s.teams.filter (fun t => t.place.site == site && t.status.inSlot)
  let core (u : Nat) : List (Nat × List Byte) :=
    let ts := here.filter (fun t => coreIdx t.coreKey == u)
    let held := (s.core (site * 256 + u)).wbuf.length + ts.foldl (fun n t => n + t.pend.length) 0
    let slots := (List.range 8).map (fun i =>
      match ts.find? (fun t => t.place.slot == i) with | some t => t.slotWord | none => 0)
    if ts.isEmpty && held == 0 then [] else [(u, leBytes 8 held ++ slots.flatMap (leBytes 8))]
  let count (u n : Nat) : List (Nat × List Byte) := if n = 0 then [] else [(u, leBytes 8 n ++ List.replicate 64 0)]
  (List.range 256).flatMap core ++
  (List.range 256).flatMap (fun u => count (256 + u) (s.core (site * 256 + u)).mx.queue.length) ++
  count 516 ((s.ops.filter (fun o => o.site == site)).length + (s.xpkts.filter (fun p => p.src == site)).length) ++
  count 549 (fbPages (s.site site) + (s.placeWaiters site).length) ++
  count 550 (s.teams.filter (fun t => t.place.site == site && (match t.status with | .waiting .. => true | _ => false))).length

/-- A site stops and its units write their records. What has stopped already keeps its own (R367). -/
def State.stopSite (s : State) (site unit : Nat) (detail : BitVec 96) : State :=
  let x := s.site site
  if x.frozen then s
  else s.putSite { x with
    frozen := true, frzHeld := true, frzUnit := unit, frzClock := s.clock site, frzSeed := some (s.draw 2 (site * 1024)),
    detail := if x.detail = 0 then detail else x.detail, frzDetail := if x.detail = 0 then detail else x.detail, frzRecs := s.heldBy site }

/-- The partition's freeze line rises: every site of it stops; the raising site latches the detail. -/
def State.freezePart (s : State) (part site unit : Nat) (detail : BitVec 96) : State :=
  match s.part? part with
  | none => s.stopSite site unit detail
  | some p =>
    let s1 := (p.sites.filter (fun k => (s.site k).part == some part)).foldl (fun s k =>
      if k = site then s.stopSite k unit detail else s.stopSite k 0xFFFF 0) s
    match p.state with
    | .running => s1.putPart { p with state := .frozen }
    | _ => s1

/-- Detail of a broken table entry: group 0x01, KIND 3 (R172, R367). -/
def detailEntry (lsite ofs tenant rule : Nat) : BitVec 96 :=
  BitVec.ofNat 96 (1 * 2 ^ 91 + 3 * 2 ^ 88 + lsite * 2 ^ 82 + ofs * 2 ^ 45 + tenant * 2 ^ 29 + rule * 2 ^ 21)

/-- A table entry that breaks a rule freezes the partition (R172). Unit 549 is the translation unit (R366). -/
def State.freezeEntry (s : State) (part site ofs tenant rule : Nat) : State :=
  s.freezePart part site 549 (detailEntry (s.site site).lsite ofs tenant rule)

/-! ### Transactions (R234 to R237) -/

def Tx.stat (x : Tx) : Word :=
  BitVec.ofNat 64 (x.ts.toNat * 2 ^ 16 + x.depth * 2 ^ 12 + (if x.live then 2 ^ 11 else 0) +
    (if x.held then 2 ^ 10 else 0) + x.code.toNat)

/-- TS1 is older than TS2 (R234). -/
def tsOlder (a b : BitVec 48) : Bool :=
  let d := (b - a).toNat
  decide (1 ≤ d ∧ d < 2 ^ 47)

/-- Aborts the live transaction of a team: undo, release, restore the masks, and continue at the handler (R237). -/
def State.txAbort (s : State) (id : Nat) (code : Nat) : State :=
  match s.team? id with
  | none => s
  | some t =>
    if t.tx.live then
      let x := t.tx
      let s1 := { s with mem := undoLines s.mem x.lines }
      s1.putTeam { t with
        status := (match t.status with | .parked .. => .running | st => st),
        tx := { x with live := false, depth := 0, code := BitVec.ofNat 8 code, lines := [] },
        ctl := { t.ctl with live := x.saveV, cur := x.saveC, brk := x.saveB, stack := x.saveStack, hint := {},
                            pc := x.handler },
        did := 0, wake := none, stalled := none, held := false, long := none, spawning := [], unsent := [] }
    else s

/-- An access from outside a transaction aborts every holder of the line before it proceeds (R235, code 0x08). -/
def State.txOutside (s : State) (by_ line : Nat) : State :=
  (s.txHolders by_ line).foldl (fun s t => s.txAbort t.id 0x08) s

/-- A team's own live transaction holds the line: the port has decided between it and the others (R235). -/
def State.txOwn (s : State) (id line : Nat) : Bool :=
  s.teams.any (fun t => t.id == id && t.tx.live && t.tx.lines.any (fun l => l.line == line))

/-- A read by a party (a team's number, or 0) at one line: outside a transaction it aborts every holder first, and sees
the undone value (R200, R235); a read of a transaction that holds the line joins its readers. -/
def State.txRead (s : State) (by_ line : Nat) : State := if s.txOwn by_ line then s else s.txOutside by_ line

/-- An aligned word as a party reads it, the holders of its line aborted first. -/
def State.readWord (s : State) (by_ a : Nat) : State × Word :=
  let s1 := s.txRead by_ (a / 64)
  (s1, Mem.word s1.mem a)

/-- Of the others at a line, the transactions that lose to T: those younger where one side writes, and the youngest
where T is the fifth reader (R235). -/
def txLosers (t : Team) (others : List Team) (writing : Bool) : List Team :=
  if writing then others.filter (fun u => tsOlder t.tx.ts u.tx.ts)
  else if 4 ≤ others.length then
    (others.filter (fun u => tsOlder t.tx.ts u.tx.ts && others.all (fun v => v.id == u.id || tsOlder v.tx.ts u.tx.ts))).take 1
  else []

/-- Transaction T of team t touches a line (R235, R236): the losers abort; answers whether T goes on. -/
def State.txTouch (s : State) (id line : Nat) (write : Bool) : Bool × State :=
  match s.team? id with
  | none => (true, s)
  | some t =>
    let others := s.txHolders id line
    let mine := t.tx.lines.find? (fun l => l.line == line)
    let writing := write || others.any (fun u => u.tx.lines.any (fun l => l.line == line && l.write))
    let older := others.any (fun u => tsOlder u.tx.ts t.tx.ts)
    let losers := txLosers t others writing
    let s1 := losers.foldl (fun s u => s.txAbort u.id 0x01) s
    if (writing && older) || (!writing && 4 ≤ others.length && losers.isEmpty) then (false, s1.txAbort id 0x01)
    else if mine.isNone && 256 ≤ t.tx.lines.length then (false, s.txAbort id 0x02)
    else
      match s1.team? id with
      | none => (true, s1)
      | some t1 =>
        let undo := Mem.bytes s1.mem (line * 64) 64
        let lines :=
          match mine with
          | none => t1.tx.lines ++ [{ line, write, undo := if write then undo else [] }]
          | some l =>
            if l.write || !write then t1.tx.lines
            else t1.tx.lines.map (fun m => if m.line == line then { line, write := true, undo } else m)
        (true, s1.putTeam { t1 with tx := { t1.tx with lines } })

/-! ### Writes at a port (R168, R302, R307) -/

def overlaps (a n b m : Nat) : Bool := decide (a < b + m) && decide (b < a + n)

/-- A write to word 1 of an empty root that has waiters wakes them first with "cell invalid" (R307). -/
def State.wakeInvalid (s : State) (site a n : Nat) : State :=
  let x := s.site site
  let hit := x.waits.filter (fun w => overlaps a n (w.root + 8) 8)
  if hit.isEmpty then s
  else
    let s1 := s.putSite { x with waits := x.waits.filter (fun w => !overlaps a n (w.root + 8) 8) }
    hit.foldl (fun s w => w.who.foldl (fun s c =>
      match c with
      | .team id => s.wakeTeam id (some (.trap 5 0x03 0 none))
      | .dep part launch _ => s.depBad part launch) s) s1

/-- A write to a barrier word that is no arrival re-tests the parked `barw`s (R302). -/
def State.retestBarriers (s : State) (a n : Nat) : State :=
  s.teams.foldl (fun s t =>
    match t.parkedIn with
    | some (.barrier w token, _) =>
      if overlaps a n w 8 then
        let phase := Mem.read s.mem (w + 6) 2
        let d := (phase + 65536 - token) % 65536
        if d = 0 then s
        else if d < 32768 then s.wakeTeam t.id (some (.phase (d == 1) (BitVec.ofNat 64 phase)))
        else s.wakeTeam t.id (some (.trap 5 0x01 0 none))
      else s
    | _ => s) s

/-- Line-buffer copies of the written lines go before the write is applied (R168). -/
def State.invalidate (s : State) (site a n : Nat) : State :=
  if s.cores.any (fun c => coreSite c.key == site && c.lbuf.any (fun l => overlaps a n (l * 64) 64)) then
    { s with cores := s.cores.map (fun c =>
        if coreSite c.key == site then { c with lbuf := c.lbuf.filter (fun l => !overlaps a n (l * 64) 64) } else c) }
  else s

/-- A live transaction has written the line: what stands there is not committed, and wakes no one before it is (R200). -/
def State.txWrites (s : State) (line : Nat) : Bool :=
  s.teams.any (fun t => t.tx.live && t.tx.lines.any (fun l => l.line == line && l.write))

/-- A span reaches into a line. -/
def Span.meets (r : Span) (line : Nat) : Bool := decide (r.1 < line * 64 + 64) && decide (line * 64 < r.2)

/-- Reads of a queued matrix instruction go before a fetch of the team from the line, which has been made already: both
pages keep reads in order, or it reads that line too (R181, R186). -/
def MEntry.behind (e : MEntry) (t : Team) (line : Nat) : Bool :=
  t.fetched.any (fun f => f.line == line && decide (e.seq < f.seq) &&
    ((f.kind != .unordered && e.keep) || e.spans.any (fun r => r.meets line)))

/-- Memory as a team's matrix reads see it now: without other teams' open transactions, and with what the team has stored
and put out itself (R151, R169, R200). -/
def State.ownView (s : State) (t : Team) : Memory :=
  let m0 := s.teams.foldl (fun m u => if u.id != t.id && u.tx.live then undoLines m u.tx.lines else m) s.mem
  let m1 := (s.core t.coreKey).wbuf.foldl (fun m e =>
    if e.team = t.id then e.bytes.foldl (fun m b => Mem.set m (e.line * 64 + b.1) b.2) m else m) m0
  t.mwr.foldl (fun m w => Mem.setBytes m w.addr w.bytes) m1

/-- A write of a party comes to a line that other teams have fetched from: the matrix reads of theirs that go before their
fetches go before the write, and read memory as it stands now. -/
def State.keepOld (s : State) (by_ line : Nat) : State :=
  if s.teams.all (fun t => t.id == by_ || t.fetched.all (fun f => f.line != line)) then s
  else (s.teams.filter (fun t => t.id != by_)).foldl (fun s t =>
    let hold (e : MEntry) : MEntry := if e.behind t line && e.old.isNone then { e with old := some (s.ownView t) } else e
    let s1 := s.putTeam { t with savedMx := t.savedMx.map (fun q => q.map hold) }
    let c := s1.core t.coreKey
    if c.mx.holder = some t.id then s1.putCore { c with mx := { c.mx with queue := c.mx.queue.map hold } } else s1) s

/-- A port applies a run of bytes within one line, at physical address a, for a party (a team's number, or 0). -/
def State.portWrite (s : State) (by_ a : Nat) (bs : List Byte) : State :=
  let site := a / 2 ^ 37
  let s1 := ((s.txOutside by_ (a / 64)).keepOld by_ (a / 64)).invalidate site a bs.length
  if s1.txWrites (a / 64) then { s1 with mem := Mem.setBytes s1.mem a bs }
  else
    let s2 := s1.wakeInvalid site a bs.length
    State.retestBarriers { s2 with mem := Mem.setBytes s2.mem a bs } a bs.length

/-- The same at every replica, or at a alone (R198). The replicas map one frame at the same offset (R173). -/
def State.portWriteAll (s : State) (by_ a : Nat) (repl : List Nat) (bs : List Byte) : State :=
  if repl.isEmpty then s.portWrite by_ a bs
  else repl.foldl (fun s k => s.portWrite by_ (siteBase k + a % 2 ^ 37) bs) s

/-- The lines that a write at a reaches: its own, or that of each replica (R198). -/
def writeLines (a : Nat) (repl : List Nat) : List Nat :=
  if repl.isEmpty then [a / 64] else repl.map (fun k => (siteBase k + a % 2 ^ 37) / 64)

/-! ### Write buffer and outstanding accesses (R165, R169, R186 to R189, R223, R227) -/

def bankOf (a : Nat) : Nat := a / 64 % 8

/-- Both kinds keep reads and writes in order (R186, R187). -/
def keptBoth (a b : PageKind) : Bool := a != .unordered && b != .unordered

/-- An access that is there to read: a load, an atomic that returns its old value, or one that acquires. -/
def Pend.reads (p : Pend) : Bool :=
  match p.op with
  | .load _ _ => true
  | .atom _ _ => p.dst.isSome || p.acquire.isSome

/-- The kinds keep an access on page a before a later one on page b, when the first one reads, or both pages are strong
(R186, R187). -/
def keptAfter (reads : Bool) (a b : PageKind) : Bool := (a == .strong && b == .strong) || (reads && keptBoth a b)

/-- The address lies in a span. -/
def Span.has (r : Span) (a : Nat) : Bool := decide (r.1 ≤ a) && decide (a < r.2)

/-- A release or acquire of this span orders an access at a. -/
def spanHas (r : Option Span) (a : Nat) : Bool := match r with | some x => Span.has x a | none => false

/-- The span that orders everything. -/
def allSpan : Span := (0, 2 ^ 64)

/-- The newest byte at a, of the writes that satisfy f, that the team's matrix instructions have put out and no `mwait` has
placed (R151). -/
def Team.mwrOf (t : Team) (f : MWrite → Bool) (a : Nat) : Option Byte :=
  (t.mwr.filter f).reverse.findSome? (fun w => if w.addr ≤ a then w.bytes[a - w.addr]? else none)
def Team.mwrByte (t : Team) (a : Nat) : Option Byte := t.mwrOf (fun _ => true) a
/-- The newest of them that an access of the team has returned already. -/
def Team.mwrSeen (t : Team) (a : Nat) : Option Byte := t.mwrOf (fun w => w.seen.contains (a - w.addr)) a

/-- The bytes that satisfy f have been returned by an access of the team. -/
def Team.see (t : Team) (f : Nat → Bool) : Team :=
  { t with mwr := t.mwr.map (fun w =>
      { w with seen := (List.range w.bytes.length).filter (fun i => w.seen.contains i || f (w.addr + i)) }) }

/-- Bytes a team would read at a, its own undrained bytes first (R169 forwarding). -/
def State.forwardByte (s : State) (core team a : Nat) : Byte :=
  match (s.core core).wbuf.reverse.findSome? (fun e =>
    if e.team = team ∧ e.line = a / 64 then e.bytes.findSome? (fun b => if b.1 = a % 64 then some b.2 else none)
    else none) with
  | some b => b
  | none => Mem.get s.mem a

/-- A byte of memory as a team reads it where it does not take the newest one that its matrix instructions have put out: never
one older than what it has read already (R151, R194). -/
def State.oldByte (s : State) (core team a : Nat) : Byte :=
  ((s.team? team).bind (fun t => t.mwrSeen a)).getD (s.forwardByte core team a)

/-- A byte as an access of the team reads it: where a matrix store of its own is put out and not yet placed, the old
byte or the new one (R151). -/
def State.loadByte (s : State) (core team a : Nat) : Byte :=
  match (s.team? team).bind (fun t => t.mwrByte a) with
  | some b => if Config.freeBool (s.draw 15 a) then b else s.oldByte core team a
  | none => s.forwardByte core team a

def State.forward (s : State) (core team a n : Nat) : Nat :=
  leNat ((List.range n).map (fun i => s.loadByte core team (a + i)))

/-- A load of n bytes at a has been made: the new bytes it took stay what the team reads there (R194). -/
def State.noteSeen (s : State) (tid a n : Nat) : State :=
  match s.team? tid with
  | none => s
  | some t =>
    if t.mwr.isEmpty then s
    else s.putTeam (t.see (fun x => decide (a ≤ x) && decide (x < a + n) && Config.freeBool (s.draw 15 x)))

/-- The word that a fetch of the team takes: whole, the old one or the one that its matrix instructions have put out, and no
longer the old one once the team has read some of the new (R31). -/
def State.fetchWord (s : State) (core tid a : Nat) : State × Nat :=
  match s.team? tid with
  | none => (s, s.forward core tid a 4)
  | some t =>
    let at_ := (List.range 4).map (fun i => a + i)
    if at_.all (fun x => (t.mwrByte x).isNone) then (s, leNat (at_.map (s.forwardByte core tid)))
    else if at_.any (fun x => (t.mwrSeen x).isSome) || Config.freeBool (s.draw 15 a) then
      (s.putTeam (t.see at_.contains), leNat (at_.map (fun x => (t.mwrByte x).getD (s.forwardByte core tid x))))
    else (s, leNat (at_.map (s.forwardByte core tid)))

def signExt (bits v : Nat) : Word :=
  if 2 ^ (bits - 1) ≤ v then BitVec.ofNat 64 (v + (2 ^ 64 - 2 ^ bits)) else BitVec.ofNat 64 v

/-- A port applies the bytes of a write-buffer entry whole, at its line of physical address a. -/
def State.portLine (s : State) (by_ a : Nat) (bytes : List (Nat × Byte)) : State :=
  let site := a / 2 ^ 37
  let s0 := ((s.txOutside by_ (a / 64)).keepOld by_ (a / 64)).invalidate site a 64
  let put (s : State) : State := { s with mem := bytes.foldl (fun m b => Mem.set m (a + b.1) b.2) s.mem }
  if s0.txWrites (a / 64) then put s0
  else
    let s1 := put (bytes.foldl (fun s b => s.wakeInvalid site (a + b.1) 1) s0)
    bytes.foldl (fun s b => s.retestBarriers (a + b.1) 1) s1

/-- A transaction commits: what its writes to these lines wake, they wake now (R302, R307). -/
def State.txWoke (s : State) (ls : List TxLine) : State :=
  (ls.filter (fun l => l.write)).foldl (fun s l =>
    let a := l.line * 64
    let s1 := (List.range 8).foldl (fun s i =>
      if Mem.bytes s.mem (a + 8 * i) 8 = (l.undo.drop (8 * i)).take 8 then s
      else s.wakeInvalid (a / 2 ^ 37) (a + 8 * i) 8) s
    s1.retestBarriers a 64) s

/-- Applies a write-buffer entry at its port, or at every replica's, and removes it (R169, R198). -/
def State.drain (s : State) (core : Nat) (e : WbEntry) : State :=
  let c := s.core core
  let s1 := s.putCore { c with wbuf := c.wbuf.filter (fun f => f.id != e.id) }
  if e.repl.isEmpty then s1.portLine e.team (e.line * 64) e.bytes
  else e.repl.foldl (fun s k => s.portLine e.team (siteBase k + e.line * 64 % 2 ^ 37) e.bytes) s1

/-- Bytes that each lane of an outstanding access touches. -/
def Pend.size (p : Pend) : Nat :=
  match p.op with
  | .load n _ => n
  | .atom _ w32 => if w32 then 4 else 8

/-- An outstanding access must be complete before a write-buffer entry of the same team drains (R186, R188, R194). -/
def blocksEntry (p : Pend) (e : WbEntry) : Bool :=
  decide (p.seq < e.seq) &&
    p.lanes.any (fun a => spanHas e.release a.addr || spanHas p.acquire (e.line * 64) || keptAfter p.reads a.kind e.kind ||
      e.bytes.any (fun b => overlaps a.addr p.size (e.line * 64 + b.1) 1) ||
      (match p.op with | .atom _ _ => bankOf a.addr == e.line % 8 | .load _ _ => false))

/-- A write-buffer entry f must drain before e, f standing earlier in the buffer; a release after all of its team (R169,
R188). -/
def entryBefore (f e : WbEntry) : Bool :=
  f.line % 8 == e.line % 8 ||
    (f.team == e.team && (e.release.isSome || (f.kind == .strong && e.kind == .strong)))

/-- An entry of the team must drain before an atomic of it executes (R186, R188, R223). -/
def entryBeforeAtom (e : WbEntry) (p : Pend) : Bool :=
  decide (e.seq < p.seq) &&
    (spanHas p.release (e.line * 64) || p.lanes.any (fun a =>
      bankOf a.addr == e.line % 8 || (a.kind == .strong && e.kind == .strong)))

/-- An earlier outstanding access q must be complete before p: accesses of one byte, reads of one line, reads and what comes
after them as their kinds keep, and writes in one bank on every kind of page (R186, R187, R194). -/
def pendBefore (q p : Pend) : Bool :=
  decide (q.seq < p.seq) &&
    q.lanes.any (fun a => spanHas p.release a.addr || p.lanes.any (fun b =>
      spanHas q.acquire b.addr || overlaps a.addr q.size b.addr p.size ||
      (q.reads && p.reads && a.addr / 64 == b.addr / 64) || keptAfter q.reads a.kind b.kind ||
      (match q.op, p.op with | .atom _ _, .atom _ _ => bankOf a.addr == bankOf b.addr | _, _ => false)))

end Sys2Proof.Machine
end

