-- ==== Sys2Proof/Machine/Access.lean ====
section
/-! DEFINITION. Accesses of a team to its own site: what an atomic computes, the completion of outstanding loads and
atomics, drains of the write buffer, the checks of R216 and R393, control registers, and taking a trap (R354) with
the return from it (R357). -/

namespace Sys2Proof.Machine

/-! ### What an atomic computes (R224 to R226) -/

/-- The low half at width 32. -/
def narrow (w32 : Bool) (v : Word) : Word := if w32 then v &&& 0xFFFFFFFF else v

/-- Signed order at the width of an atomic. -/
def sless (w32 : Bool) (a b : Word) : Bool :=
  if w32 then (a.extractLsb' 0 32).slt (b.extractLsb' 0 32) else a.slt b

/-- The new value for old value v, operand b and expected value e. -/
def atomNew (o : RatomOp) (w32 : Bool) (v b e : Word) : Word :=
  let b := narrow w32 b
  match o with
  | .op .add => narrow w32 (v + b)
  | .op .and => v &&& b
  | .op .or => v ||| b
  | .op .xor => v ^^^ b
  | .op .min => if sless w32 b v then b else v
  | .op .max => if sless w32 v b then b else v
  | .op .minn => if b.toNat < v.toNat then b else v
  | .op .maxn => if v.toNat < b.toNat then b else v
  | .op .fadd => afaddWord w32 v b
  | .swp => b
  | .cas => if v = narrow w32 e then b else v

/-! ### Completing outstanding accesses -/

/-- What a lane of a load takes: its value, and the second word of a pair. -/
def State.loadValue (s : State) (core team a size : Nat) (sign : Bool) : Word × Word :=
  if size = 16 then
    (BitVec.ofNat 64 (s.forward core team a 8), BitVec.ofNat 64 (s.forward core team (a + 8) 8))
  else
    let v := s.forward core team a size
    (if sign then signExt (8 * size) v else BitVec.ofNat 64 v, 0)

/-- Puts an updated record of an outstanding access back, or removes it. -/
def Team.putPend (t : Team) (id : Nat) (p : Option Pend) : Team :=
  { t with pend := t.pend.filterMap (fun q => if q.id = id then p else some q) }

/-- All lanes have their values: they reach the destination and the drift entry that waits for them (R217, R219). -/
def Team.deliver (t : Team) (p : Pend) : Team :=
  match p.dst with
  | none => t
  | some d =>
    let n := t.nlane
    let val (second : Bool) : LaneVec := vtab n (fun l =>
      match p.lanes.find? (fun a => p.uniform || a.lane == l) with
      | some a => let g := a.got.getD (0, 0); if second then g.2 else g.1
      | none => 0)
    let v := val false
    let upd (old : LaneVec) : LaneVec := blend p.act n v old
    let t1 : Team := match d with
      | .drift => t
      | .k i =>
        let t0 := t.setK i.val (upd (t.k i.val))
        (match p.op with
         | .load 16 _ => t0.setK (i.val + 1) (blend p.act n (val true) (t0.k (i.val + 1)))
         | _ => t0)
      | .q i =>
        let q := t.queue i.val
        t.setQueue i.val { q with items := q.items.dropLast ++ [upd (q.items.getLastD [])] }
      | .s i => t.setS i.val (lane v (Mask.first p.act n))
    if p.age < 16 then
      t1.withRegs { t1.regs with drift := setAt [] t1.regs.drift p.age (upd (t1.d p.age)) }
    else t1

/-- The lanes of mask m that still wait take their values now: a load reads, an atomic's lanes read and write in
ascending order (R227). When every lane has its value, the access is complete. -/
def State.advance (s : State) (tid pid : Nat) (m : Mask) : State :=
  match s.team? tid with
  | none => s
  | some t =>
    match t.pend.find? (fun p => p.id == pid) with
    | none => s
    | some p =>
      let core := t.coreKey
      let (s1, lanes) := p.lanes.foldl (fun (acc : State × List LaneAcc) a =>
        let (s, ls) := acc
        if a.got.isSome || !Mask.has m a.lane then (s, ls ++ [a])
        else match p.op with
          | .load size sign =>
            let s2 := s.txRead tid (a.addr / 64)
            (s2.noteSeen tid a.addr size, ls ++ [{ a with got := some (s2.loadValue core tid a.addr size sign) }])
          | .atom o w32 =>
            let size := if w32 then 4 else 8
            let s2 := s.txRead tid (a.addr / 64)
            let v := BitVec.ofNat 64 (Mem.read s2.mem a.addr size)
            let nv := atomNew o w32 v a.opnd a.expect
            let s3 := if o = .cas ∧ v ≠ narrow w32 a.expect then s2
                      else s2.portWriteAll tid a.addr a.repl (leBytes size nv.toNat)
            (s3, ls ++ [{ a with got := some (v, 0) }])) (s, [])
      match s1.team? tid with
      | none => s1
      | some t1 =>
        let p1 := { p with lanes }
        if lanes.all (fun a => a.got.isSome) then s1.putTeam ((t1.putPend pid none).deliver p1)
        else s1.putTeam (t1.putPend pid (some p1))

/-! ### Forcing what an instruction waits for -/

/-- Something outstanding: an access of a team, or a write-buffer entry of a core. -/
inductive Item where
  | pend (team id : Nat)
  | entry (core id : Nat)
deriving DecidableEq, Repr

/-- A fetch from a line comes after an earlier outstanding access (R181, R186, R188). -/
def fetchAfter (p : Pend) (line : Nat) (kind : PageKind) : Bool :=
  p.lanes.any (fun a => spanHas p.acquire (line * 64) || keptAfter p.reads a.kind kind || (p.reads && a.addr / 64 == line))

/-- What other teams' fetches from lines come after: it is over before another party's write to them is applied. -/
def State.fetchedBefore (s : State) (by_ : Nat) (lines : List Nat) : List Item :=
  s.teams.flatMap (fun u => if u.id == by_ then [] else
    (u.fetched.filter (fun f => lines.contains f.line)).flatMap (fun f =>
      (u.pend.filter (fun p => decide (p.seq < f.seq) && fetchAfter p f.line f.kind)).map (fun p => Item.pend u.id p.id)))

/-- What must be over before an outstanding access of a team may complete. -/
def State.beforePend (s : State) (t : Team) (p : Pend) : List Item :=
  let ps := (t.pend.filter (fun q => pendBefore q p)).map (fun q => Item.pend t.id q.id)
  match p.op with
  | .load _ _ => ps
  | .atom _ _ =>
    ps ++ ((s.core t.coreKey).wbuf.filter (fun e => e.team == t.id && entryBeforeAtom e p)).map
      (fun e => Item.entry t.coreKey e.id) ++ s.fetchedBefore t.id (p.lanes.flatMap (fun a => writeLines a.addr a.repl))

/-- What must be over before an item may complete. -/
def State.before (s : State) : Item → List Item
  | .pend tid pid =>
    match s.team? tid with
    | none => []
    | some t => (t.pend.find? (fun p => p.id == pid)).elim [] (s.beforePend t)
  | .entry core eid =>
    let w := (s.core core).wbuf
    match w.find? (fun e => e.id == eid) with
    | none => []
    | some e =>
      let ahead := w.takeWhile (fun f => f.id != eid)
      (ahead.filter (fun f => entryBefore f e)).map (fun f => Item.entry core f.id) ++
      (match s.team? e.team with
       | none => []
       | some t => (t.pend.filter (fun p => blocksEntry p e)).map (fun p => Item.pend t.id p.id)) ++
      s.fetchedBefore e.team (writeLines (e.line * 64) e.repl)

/-- Completes an item, everything it waits for first. Fuel bounds the depth of the chain. -/
def State.force (s : State) : Nat → Item → State
  | 0, _ => s
  | fuel + 1, it =>
    let s1 := (s.before it).foldl (fun s j => s.force fuel j) s
    match it with
    | .pend tid pid => s1.advance tid pid (BitVec.allOnes 1024)
    | .entry core eid =>
      match (s1.core core).wbuf.find? (fun e => e.id == eid) with
      | some e => s1.drain core e
      | none => s1

/-- Bound on the chains of a core and its teams; where teams have fetched ahead, of all of them. -/
def State.depth (s : State) (core : Nat) : Nat :=
  if s.teams.all (fun t => t.fetched.isEmpty) then
    (s.core core).wbuf.length + (s.teams.foldl (fun n t => if t.coreKey = core then n + t.pend.length else n) 0) + 1
  else s.cores.foldl (fun n c => n + c.wbuf.length) 0 + s.teams.foldl (fun n t => n + t.pend.length) 0 + 1

def State.forceAll (s : State) (core : Nat) (its : List Item) : State :=
  its.foldl (fun s i => s.force (s.depth core) i) s

/-! ### Increments at their port (R250 to R256) -/

/-- Puts an action into firing order: ascending distance, then arming order. -/
def insertFire (x : Nat × Armed) : List (Nat × Armed) → List (Nat × Armed)
  | [] => [x]
  | y :: r => if x.1 < y.1 then x :: y :: r else y :: insertFire x r

/-- The site of a target within the partition of a site. -/
def State.targetSite (s : State) (site : Nat) (a : Word) : Nat := (s.partSite (s.partOf site) (gSite a)).getD site

/-! ### The shape of a command (R243, R244) -/

def cArg (args : List Word) (i : Nat) : Word := args.getD i 0
def cNum (args : List Word) (i : Nat) : Nat := (cArg args i).toNat

def isElem (op : Nat) : Bool := op == 0xB2 || op == 0xB3
/-- Element size of a gather or scatter. -/
def elemSize (fn : Nat) : Nat := 2 ^ (fn / 2 % 8)

/-- Arguments of an opcode without C. -/
def cmdArgs (op : Nat) : Nat := if op = 0xB1 then 6 else if isElem op then 4 else 3

/-- Bytes, or for a gather or scatter elements. -/
def cmdTotal (op : Nat) (args : List Word) : Nat :=
  if op = 0xB0 then cNum args 2
  else if op = 0xB1 then cNum args 2 * cNum args 3
  else if op = 0xB4 then cNum args 1
  else cNum args 3

/-- A length, count or rows beyond its limit. -/
def cmdOver (op fn : Nat) (args : List Word) : Bool :=
  if op = 0xB1 then decide (65535 < cNum args 3) || decide (2 ^ 31 < cmdTotal op args)
  else if isElem op then decide (2 ^ 31 < cNum args 3 * elemSize fn)
  else decide (2 ^ 31 < cmdTotal op args)

/-- The span of a strided side: its lowest byte and its length. -/
def strideSpan (a : Word) (rowBytes rows : Nat) (stride : Word) : Word × Nat :=
  if rowBytes = 0 ∨ rows = 0 then (a, 0)
  else
    let d : Int := ((rows - 1 : Nat) : Int) * stride.toInt
    (a + BitVec.ofInt 64 (min 0 d), d.natAbs + rowBytes)

/-- The contiguous ranges of a command: start, length, written. -/
def cmdRanges (op fn : Nat) (args : List Word) : List (Word × Nat × Bool) :=
  let n := cmdTotal op args
  if op = 0xB0 then [(cArg args 0, n, true), (cArg args 1, n, false)]
  else if op = 0xB1 then
    let d := strideSpan (cArg args 0) (cNum args 2) (cNum args 3) (cArg args 4)
    let r := strideSpan (cArg args 1) (cNum args 2) (cNum args 3) (cArg args 5)
    [(d.1, d.2, true), (r.1, r.2, false)]
  else if op = 0xB2 then [(cArg args 2, 4 * n, false), (cArg args 0, n * elemSize fn, true)]
  else if op = 0xB3 then [(cArg args 2, 4 * n, false), (cArg args 1, n * elemSize fn, false)]
  else [(cArg args 0, n, true)]

/-- The 32 MiB blocks that the ranges of a command meet and its party's table maps by one leaf: pages of its segments; every
other page is one of 64 KiB (R170, R179). They are those that stand when the command is issued: DEDUCED, log 119. -/
def State.bigBlocks (s : State) (site : Nat) (core : Option Nat) (tenant op fn : Nat) (args : List Word) : List Nat :=
  match s.tenantDesc site tenant with
  | none => []
  | some d =>
    if isElem op then []
    else ((cmdRanges op fn args).flatMap (fun r =>
      let o := gOfs r.1
      if r.2.1 = 0 then [] else (List.range ((o + r.2.1 - 1) / 2 ^ 25 - o / 2 ^ 25 + 1)).map (fun i => o / 2 ^ 25 + i))).filter
        (fun b => match translate s site core d.root tenant (b * 2 ^ 25) with | .leaf l => l.big | _ => false)

/-- A fired action: a fill, an increment, or a prepared command that starts (R254, R255, R256). A command with nothing
to move completes when the step settles. -/
def State.fire (s : State) (site : Nat) (a : Armed) : State :=
  let (id, s1) := s.fresh
  let home := s.targetSite site a.target
  if a.kind = 2 then
    let w0 := (a.recd.getD 0 0).toNat
    let op := w0 % 256
    let fn := w0 / 65536 % 65536
    let args := a.recd.drop 1
    let k : Cmd :=
      { id, team := none, site := home, core := 0, op, fn, lane := 0, args, tenant := a.tenant, user := a.user,
        state := CmdState.flight, token := none, setCtr := none, rewritten := false, issued := s.now,
        bigs := s.bigBlocks home none a.tenant op fn args, upto := 0, done := [], segs := [] }
    { s1 with cmds := s1.cmds ++ [k] }
  else
    { s1 with fills := s1.fills ++
      [{ id, site := home, tenant := a.tenant, user := a.user, target := a.target, value := a.value, kind := a.kind,
         evFull := 0x02, evBad := 0x07, part := s.partOf site, waiting := false }] }

/-- What other teams' fetches from lines come after is over, before a write of a party (a team's number, or 0) is applied to
them. -/
def State.settleFetched (s : State) (by_ : Nat) (lines : List Nat) : State :=
  (s.fetchedBefore by_ lines).foldl (fun s i => s.force (s.depth 0) i) s

/-- One increment at the port: actions whose thresholds it crosses fire and go, then the word changes (R252). -/
def State.increment (s0 : State) (ctr amount : Nat) : State :=
  let site := ctr / 2 ^ 37
  let (s, v) := (s0.settleFetched 0 [ctr / 64]).readWord 0 ctr
  let x := s.site site
  let hits := x.armed.filter (fun a => a.ctr == ctr && (let d := (a.thr - v).toNat; decide (1 ≤ d ∧ d ≤ amount)))
  let order := hits.foldl (fun l a => insertFire ((a.thr - v).toNat, a) l) []
  let s1 := if hits.isEmpty then s else s.putSite { x with armed := x.armed.filter (fun a => !hits.contains a) }
  let s2 := s1.portWrite 0 ctr (leBytes 8 (v + BitVec.ofNat 64 amount).toNat)
  order.foldl (fun s a => s.fire site a.2) s2

/-- Applies the increments of one write-queue entry, in order (R251). -/
def State.applyIncs (s : State) (id : Nat) : State :=
  let (go, rest) := s.incs.partition (fun i => i.id == id)
  go.foldl (fun s i => s.increment i.ctr i.amount) { s with incs := rest }

/-- The team's own increments that satisfy f reach their port. -/
def State.settleIncs (s : State) (tid : Nat) (f : Inc → Bool) : State :=
  ((s.incs.filter (fun i => i.team == some tid && f i)).map (fun i => i.id)).foldl (fun s i => s.applyIncs i) s

/-! ### What a team's earlier accesses must have done -/

/-- Every earlier load and atomic of the team completes. -/
def State.settlePend (s : State) (tid : Nat) : State :=
  match s.team? tid with
  | none => s
  | some t => s.forceAll t.coreKey (t.pend.map (fun p => Item.pend tid p.id))

/-- Every earlier atomic and reduction of the team is applied at its port. -/
def State.settleAtoms (s : State) (tid : Nat) : State :=
  match s.team? tid with
  | none => s
  | some t => s.forceAll t.coreKey ((t.pend.filter (fun p => match p.op with
      | .atom _ _ => true | .load _ _ => false)).map (fun p => Item.pend tid p.id))

/-- Every write-buffer entry of the team that satisfies f is applied. -/
def State.settleEntries (s : State) (tid : Nat) (f : WbEntry → Bool) : State :=
  match s.team? tid with
  | none => s
  | some t => s.forceAll t.coreKey
      (((s.core t.coreKey).wbuf.filter (fun e => e.team == tid && f e)).map (fun e => Item.entry t.coreKey e.id))

/-- Stores, atomics and reductions of the team are all applied (R230). -/
def State.settleStores (s : State) (tid : Nat) : State :=
  (s.settleAtoms tid).settleEntries tid (fun _ => true)

/-- The drain conditions of `fence` and of a release: every earlier access, increments too (R188, R189, R229). -/
def State.settleAll (s : State) (tid : Nat) : State :=
  ((s.settlePend tid).settleEntries tid (fun _ => true)).settleIncs tid (fun _ => true)

/-! ### Control windows (R393) -/

/-- The team holds the level that control windows need (R20). -/
def Team.sup (t : Team) : Bool := decide (1 ≤ t.ctl.priv)
def Team.mon (t : Team) : Bool := decide (2 ≤ t.ctl.priv)

def frameWindow : Nat := 0x1F80000000
/-- Site-local offset of a slot's trap frame (R351). -/
def frameOfs (cluster core slot : Nat) : Nat :=
  frameWindow + (cluster * 64 + core) * 0x200000 + slot * 0x40000
def Team.frameBase (t : Team) : Nat :=
  siteBase t.place.site + frameOfs t.place.cluster t.place.core t.place.slot

/-- The site carries a host port (R387). -/
def hostPort (site : Nat) : Bool := site % 64 = 0 || site % 64 = 7 || site % 64 = 56 || site % 64 = 63

/-- The team that holds a slot (resident, parked, or retiring). -/
def State.slotTeam (s : State) (core slot : Nat) : Option Team :=
  s.teams.find? (fun t => t.coreKey == core && t.place.slot == slot &&
    (match t.status with
     | .running | .reserved _ | .parked .. | .retiring => true
     | .waiting .. | .halted .. | .exported .. | .retired => false))

/-- Outgoing teams that are not yet halted or saved (R340 DONE). -/
def State.outgoing (s : State) (site : Nat) : Nat :=
  (s.teams.filter (fun t => t.place.site == site && t.yieldReq &&
    (match t.status with
     | .running | .parked .. | .reserved _ | .retiring => true
     | .waiting .. | .halted .. | .exported .. | .retired => false))).length

/-- Where a control window offset lies. -/
inductive CtlPlace where
  | register
  | table
  | frame (core slot : Nat)
  | none
deriving DecidableEq, Repr

def ctlPlace (site ofs : Nat) : CtlPlace :=
  if 0x1F00100000 ≤ ofs ∧ ofs < 0x1F00100020 then .register
  else if 0x1F00200000 ≤ ofs ∧ ofs < 0x1F00200200 then (if hostPort site then .register else .none)
  else if 0x1F00300000 ≤ ofs ∧ ofs < 0x1F00300040 then .register
  else if 0x1F00400000 ≤ ofs ∧ ofs < 0x1F00401000 then .table
  else if 0x1F00401000 ≤ ofs ∧ ofs < 0x1F00401200 then .register
  else if 0x1F00500000 ≤ ofs ∧ ofs < 0x1F00500008 then .register
  else if 0x1F00600000 ≤ ofs ∧ ofs < 0x1F00600008 then .register
  else if frameWindow ≤ ofs ∧ ofs < 0x1FA0000000 then
    .frame ((ofs - frameWindow) / 0x200000) ((ofs - frameWindow) / 0x40000 % 8)
  else .none

/-- A whole control register (R266, R278, R336, R340, R354, R359). -/
def State.ctlRead (s : State) (site ofs : Nat) : Word :=
  let x := s.site site
  if ofs = 0x1F00100000 then x.rselcfg
  else if ofs = 0x1F00100008 then x.inc.setWidth 64
  else if ofs = 0x1F00100010 then x.incDrop
  else if ofs = 0x1F00100018 then x.keyDrop
  else if 0x1F00200000 ≤ ofs ∧ ofs < 0x1F00200200 then
    let q := x.hq.getD ((ofs - 0x1F00200000) / 32) {}
    match ofs % 32 / 8 with
    | 0 => q.cfg
    | 1 => q.head.setWidth 64
    | 2 => q.tail.setWidth 64
    | _ => q.torn
  else if 0x1F00300000 ≤ ofs ∧ ofs < 0x1F00300040 then
    (x.remap.getD ((ofs - 0x1F00300000) / 16) 0).extractLsb' (ofs % 16 / 8 * 64) 64
  else if 0x1F00401000 ≤ ofs ∧ ofs < 0x1F00401200 then x.tvbdef.getD ((ofs - 0x1F00401000) / 8) 0
  else if ofs = 0x1F00500000 then x.evLost
  else if ofs = 0x1F00600000 then BitVec.ofNat 64 (s.outgoing site * 2 ^ 16) ||| x.tswNext.setWidth 64
  else 0

/-- Descriptor bytes of the tenant table after a write, checked as R338 gives. -/
def State.tableWriteOk (s : State) (site : Nat) (m : Memory) : Bool :=
  let s1 := { s with mem := m }
  let descs := (List.range 64).filterMap (fun i => s1.desc site i)
  let fieldsOk := (List.range 64).all (fun i =>
    let b := siteBase site + tenantTable + i * 64
    let flags := (Mem.get m (b + 0x17)).toNat
    if flags % 2 = 0 then true
    else
      match s1.desc site i with
      | none => true
      | some d =>
        decide (d.root % 65536 = 0) && decide (d.root + 65536 ≤ 0x0800000000) &&
        decide (d.names % 16 = 0) && decide (d.names < 0x0800000000) &&
        decide (1 ≤ d.devices) && decide (d.devices ≤ Config.maxDevices) &&
        decide (d.share ≤ 64) && decide (flags < 2) &&
        decide (d.save % 0x200000 = 0) && decide (d.save < 0x0800000000) &&
        decide (Mem.read m (b + 0x20) 32 = 0))
  let unique := descs.all (fun d => descs.all (fun e => d.idx == e.idx || d.tenant != e.tenant))
  let shares := descs.foldl (fun n d => n + d.share) 0
  let altered := (List.range 64).any (fun i =>
    let b := siteBase site + tenantTable + i * 64
    match s.desc site i with
    | none => false
    | some d =>
      Mem.bytes s.mem b 64 != Mem.bytes m b 64 &&
      s.teams.any (fun t => t.place.site == site && t.ctl.home.toNat == d.tenant &&
        (match t.status with
         | .running | .parked .. | .reserved _ | .retiring | .halted .. => true
         | .waiting .. | .exported .. | .retired => false)))
  fieldsOk && unique && decide (shares ≤ 64) && !altered

/-- A control area takes a write of any size; none means it is refused with "protection". -/
def State.tableWrite (s : State) (site ofs : Nat) (bs : List Byte) : Option State :=
  let m := Mem.setBytes s.mem (siteBase site + ofs) bs
  if s.tableWriteOk site m then some { s with mem := m } else none

/-- A write of one control register; none means "protection", with nothing changed (R393). TSWITCH with GO is
answered here only as accepted or refused: `tswitchGo` acts. -/
def State.ctlWrite (s : State) (site ofs : Nat) (v : Word) (monitor : Bool) : Option State :=
  let x := s.site site
  if ofs = 0x1F00100000 then
    if v.extractLsb' 0 8 ≠ 0 then none else some (s.putSite { x with rselcfg := v })
  else if 0x1F00200000 ≤ ofs ∧ ofs < 0x1F00200200 ∧ ofs % 32 = 0 then
    let i := (ofs - 0x1F00200000) / 32
    let q := x.hq.getD i {}
    let elsewhere := match x.part with
      | none => false
      | some p => s.sites.any (fun y => y.key != site && y.part == some p && ((y.hq.getD i {}).cfg.getLsbD 31))
    if v.extractLsb' 32 32 ≠ 0 ∨ v.getLsbD 25 then none
    else if q.cfg.getLsbD 31 && q.head != q.tail then none
    else if v.getLsbD 31 && elsewhere then none
    else some (s.putSite { x with hq := setAt {} x.hq i { q with cfg := v } })
  else if 0x1F00300000 ≤ ofs ∧ ofs < 0x1F00300040 then
    if !monitor then none
    else if (List.range 4).any (fun r => v.extractLsb' (16 * r + 9) 7 ≠ 0) then none
    else
      let c := (ofs - 0x1F00300000) / 16
      let old := x.remap.getD c 0
      let nv : BitVec 128 := if ofs % 16 = 0 then old.extractLsb' 64 64 ++ v else v ++ old.extractLsb' 0 64
      some (s.putSite { x with remap := setAt 0 x.remap c nv })
  else if 0x1F00401000 ≤ ofs ∧ ofs < 0x1F00401200 then
    if v.extractLsb' 0 11 ≠ 0 then none
    else some (s.putSite { x with tvbdef := setAt 0 x.tvbdef ((ofs - 0x1F00401000) / 8) v })
  else if ofs = 0x1F00600000 then
    let next := v.extractLsb' 0 16
    if v.extractLsb' 33 31 ≠ 0 then none
    else if (s.tenantDesc site next.toNat).isNone then none
    else if v.getLsbD 32 && s.outgoing site != 0 then none
    else
      let x1 := { x with tswNext := next }
      if v.getLsbD 32 then
        -- the GO write: every team of the tenant whose slice it was gets a yield request (R340)
        let out := s.teams.filter (fun t => t.place.site == site && t.ctl.home != next &&
          (match t.status with
           | .running | .parked .. | .reserved _ => true
           | .waiting .. | .retiring | .halted .. | .exported .. | .retired => false))
        let s1 := s.putSite { x1 with tswOut := some (x.slice.getD next, s.now + us 50), slice := some next }
        some (out.foldl (fun s t => s.putTeam { t with yieldReq := true }) s1)
      else some (s.putSite x1)
  else none

/-- May this team reach this control place at all, with an access of this size (R20, R351, R393)? -/
def State.ctlReach (s : State) (t : Team) (ofs size : Nat) : Bool :=
  t.sup && (match ctlPlace t.place.site ofs with
    | .register => size == 8
    | .table => true
    | .frame c sl =>
      t.mon || (match s.slotTeam (t.place.site * 256 + c) sl with
        | some u => u.ctl.home == t.ctl.acting
        | none => false)
    | .none => false)

/-! ### Checking the lanes of an access (R166, R167, R172, R216) -/

/-- A lane whose address has passed every check. -/
structure LaneX where
  lane : Nat
  vaddr : Word
  phys : Nat
  kind : PageKind
  repl : List Nat
  leaf : Option Leaf
  /-- a control window place, reached without translation -/
  ctl : Bool
deriving DecidableEq, Repr

/-- What the checks of an access answer. -/
inductive Chk where
  | ok (ls : List LaneX)
  | trap (cls code : Nat) (bad : List (Nat × Word))
  /-- translation fault: page of the first lane that met it -/
  | fault (addr : Word) (lvl2 : Bool)
  | broken (ofs rule : Nat)
deriving DecidableEq, Repr

/-- The kind of an access for the checks. -/
structure AccKind where
  size : Nat
  write : Bool
  /-- a plain load or store, which alone reaches control windows (R393) -/
  plain : Bool
  /-- a store that may name another site of the device (R167) -/
  cross : Bool
deriving DecidableEq, Repr

/-- Seam and translation of one lane, alignment aside. -/
inductive Lane1 where
  | ok (x : LaneX)
  | seam
  | prot
  | name
  | fault (lvl2 : Bool)
  /-- the translation that decides the seam check of a store naming another site meets an invalid entry (R167) -/
  | seamFault (lvl2 : Bool)
  | broken (rule : Nat)
deriving DecidableEq, Repr

/-- Names of the other replicas must be mapped for a store to propagate (R177, R216). -/
def State.replNamed (s : State) (t : Team) (l : Leaf) : Bool :=
  !l.repl || (List.range 64).all (fun i => !l.rmask.getLsbD i || i == t.place.lsite ||
    (s.lookupName t.place.site t.ctl.acting.toNat t.place.ldev i).isSome)

/-- One lane's access at the team's own site: a control window by its level, a hole, or what the page gives. -/
def State.checkOwn (s : State) (t : Team) (k : AccKind) (l : Nat) (a : Word) : Lane1 :=
  let ofs := gOfs a
  let site := t.place.site
  if region ofs = .control then
    if k.plain && t.sup && s.ctlReach t ofs k.size then
      .ok { lane := l, vaddr := a, phys := siteBase site + ofs, kind := .strong, repl := [], leaf := none, ctl := true }
    else .prot
  else if t.sup && region ofs == .hole then .prot
  else
    match xlate s site (some t.coreKey) t.ctl.acting.toNat (!t.sup) (if k.write then .write else .read) ofs with
    | .ok phys kind leaf =>
      if k.write && !s.replNamed t leaf then .name
      else .ok { lane := l, vaddr := a, phys, kind, repl := if k.write then replSites s site t.place.ldev t.place.lsite t.ctl.acting.toNat leaf else [],
                 leaf := some leaf, ctl := false }
    | .prot => .prot
    | .fault v => .fault v
    | .broken r => .broken r

/-- One lane of an access. A store that names another site acts as at the own site when its offset's page is replicated
at both (R167, third row). -/
def State.checkLane (s : State) (t : Team) (k : AccKind) (l : Nat) (a : Word) : Lane1 :=
  if gDev a == t.place.ldev && gSite a == t.place.lsite then s.checkOwn t k l a
  else if k.cross && gDev a == t.place.ldev then
    match s.tenantDesc t.place.site t.ctl.acting.toNat with
    | none => .seam
    | some d =>
      match translate s t.place.site (some t.coreKey) d.root t.ctl.acting.toNat (gOfs a) with
      | .invalid v => .seamFault v
      | .hole => .seam
      | .broken r => .broken r
      | .leaf leaf =>
        if leaf.repl && leaf.rmask.getLsbD t.place.lsite && leaf.rmask.getLsbD (gSite a) then s.checkOwn t k l a
        else .seam
  else .seam

/-- Checks every lane in the order of R49: alignment, seam, protection, unmapped name; then a broken entry, then
translation faults. A fault of the translation that decides a store's seam check comes in that check's place, before any lane's
seam, protection or name, and after every lane's alignment. DESIGN CHOICE, log 107. -/
def State.checkLanes (s : State) (t : Team) (k : AccKind) (ls : List (Nat × Word)) : Chk :=
  let mis := ls.filter (fun x => x.2.toNat % k.size != 0)
  if !mis.isEmpty then .trap 4 0x01 mis
  else
    let rs := ls.map (fun x => (x, s.checkLane t k x.1 x.2))
    let pick (f : Lane1 → Bool) : List (Nat × Word) := (rs.filter (fun r => f r.2)).map (fun r => r.1)
    let seam := pick (fun r => r == .seam)
    let prot := pick (fun r => r == .prot)
    let name := pick (fun r => r == .name)
    match rs.findSome? (fun r => match r.2 with | .seamFault v => some (r.1.2, v) | _ => none) with
    | some (a, v) => .fault a v
    | none =>
    if !seam.isEmpty then .trap 4 0x02 seam
    else if !prot.isEmpty then .trap 4 0x03 prot
    else if !name.isEmpty then .trap 4 0x04 name
    else
      match rs.findSome? (fun r => match r.2 with | .broken n => some (gOfs r.1.2, n) | _ => none) with
      | some (o, n) => .broken o n
      | none =>
        match rs.findSome? (fun r => match r.2 with | .fault v => some (r.1.2, v) | _ => none) with
        | some (a, v) => .fault a v
        | none => .ok (rs.filterMap (fun r => match r.2 with | .ok x => some x | _ => none))

/-- The leaves that served an access enter the TLB; lines read from vault and DRAM enter the line buffer; the names of the
replicas that a store reaches enter the name cache. -/
def State.noteAccess (s : State) (t : Team) (ls : List LaneX) (lines : Bool) : State :=
  let c := ls.foldl (fun (c : Core) x =>
    let c1 := match x.leaf with
      | some l => tlbFill c t.ctl.acting.toNat (gOfs x.vaddr) l
      | none => c
    let ln := x.phys / 64
    if lines && !x.ctl && x.kind != .strong && region (x.phys % 2 ^ 37) != .scratch && !c1.lbuf.contains ln then
      { c1 with lbuf := (ln :: c1.lbuf).take 1024 }
    else c1) (s.core t.coreKey)
  let s1 := if c = s.core t.coreKey then s else s.putCore c
  ls.foldl (fun s x =>
    match x.leaf with
    | some l => if x.repl.isEmpty then s else s.fillReplicas t.place.site t.place.ldev t.place.lsite t.ctl.acting.toNat l
    | none => s) s1

/-! ### Taking a trap (R351 to R355) -/

/-- What a trap carries: class, code, opcode, marked lanes, values for LIST, and the fields of a deferred trap. -/
structure TrapInfo where
  cls : Nat
  code : Nat
  op : Nat
  mask : Mask
  list : List (Nat × Word) := []
  pidx : Nat := 0
  aux : Nat := 0
deriving DecidableEq, Repr

def maskBytes (m : Mask) : List Byte := leBytes 128 m.toNat

/-- The 8 KiB side buffer as (offset, bytes) runs (R352). -/
def sideRuns (i : TrapInfo) (n : Nat) : List (Nat × List Byte) :=
  let marked := Mask.lanes i.mask n
  let list := (marked.take 1000).map (fun l =>
    match i.list.find? (fun x => x.1 == l) with | some x => x.2 | none => 0)
  [(0x000, leBytes 8 (i.op * 2 ^ 56 + i.cls * 2 ^ 53 + i.code * 2 ^ 32)),
   (0x008, leBytes 8 i.pidx), (0x010, leBytes 8 i.aux), (0x018, leBytes 8 marked.length),
   (0x040, maskBytes i.mask)] ++
  list.zipIdx.map (fun x => (0x0C0 + 8 * x.2, leBytes 8 x.1.toNat))

def hintBits (h : Hint) : Nat :=
  (if h.imm.isSome then 1 else 0) + (if h.immh.isSome then 2 else 0) + (if h.mod.isSome then 4 else 0)

/-- The rest of the frame (R351, R353). -/
def frameRuns (t : Team) (epc : Word) : List (Nat × List Byte) :=
  (List.range 16).flatMap (fun e =>
    (List.range t.nlane).map (fun l => (0x2000 + e * 0x2000 + l * 8, leBytes 8 (lane (t.d e) l).toNat))) ++
  [(0x22000, leBytes 8 epc.toNat),
   (0x22008, leBytes 8 (t.ctl.stack.length * 2 ^ 11 + hintBits t.ctl.hint * 2 ^ 8 + t.ctl.priv)),
   (0x22010, leBytes 8 (t.ctl.hint.imm.getD 0).toNat), (0x22018, leBytes 8 (t.ctl.hint.immh.getD 0).toNat),
   (0x22020, leBytes 8 (t.ctl.hint.mod.getD 0).toNat),
   (0x22040, maskBytes t.ctl.cur), (0x220C0, maskBytes t.ctl.brk)] ++
  (List.range 7).map (fun i => (0x22140 + 128 * i, maskBytes (t.p i)))

def writeRuns (m : Memory) (base : Nat) (rs : List (Nat × List Byte)) : Memory :=
  rs.foldl (fun m r => Mem.setBytes m (base + r.1) r.2) m

/-- An empty drift (R16, R354). -/
def emptyDrift (n : Nat) : List LaneVec := List.replicate 16 (List.replicate n 0)

/-- The live transactions of a launch's teams are undone, and its lane records leave the bins. -/
def State.dropWork (s : State) (part launch : Nat) : State :=
  let s1 := s.teams.foldl (fun s t =>
    if t.place.part == part && t.place.launch == launch && t.tx.live then s.txAbort t.id 0x06 else s) s
  { s1 with sites := s1.sites.map (fun x =>
      { x with bins := x.bins.filter (fun b => !(b.part == part && b.launch == launch)) }) }

/-- The journal entry of a launch fails: its completion cell takes 0x04 and its teams are stopped (R283, R355). -/
def State.failLaunch (s0 : State) (part launch : Nat) : State :=
  let s := s0.dropWork part launch
  match s.part? part with
  | none => s
  | some p =>
    match p.journal.find? (fun e => e.launch == launch) with
    | none => s
    | some e =>
      if e.state = .done ∨ e.state = .failed then s
      else
        let s1 := s.putPart { p with journal := p.journal.map (fun f =>
          if f.launch == launch then { f with state := .failed } else f) }
        let s2 :=
          if e.lrec.comp = 0 then s1
          else
            let (id, s1) := s1.fresh
            { s1 with fills := s1.fills ++
              [{ id, site := s.partHome p, tenant := e.tenant, user := !e.hdr.supervisor, target := e.lrec.comp,
                 value := 4,
                 kind := 0, evFull := 0x01, evBad := 0x06, part, waiting := false }] }
        { s2 with teams := s2.teams.map (fun t =>
          if t.place.part == part && t.place.launch == launch then
            match t.status with
            | .retired => t
            | .waiting .. | .reserved _ | .halted .. | .exported .. => { t with status := .retired }
            | .running | .parked .. | .retiring =>
              { t with status := .retiring, ctl := { t.ctl with live := 0, cur := 0, brk := 0 } }
          else t) }

/-- Reads a frame word. -/
def State.frameWord (s : State) (t : Team) (o : Nat) : Word := Mem.word s.mem (t.frameBase + o)
def State.frameMask (s : State) (t : Team) (o : Nat) : Mask := BitVec.ofNat 1024 (Mem.read s.mem (t.frameBase + o) 128)

/-- A double trap: the team retires as if every live lane had executed `exit`, its launch fails, and an event of
code 0x05 is entered, with the EPC that the handler's frame holds once the team's stores are applied (R355, R359). -/
def State.doubleTrap (s0 : State) (tid : Nat) : State :=
  let s := s0.settleEntries tid (fun _ => true)
  match s.team? tid with
  | none => s
  | some t =>
    let s1 := s.putTeam { t with
      status := .retiring, wake := none, stalled := none, held := false, long := none, spawning := [], unsent := [], forkOpen := false,
      ctl := { t.ctl with live := 0, cur := 0, brk := 0, stack := t.ctl.stack.map (fun l => { l with image := 0 }) } }
    let s2 := { s1 with cmds := s1.cmds.filter (fun k => !(k.team == some tid && k.state == CmdState.heldInSet)) }
    (s2.failLaunch t.place.part t.place.launch).event t.place.site t.ctl.home.toNat 0x05
      (s.frameWord t 0x22000)

/-- Taking a trap (R354): every earlier instruction completes, a live transaction aborts first (R237), the lane
detail and the saved state go to the slot's frame, and the team continues at TVB + class × 0x100. -/
def State.takeTrap (s : State) (tid : Nat) (i : TrapInfo) : State :=
  let s0 := s.settlePend tid
  let inTx := match s.team? tid with | some t => t.tx.live | none => false
  let s1 := if inTx then s0.txAbort tid 0x06 else s0
  match s1.team? tid with
  | none => s1
  | some t =>
    let epc := if !inTx && i.cls == 7 then t.ctl.pc + 4 else t.ctl.pc
    if t.ctl.inHandler then s1.doubleTrap tid
    else
      let base := t.frameBase
      let m1 := Mem.clear s1.mem base (base + 0x40000)
      let m2 := writeRuns m1 base (sideRuns i t.nlane ++ frameRuns t epc)
      let s2 := { s1 with mem := m2 }
      s2.putTeam { t with
        status := .running, wake := none, did := 0, stalled := none, held := false, long := none, spawning := [], unsent := [],
        regs := { t.regs with drift := emptyDrift t.nlane },
        ctl := { t.ctl with hint := {}, cur := t.ctl.live, brk := 0, inHandler := true,
                            priv := max t.ctl.priv 1,
                            pc := t.ctl.tvb + BitVec.ofNat 64 (i.cls * 0x100) } }

/-- Leaving a handler (R357): the frame's values come back, or the return is refused as a double trap. The pc stands
at the `eret`. -/
def State.leaveHandler (s : State) (tid : Nat) : State :=
  let s0 := (s.settlePend tid).settleEntries tid (fun _ => true)
  match s0.team? tid with
  | none => s0
  | some t =>
    let epc := s0.frameWord t 0x22000
    let es := s0.frameWord t 0x22008
    let priv := (es.extractLsb' 0 2).toNat
    let refuse := epc.extractLsb' 0 2 ≠ 0 ∨ (1 < priv ∧ t.ctl.priv < 2) ∨ es.extractLsb' 16 48 ≠ 0 ∨
      es.extractLsb' 2 6 ≠ 0 ∨ (es.extractLsb' 11 5).toNat ≠ t.ctl.stack.length
    if refuse then s0.doubleTrap tid
    else
      let slot (b : Nat) (o : Nat) : Option (BitVec 24) :=
        if es.getLsbD b then some ((s0.frameWord t o).extractLsb' 0 24) else none
      let drift := (List.range 16).map (fun e =>
        vtab t.nlane (fun l => s0.frameWord t (0x2000 + e * 0x2000 + l * 8)))
      s0.putTeam { t with
        wake := none, did := 0,
        regs := { t.regs with drift, p := (List.range 7).map (fun i => s0.frameMask t (0x22140 + 128 * i)) },
        ctl := { t.ctl with
          cur := s0.frameMask t 0x22040 &&& t.ctl.live, brk := s0.frameMask t 0x220C0 &&& t.ctl.live,
          hint := { imm := slot 8 0x22010, immh := slot 9 0x22018, mod := slot 10 0x22020 },
          priv, inHandler := false, pc := epc } }

end Sys2Proof.Machine
end

