-- ==== Sys2Proof/Machine/Operands.lean ====
section
/-! DEFINITION. Operand forms, hints, the guard, and the order of checks: one prologue that every instruction with
operands runs through (R34 to R39, R42 to R49, R54). -/

namespace Sys2Proof.Machine

/-! ### The guard (R37, R38) -/

/-- Lanes whose guard is true, whatever is enabled. -/
def Team.cond (t : Team) : Guard → Mask
  | .always => BitVec.allOnes 1024
  | .when p => t.p p.val
  | .unless p => ~~~ (t.p p.val)

/-- Enabled lanes: live and set in the current image. -/
def Team.enabled (t : Team) : Mask := t.ctl.cur &&& t.ctl.live

/-- A predicate as a source (R35). -/
def Team.psrc (t : Team) : PSrc → Mask
  | .p n => t.p n.val
  | .tt => BitVec.allOnes 1024

/-! ### Hints (R43, R44, R45) -/

/-- The fields of a mod payload. -/
def modScope (m : BitVec 24) : Nat := (m.extractLsb' 21 3).toNat
def modWidth (m : BitVec 24) : Nat := (m.extractLsb' 19 2).toNat
def modOrder (m : BitVec 24) : Nat := (m.extractLsb' 17 2).toNat
def modRound (m : BitVec 24) : Nat := (m.extractLsb' 15 2).toNat
def modPlane (m : BitVec 24) : Nat := (m.extractLsb' 12 3).toNat

/-- Which mod payloads a consumer takes (R45). -/
inductive ModUse where
  | none
  | round
  | width
  | ldst
  | atomic
  | scope
  | plane
deriving DecidableEq, Repr

/-- A payload that a handler's return or a resume has put into the slot may have its low bits set, which R44 gives as zero. -/
def ModUse.ok (u : ModUse) (m : BitVec 24) : Bool :=
  let s := modScope m
  let w := modWidth m
  let o := modOrder m
  let r := modRound m
  let p := modPlane m
  m.extractLsb' 0 12 == 0 && match u with
  | .none => false
  | .round => s == 0 && w == 0 && o == 0 && p == 0
  | .width => s == 0 && o == 0 && r == 0 && p == 0
  | .ldst => w == 0 && r == 0 && p == 0 && o != 3 && (if o == 1 then decide (s ≤ 4) else s == 0)
  | .atomic => o == 0 && r == 0 && p == 0 && decide (w ≤ 1) && decide (s ≤ 4)
  | .scope => w == 0 && o == 0 && r == 0 && p == 0 && decide (s ≤ 4)
  | .plane => s == 0 && w == 0 && o == 0 && r == 0 && decide (p ≤ 2)

/-- A consumer accepts every filled slot (R43, R45, R46). -/
def hintOk (imm immh : Bool) (u : ModUse) (h : Hint) : Bool :=
  (imm || h.imm.isNone) && (immh || h.immh.isNone) && (match h.mod with | some m => u.ok m | none => true)

/-- The effective value of a field: signed, extended by imm, or by immh and imm (R43). -/
def extField {b : Nat} (h : Hint) (w : BitVec b) : Int :=
  match h.imm, h.immh with
  | some i, some j => (j ++ i ++ w).toInt
  | some i, none => (i ++ w).toInt
  | none, some j => Config.immhAlone j w.toInt
  | none, none => w.toInt

/-- The 5-bit offset of `barw` and `ptest`: unsigned alone, signed when imm extends it (R40, R43). -/
def extOff5 (h : Hint) (w : BitVec 5) : Int :=
  match h.imm with
  | some i => (i ++ w).toInt
  | none => w.toNat

/-- The rounding attribute in force (R44, R122). -/
def Hint.round (h : Hint) : RMode :=
  match h.mod with
  | none => .rn
  | some m => if modRound m = 0 then .rn else if modRound m = 1 then .rz else if modRound m = 2 then .ru else .rd

/-! ### The shape of an instruction's operands -/

/-- Which lanes are active: those of the guard, or every enabled lane (R38). -/
inductive LaneSel where
  | guard (g : Guard)
  | enabled
deriving DecidableEq, Repr

/-- What the prologue needs to know of an instruction. -/
structure Shape where
  /-- opcode byte -/
  op : Nat
  sel : LaneSel
  /-- sources in the order they are read (R36), the destination's old value last where it is an operand -/
  srcs : List Src := []
  dst : Option Dst := none
  /-- drift entries pushed: 2 for `twosum` and `twoprod` -/
  pushes : Nat := 1
  /-- the operand at bits [13:8], which an inactive lane pushes; none: the old d0 (R54) -/
  pass : Option Src := none
  /-- argument block: first register, count (R47) -/
  blk : Option (Fin 32 × Nat) := none
  /-- further k registers used -/
  regs : List Nat := []
  /-- a queue set up anew (R69) -/
  reset : Option (Fin 8) := none
  imm : Bool := false
  immh : Bool := false
  mod : ModUse := .none
  /-- level needed (R20) -/
  priv : Nat := 0
  /-- the checks of WellFormed -/
  wf : Bool := true
deriving DecidableEq, Repr

/-- What a meaning works with. -/
structure Ctx where
  /-- the team as it stood -/
  t : Team
  sh : Shape
  act : Mask
  vals : List LaneVec
  pass : LaneVec
  hint : Hint
  wake : Option Wake
deriving DecidableEq, Repr

/-- Source number i. -/
def Ctx.val (c : Ctx) (i : Nat) : LaneVec := c.vals.getD i []
/-- Active lanes, ascending. -/
def Ctx.lanes (c : Ctx) : List Nat := Mask.lanes c.act c.t.nlane
/-- The lowest active lane. -/
def Ctx.first (c : Ctx) : Nat := Mask.first c.act c.t.nlane
/-- Argument i of the block in a lane (R47). -/
def Ctx.arg (c : Ctx) (i l : Nat) : Word :=
  match c.sh.blk with
  | some (kb, _) => lane (c.t.k (kb.val + i)) l
  | none => 0
/-- First-lane argument i (R48). -/
def Ctx.arg1 (c : Ctx) (i : Nat) : Word := c.arg i c.first

/-! ### Register and queue checks (R34, R36, R47) -/

def kOfSrc : Src → Option Nat
  | .k n => some n.val
  | _ => none
def kOfDst : Dst → Option Nat
  | .k n => some n.val
  | _ => none

def Shape.kUsed (sh : Shape) : List Nat :=
  sh.srcs.filterMap kOfSrc ++ (match sh.dst with | some d => (kOfDst d).toList | none => []) ++ sh.regs ++
  (match sh.blk with | some (kb, n) => (List.range n).map (fun i => kb.val + i) | none => [])

def Shape.boundOk (sh : Shape) (t : Team) : Bool := sh.kUsed.all (fun n => decide (n < t.hdr.kregs))

def Shape.pops (sh : Shape) (q : Nat) : Nat :=
  (sh.srcs.filter (fun x => match x with | .q n => n.val == q | _ => false)).length

/-- The long instruction of this opcode that is part-way through: its operands have been read and popped, and its entries
made (R117, R119). -/
def Team.longOf (t : Team) (op : Nat) : Option LongOp := t.long.filter (fun g => g.op == op)
def Team.partWay (t : Team) (op : Nat) : Bool := (t.longOf op).isSome

/-- No queue gives more than it holds. -/
def Shape.emptyOk (sh : Shape) (t : Team) : Bool :=
  t.partWay sh.op || (List.range 8).all (fun q => decide (sh.pops q ≤ (t.queue q).items.length))

/-- A queue destination has room after the word's own pops. -/
def Shape.fullOk (sh : Shape) (t : Team) : Bool :=
  match sh.dst with
  | some (.q n) => t.partWay sh.op || decide ((t.queue n.val).items.length - sh.pops n.val < (t.queue n.val).depth)
  | _ => true

/-! ### Operands still outstanding -/

/-- The word reads or writes what an outstanding access will deliver; its passthrough operand is read too (R54). -/
def Shape.conflicts (sh : Shape) (p : Pend) (oldD0 : Bool) : Bool :=
  (p.dst.isSome && ((sh.srcs ++ sh.pass.toList).any (fun x => match x with | .d n => n.val == p.age | _ => false) ||
    (oldD0 && p.age == 0))) ||
  (match p.dst with
   | some (.k n) =>
     sh.kUsed.any (fun i => i == n.val || (match p.op with | .load 16 _ => i == n.val + 1 | _ => false))
   | some (.q n) =>
     sh.srcs.any (fun x => match x with | .q m => m == n | _ => false) || sh.dst == some (.q n) || sh.reset == some n
   | some (.s n) =>
     sh.srcs.any (fun x => match x with | .s m => m == n | _ => false) || sh.dst == some (.s n)
   | _ => false)

/-- Makes every outstanding access that the word depends on complete. -/
def State.settleOperands (s : State) (t : Team) (sh : Shape) (oldD0 : Bool) : State :=
  if t.pend.isEmpty then s
  else s.forceAll t.coreKey ((t.pend.filter (fun p => sh.conflicts p oldD0)).map (fun p => Item.pend t.id p.id))

/-! ### Traps of an instruction -/

/-- A trap at the team's instruction, marking the lanes given. -/
def State.trapAt (s : State) (t : Team) (op cls code : Nat) (mask : Mask) (list : List (Nat × Word) := [])
    (pidx aux : Nat := 0) : State :=
  s.takeTrap t.id { cls, code, op, mask, list, pidx, aux }

/-- A trap that marks every active lane. -/
def State.trapAll (s : State) (c : Ctx) (cls code : Nat) : State := s.trapAt c.t c.sh.op cls code c.act

/-- A trap that marks the lanes of a list, with their values. -/
def State.trapList (s : State) (c : Ctx) (cls code : Nat) (ls : List (Nat × Word)) : State :=
  s.trapAt c.t c.sh.op cls code (ls.foldl (fun m x => m ||| (1 <<< x.1 : Mask)) 0) ls

/-! ### The prologue -/

/-- Where the prologue leads: the word is over, or its own effect follows. -/
inductive Pro where
  | ended (s : State)
  | go (s : State) (c : Ctx)
deriving DecidableEq, Repr

def Shape.active (sh : Shape) (t : Team) : Mask :=
  match sh.sel with
  | .guard g => t.enabled &&& t.cond g
  | .enabled => t.enabled

/-- The passthrough vector (R54). -/
def passOf (t : Team) (sh : Shape) (vals : List LaneVec) : LaneVec :=
  match sh.pass with
  | none => t.d 0
  | some p =>
    match sh.srcs.zip vals |>.find? (fun x => x.1 == p) with
    | some (_, v) => v
    | none => (t.readSrc p).1

/-- Pushes a vector the number of times the shape says, the destination once. -/
def Team.pushAll (t : Team) (sh : Shape) (act : Mask) (v pass : LaneVec) : Team :=
  match sh.dst with
  | none => t
  | some d =>
    let t1 := t.writePush d act v pass
    if sh.pushes = 2 then t1.pushDrift (blend act t1.nlane v pass) else t1

/-- A legal word with no active lane: the checks of step 4 with no lane marked, then pops, passthrough pushes, and
an empty hint (R39). -/
def State.idle (s : State) (t : Team) (sh : Shape) : State :=
  if !sh.boundOk t then s.trapAt t sh.op 1 0x01 0
  else if !sh.emptyOk t then s.trapAt t sh.op 1 0x02 0
  else if !sh.fullOk t then s.trapAt t sh.op 1 0x03 0
  else
    let (vals, t1) := t.readSrcs sh.srcs
    let pass := passOf t sh vals
    s.putTeam ((t1.pushAll sh 0 pass pass).next)

/-- The team's transaction was aborted by what the instruction forced first: the team has left for its handler, and the
instruction does not act (R237). -/
def State.txGone (s : State) (t : Team) : Bool := t.tx.live && !(s.team? t.id).any (fun u => u.tx.live)

/-- Steps 1 to 4 of R49 for the issuing team, and the reading of operands. A word that is illegal in itself or needs a
higher level is no operation where no lane is active, and leaves the hint (R39). -/
def State.prologue (s : State) (sh : Shape) : Pro :=
  match s.curTeam? with
  | none => .ended s
  | some t0 =>
    let act := sh.active t0
    if act = 0 && (!sh.wf || decide (t0.ctl.priv < sh.priv)) then
      .ended (s.putTeam { t0 with ctl := { t0.ctl with pc := t0.ctl.pc + 4 } })
    else
      let s1 := s.settleOperands t0 sh (sh.dst.isSome && sh.pass.isNone)
      match s1.curTeam? with
      | none => .ended s1
      | some t =>
        if s1.txGone t0 then .ended s1
        else if act = 0 then .ended (s1.idle t sh)
        else if !sh.wf then .ended (s1.trapAt t sh.op 0 0x01 act)
        else if t.ctl.priv < sh.priv then .ended (s1.trapAt t sh.op 0 0x02 act)
        else if !hintOk sh.imm sh.immh sh.mod t.ctl.hint then .ended (s1.trapAt t sh.op 0 0x03 act)
        else if !sh.boundOk t then .ended (s1.trapAt t sh.op 1 0x01 act)
        else if !sh.emptyOk t then .ended (s1.trapAt t sh.op 1 0x02 act)
        else if !sh.fullOk t then .ended (s1.trapAt t sh.op 1 0x03 act)
        else
          match t.wake with
          | some (.trap cls code aux none) => .ended (s1.trapAt t sh.op cls code act [] 0 aux)
          | some (.trap cls code aux (some (l, a))) => .ended (s1.trapAt t sh.op cls code (1 <<< l : Mask) [(l, a)] 0 aux)
          | w =>
            let (vals, _) := t.readSrcs sh.srcs
            .go s1 { t, sh, act, vals, pass := passOf t sh vals, hint := t.ctl.hint, wake := w }

/-- Completes an instruction: operands pop, f writes the results, the pc moves on. -/
def State.commit (s : State) (c : Ctx) (f : Team → Team) : State :=
  match s.team? c.t.id with
  | none => s
  | some t => s.putTeam (f (t.readSrcs c.sh.srcs).2).next

/-- Completes with one value per lane for the destination. -/
def State.push (s : State) (c : Ctx) (v : LaneVec) : State :=
  s.commit c (fun t => t.pushAll c.sh c.act v c.pass)

/-- Parks the team at this instruction. -/
def State.parkAt (s : State) (c : Ctx) (why : Park) : State :=
  match s.team? c.t.id with
  | none => s
  | some t =>
    match t.status with
    | .running => s.park t why
    | _ => s

/-- The instruction waits at its place: nothing that a program sees changes, and it is tried again in a later slot. It is no
park (R150). -/
def State.stall (s : State) : State :=
  match s.curTeam? with
  | some t => s.putTeam { t with held := true }
  | none => s

/-- Parks the team at this instruction as part of one stall, whose time runs from its first attempt (R242, R270,
R322). -/
def State.stallAt (s : State) (c : Ctx) (why : Park) : State :=
  match s.team? c.t.id with
  | none => s
  | some t =>
    match t.status with
    | .running => s.putTeam { t with status := .parked why (t.stalled.getD s.now), stalled := some (t.stalled.getD s.now) }
    | _ => s

/-- Runs an instruction: the prologue, then its effect. -/
def State.run (s : State) (sh : Shape) (f : State → Ctx → State) : Host.Outcome State Fault Refusal :=
  match s.prologue sh with
  | .ended s1 => .next s1
  | .go s1 c => .next (f s1 c)

/-- An instruction that computes one value per lane from its operands' values in that lane. -/
def State.runLanes (s : State) (sh : Shape) (f : Ctx → Nat → Word) : Host.Outcome State Fault Refusal :=
  s.run sh (fun s c => s.push c (vtab c.t.nlane (f c)))

/-! ### Voting (R48) -/

/-- The common value of the active lanes, or the lanes that differ from the lowest one. -/
def voteOf (c : Ctx) (v : LaneVec) : List (Nat × Word) :=
  let v0 := lane v c.first
  (c.lanes.filter (fun l => lane v l != v0)).map (fun l => (l, lane v l))

/-- Argument i of the block as a lane vector. -/
def Ctx.argVec (c : Ctx) (i : Nat) : LaneVec := vtab c.t.nlane (c.arg i)

/-- Votes a list of block arguments; the first that differs traps "argument divergence" (operand 0x08). -/
def Ctx.diverges (c : Ctx) (is : List Nat) : Option (List (Nat × Word)) :=
  is.findSome? (fun i =>
    let d := voteOf c (c.argVec i)
    if d.isEmpty then none else some d)

/-! ### Transactions: disallowed instructions (R236, R249) -/

/-- An instruction that a transaction disallows aborts it and does not act. -/
def State.runOutsideTx (s : State) (sh : Shape) (f : State → Ctx → State) : Host.Outcome State Fault Refusal :=
  s.run sh (fun s c => if c.t.tx.live then s.txAbort c.t.id 0x03 else f s c)

end Sys2Proof.Machine
end

