-- ==== Sys2Proof/Machine/Flags.lean ====
section
/-! DEFINITION. Predicates, the team's flags (R35, R109 to R114): comparisons, functions of predicates, votes, and
the writing of a predicate in the active lanes. -/

namespace Sys2Proof.Machine

/-- Writes predicate p in the active lanes; inactive lanes keep it (R109). -/
def Team.writeP (t : Team) (p : Nat) (act v : Mask) : Team := t.setP p ((t.p p &&& ~~~act) ||| (v &&& act))

/-- An instruction that writes one predicate per lane and pushes nothing. -/
def State.runPred (s : State) (sh : Shape) (p : Fin 7) (f : Ctx → Nat → Bool) : Host.Outcome State Fault Refusal :=
  s.run sh (fun s c => s.commit c (fun t => t.writeP p.val c.act (Mask.ofFn c.t.nlane (f c))))

/-- Integer comparison at a width (R109). -/
def cmpInt (signed : Bool) (w : IWidth) (c : Cond) (a b : Word) : Bool :=
  let x : Int := match w, signed with
    | .w64, true => a.toInt
    | .w64, false => a.toNat
    | .w32, true => (a.extractLsb' 0 32).toInt
    | .w32, false => (a.extractLsb' 0 32).toNat
  let y : Int := match w, signed with
    | .w64, true => b.toInt
    | .w64, false => b.toNat
    | .w32, true => (b.extractLsb' 0 32).toInt
    | .w32, false => (b.extractLsb' 0 32).toNat
  match c with
  | .eq => decide (x = y)
  | .ne => decide (x ≠ y)
  | .lt => decide (x < y)
  | .le => decide (x ≤ y)
  | .gt => decide (y < x)
  | .ge => decide (y ≤ x)

/-- Comparison of binary32 values (R110). -/
def cmpFloat (c : FCond) (a b : Word) : Bool :=
  let x := f32 a
  let y := f32 b
  let un := x == .nan || y == .nan
  let o := FV.cmp x y
  match c with
  | .eq => !un && o == 0
  | .ne => un || o != 0
  | .lt => !un && decide (o < 0)
  | .le => !un && decide (o ≤ 0)
  | .gt => !un && decide (0 < o)
  | .ge => !un && decide (0 ≤ o)
  | .un => un
  | .or => !un

/-- The eight functions of `pset` (R113). -/
def psetFn (f : PFn) (a b : Bool) : Bool :=
  match f with
  | .and => a && b
  | .or => a || b
  | .xor => a != b
  | .andn => a && !b
  | .nand => !(a && b)
  | .nor => !(a || b)
  | .xnor => a == b
  | .orn => a || !b

/-- One decision over the active lanes (R113). -/
def voteFn (f : VoteFn) (act v : Mask) : Bool :=
  match f with
  | .some => v &&& act != 0
  | .every => v &&& act == act
  | .same => v &&& act == act || v &&& act == 0

/-- The word that `ballot` pushes in pass w (R114). -/
def ballotWord (act v : Mask) (w : Nat) : Word :=
  let votes : BitVec 32 := (v &&& act).extractLsb' (32 * w) 32
  let count := ((List.range 32).filter (fun i => votes.getLsbD i)).length
  BitVec.ofNat 64 (w * 2 ^ 40 + count * 2 ^ 32 + votes.toNat)

end Sys2Proof.Machine
end

