-- ==== Sys2Proof/Machine/Integer.lean ====
section
/-! DEFINITION. Row 0x1: integer arithmetic (R94 to R98). -/

namespace Sys2Proof.Machine

/-- Signed and unsigned views of an operand at a width (R94). -/
def sval (w : IWidth) (v : Word) : Int := match w with | .w64 => v.toInt | .w32 => (v.extractLsb' 0 32).toInt
def uval (w : IWidth) (v : Word) : Nat := match w with | .w64 => v.toNat | .w32 => (v.extractLsb' 0 32).toNat

/-- Result extensions of R94: sign-extended, and zero-extended for the unsigned forms. -/
def sres (w : IWidth) (r : Int) : Word :=
  match w with | .w64 => BitVec.ofInt 64 r | .w32 => (BitVec.ofInt 32 r).signExtend 64
def ures (w : IWidth) (r : Int) : Word :=
  match w with | .w64 => BitVec.ofInt 64 r | .w32 => (BitVec.ofInt 32 r).setWidth 64

def bitsOf (w : IWidth) : Nat := match w with | .w64 => 64 | .w32 => 32

/-- Clamped to the signed range of the width (R96). -/
def clampS (w : IWidth) (r : Int) : Int :=
  let hi : Int := 2 ^ (bitsOf w - 1) - 1
  let lo : Int := -(2 ^ (bitsOf w - 1))
  if r < lo then lo else if hi < r then hi else r

/-- Division corners of R98: a divisor of 0 gives all ones and the dividend. Truncation of the minimum by −1 wraps
to the minimum at the width. -/
def quotS (a b : Int) : Int := if b = 0 then -1 else a.tdiv b
def remS (a b : Int) : Int := if b = 0 then a else a.tmod b
def quotU (w : IWidth) (a b : Nat) : Int := if b = 0 then 2 ^ bitsOf w - 1 else (a / b : Nat)
def remU (a b : Nat) : Int := if b = 0 then a else (a % b : Nat)

/-- The shape of rows 0x1 and 0x2 with two sources. -/
def shapeDAB (op : Nat) (g : Guard) (d : Dst) (a b : Src) : Shape :=
  { op, sel := .guard g, srcs := [a, b], dst := some d, pass := some a }

/-- The destination's old value as an operand (R36, R97): d0 when the destination is the drift alone. -/
def oldOf : Dst → Src
  | .drift => .d 0
  | .k n => .k n
  | .q n => .q n
  | .s n => .s n

/-- An instruction of two sources whose result in a lane is f of their values there. -/
def State.runBin (s : State) (op : Nat) (g : Guard) (d : Dst) (a b : Src) (f : Word → Word → Word) :
    Host.Outcome State Fault Refusal :=
  s.runLanes (shapeDAB op g d a b) (fun c l => f (lane (c.val 0) l) (lane (c.val 1) l))

/-- The lane result of `add`: a + b, wrapping (R96). -/
def addLane (f : IWidth) (x y : Word) : Word := sres f (sval f x + sval f y)
/-- a + b, wrapping (R96). -/
def execAdd (g : Guard) (d : Dst) (a b : Src) (f : IWidth) (s : State) : Host.Outcome State Fault Refusal :=
  s.runBin 0x10 g d a b (addLane f)

/-- The lane result of `sub`: a − b, wrapping (R96). -/
def subLane (f : IWidth) (x y : Word) : Word := sres f (sval f x - sval f y)
/-- a − b, wrapping (R96). -/
def execSub (g : Guard) (d : Dst) (a b : Src) (f : IWidth) (s : State) : Host.Outcome State Fault Refusal :=
  s.runBin 0x11 g d a b (subLane f)

/-- The lane result of `mul`: low width bits of the product (R96). -/
def mulLane (f : IWidth) (x y : Word) : Word := sres f (sval f x * sval f y)
/-- low width bits of the product (R96). -/
def execMul (g : Guard) (d : Dst) (a b : Src) (f : IWidth) (s : State) : Host.Outcome State Fault Refusal :=
  s.runBin 0x12 g d a b (mulLane f)

/-- The lane result of `mulh`: high width bits of the signed product (R96). -/
def mulhLane (f : IWidth) (x y : Word) : Word := sres f ((sval f x * sval f y).fdiv (2 ^ bitsOf f))
/-- high width bits of the signed product (R96). -/
def execMulh (g : Guard) (d : Dst) (a b : Src) (f : IWidth) (s : State) : Host.Outcome State Fault Refusal :=
  s.runBin 0x13 g d a b (mulhLane f)

/-- The lane result of `mulhn`: high width bits of the unsigned product (R96). -/
def mulhnLane (f : IWidth) (x y : Word) : Word := ures f (((uval f x * uval f y / 2 ^ bitsOf f : Nat) : Int))
/-- high width bits of the unsigned product (R96). -/
def execMulhn (g : Guard) (d : Dst) (a b : Src) (f : IWidth) (s : State) : Host.Outcome State Fault Refusal :=
  s.runBin 0x14 g d a b (mulhnLane f)

/-- The lane result of `mad` (R97). -/
def madLane (f : IWidth) (x y z : Word) : Word := sres f (sval f x * sval f y + sval f z)
/-- a × b + c, the addend c being the destination's old value (R97). -/
def execMad (g : Guard) (d : Dst) (a b : Src) (f : IWidth) (s : State) : Host.Outcome State Fault Refusal :=
  s.runLanes { shapeDAB 0x15 g d a b with srcs := [a, b, oldOf d] }
    (fun c l => madLane f (lane (c.val 0) l) (lane (c.val 1) l) (lane (c.val 2) l))

/-- The lane result of `div`: signed quotient (R98). -/
def divLane (f : IWidth) (x y : Word) : Word := sres f (quotS (sval f x) (sval f y))
/-- signed quotient (R98). -/
def execDiv (g : Guard) (d : Dst) (a b : Src) (f : IWidth) (s : State) : Host.Outcome State Fault Refusal :=
  s.runBin 0x16 g d a b (divLane f)

/-- The lane result of `divn`: unsigned quotient (R98). -/
def divnLane (f : IWidth) (x y : Word) : Word := ures f (quotU f (uval f x) (uval f y))
/-- unsigned quotient (R98). -/
def execDivn (g : Guard) (d : Dst) (a b : Src) (f : IWidth) (s : State) : Host.Outcome State Fault Refusal :=
  s.runBin 0x17 g d a b (divnLane f)

/-- The lane result of `rem`: signed remainder (R98). -/
def remLane (f : IWidth) (x y : Word) : Word := sres f (remS (sval f x) (sval f y))
/-- signed remainder (R98). -/
def execRem (g : Guard) (d : Dst) (a b : Src) (f : IWidth) (s : State) : Host.Outcome State Fault Refusal :=
  s.runBin 0x18 g d a b (remLane f)

/-- The lane result of `remn`: unsigned remainder (R98). -/
def remnLane (f : IWidth) (x y : Word) : Word := ures f (remU (uval f x) (uval f y))
/-- unsigned remainder (R98). -/
def execRemn (g : Guard) (d : Dst) (a b : Src) (f : IWidth) (s : State) : Host.Outcome State Fault Refusal :=
  s.runBin 0x19 g d a b (remnLane f)

/-- The lane result of `min`: smaller, signed (R96). -/
def minLane (f : IWidth) (x y : Word) : Word := sres f (min (sval f x) (sval f y))
/-- smaller, signed (R96). -/
def execMin (g : Guard) (d : Dst) (a b : Src) (f : IWidth) (s : State) : Host.Outcome State Fault Refusal :=
  s.runBin 0x1A g d a b (minLane f)

/-- The lane result of `max`: larger, signed (R96). -/
def maxLane (f : IWidth) (x y : Word) : Word := sres f (max (sval f x) (sval f y))
/-- larger, signed (R96). -/
def execMax (g : Guard) (d : Dst) (a b : Src) (f : IWidth) (s : State) : Host.Outcome State Fault Refusal :=
  s.runBin 0x1B g d a b (maxLane f)

/-- The lane result of `minn`: smaller, unsigned (R96). -/
def minnLane (f : IWidth) (x y : Word) : Word := ures f (((min (uval f x) (uval f y) : Nat) : Int))
/-- smaller, unsigned (R96). -/
def execMinn (g : Guard) (d : Dst) (a b : Src) (f : IWidth) (s : State) : Host.Outcome State Fault Refusal :=
  s.runBin 0x1C g d a b (minnLane f)

/-- The lane result of `maxn`: larger, unsigned (R96). -/
def maxnLane (f : IWidth) (x y : Word) : Word := ures f (((max (uval f x) (uval f y) : Nat) : Int))
/-- larger, unsigned (R96). -/
def execMaxn (g : Guard) (d : Dst) (a b : Src) (f : IWidth) (s : State) : Host.Outcome State Fault Refusal :=
  s.runBin 0x1D g d a b (maxnLane f)

/-- The lane result of `adds`: sum clamped to the signed range (R96). -/
def addsLane (f : IWidth) (x y : Word) : Word := sres f (clampS f (sval f x + sval f y))
/-- sum clamped to the signed range (R96). -/
def execAdds (g : Guard) (d : Dst) (a b : Src) (f : IWidth) (s : State) : Host.Outcome State Fault Refusal :=
  s.runBin 0x1E g d a b (addsLane f)

/-- The lane result of `subs`: difference clamped to the signed range (R96). -/
def subsLane (f : IWidth) (x y : Word) : Word := sres f (clampS f (sval f x - sval f y))
/-- difference clamped to the signed range (R96). -/
def execSubs (g : Guard) (d : Dst) (a b : Src) (f : IWidth) (s : State) : Host.Outcome State Fault Refusal :=
  s.runBin 0x1F g d a b (subsLane f)

end Sys2Proof.Machine
end

