-- ==== Sys2Proof/Machine/Logic.lean ====
section
/-! DEFINITION. Row 0x2: logic and bits (R99 to R103). -/

namespace Sys2Proof.Machine

/-- Bits of an operand at a width, as a number. -/
def shiftCount (f : IWidth) (v : Word) : Nat := match f with | .w64 => v.toNat % 64 | .w32 => v.toNat % 32

/-- Leading zeros of the low w bits, from bit w − 1 down. -/
def leadZ (v : Nat) : Nat → Nat
  | 0 => 0
  | w + 1 => if v.testBit w then 0 else 1 + leadZ v w
/-- Trailing zeros, from bit i up, w bits to go. -/
def trailZ (v i : Nat) : Nat → Nat
  | 0 => 0
  | w + 1 => if v.testBit i then 0 else 1 + trailZ v (i + 1) w
def popCount (v : Nat) (w : Nat) : Nat := ((List.range w).filter (fun i => v.testBit i)).length
def bitRev (v : Nat) (w : Nat) : Nat :=
  (List.range w).foldl (fun r i => if v.testBit i then r + 2 ^ (w - 1 - i) else r) 0

/-- The field of a control word: position and length (R101). -/
def bitField (f : IWidth) (c : Word) : Nat :=
  let pos := c.toNat % 64
  let len := min (c.toNat / 256 % 128) 64
  (2 ^ len - 1) * 2 ^ pos % 2 ^ bitsOf f

/-- The lane result of `and`: a AND b (R99). -/
def andLane (f : IWidth) (x y : Word) : Word := sres f ((uval f x &&& uval f y : Nat))
/-- a AND b (R99). -/
def execAnd (g : Guard) (d : Dst) (a b : Src) (f : IWidth) (s : State) : Host.Outcome State Fault Refusal :=
  s.runBin 0x20 g d a b (andLane f)

/-- The lane result of `or`: a OR b (R99). -/
def orLane (f : IWidth) (x y : Word) : Word := sres f ((uval f x ||| uval f y : Nat))
/-- a OR b (R99). -/
def execOr (g : Guard) (d : Dst) (a b : Src) (f : IWidth) (s : State) : Host.Outcome State Fault Refusal :=
  s.runBin 0x21 g d a b (orLane f)

/-- The lane result of `xor`: a XOR b (R99). -/
def xorLane (f : IWidth) (x y : Word) : Word := sres f ((uval f x ^^^ uval f y : Nat))
/-- a XOR b (R99). -/
def execXor (g : Guard) (d : Dst) (a b : Src) (f : IWidth) (s : State) : Host.Outcome State Fault Refusal :=
  s.runBin 0x22 g d a b (xorLane f)

/-- The lane result of `andn`: a AND NOT b (R99). -/
def andnLane (f : IWidth) (x y : Word) : Word := sres f ((uval f (x &&& ~~~y) : Nat))
/-- a AND NOT b (R99). -/
def execAndn (g : Guard) (d : Dst) (a b : Src) (f : IWidth) (s : State) : Host.Outcome State Fault Refusal :=
  s.runBin 0x23 g d a b (andnLane f)

/-- The lane result of `shl`: shift left (R99). -/
def shlLane (f : IWidth) (x y : Word) : Word := sres f ((uval f x * 2 ^ shiftCount f y : Nat))
/-- shift left (R99). -/
def execShl (g : Guard) (d : Dst) (a b : Src) (f : IWidth) (s : State) : Host.Outcome State Fault Refusal :=
  s.runBin 0x24 g d a b (shlLane f)

/-- The lane result of `shr`: shift right, zeros enter (R99). -/
def shrLane (f : IWidth) (x y : Word) : Word := sres f ((uval f x / 2 ^ shiftCount f y : Nat))
/-- shift right, zeros enter (R99). -/
def execShr (g : Guard) (d : Dst) (a b : Src) (f : IWidth) (s : State) : Host.Outcome State Fault Refusal :=
  s.runBin 0x25 g d a b (shrLane f)

/-- The lane result of `sar`: shift right, sign copies enter (R99). -/
def sarLane (f : IWidth) (x y : Word) : Word := sres f ((sval f x).fdiv (2 ^ shiftCount f y))
/-- shift right, sign copies enter (R99). -/
def execSar (g : Guard) (d : Dst) (a b : Src) (f : IWidth) (s : State) : Host.Outcome State Fault Refusal :=
  s.runBin 0x26 g d a b (sarLane f)

/-- The lane result of `rol`: rotate left within the width (R99). -/
def rolLane (f : IWidth) (x y : Word) : Word :=
  sres f ((uval f x * 2 ^ shiftCount f y + uval f x / 2 ^ (bitsOf f - shiftCount f y) : Nat))
/-- rotate left within the width (R99). -/
def execRol (g : Guard) (d : Dst) (a b : Src) (f : IWidth) (s : State) : Host.Outcome State Fault Refusal :=
  s.runBin 0x27 g d a b (rolLane f)

/-- The shape of one source. -/
def shapeDA (op : Nat) (g : Guard) (d : Dst) (a : Src) : Shape :=
  { op, sel := .guard g, srcs := [a], dst := some d, pass := some a }

/-- An instruction of one source whose result in a lane is f of its value there. -/
def State.runUn (s : State) (op : Nat) (g : Guard) (d : Dst) (a : Src) (f : Word → Word) :
    Host.Outcome State Fault Refusal :=
  s.runLanes (shapeDA op g d a) (fun c l => f (lane (c.val 0) l))

/-- The lane result of `clz`: leading zero bits (R100). -/
def clzLane (f : IWidth) (x : Word) : Word := sres f (leadZ (uval f x) (bitsOf f))
/-- leading zero bits (R100). -/
def execClz (g : Guard) (d : Dst) (a : Src) (f : IWidth) (s : State) : Host.Outcome State Fault Refusal :=
  s.runUn 0x28 g d a (clzLane f)

/-- The lane result of `ctz`: trailing zero bits (R100). -/
def ctzLane (f : IWidth) (x : Word) : Word := sres f (trailZ (uval f x) 0 (bitsOf f))
/-- trailing zero bits (R100). -/
def execCtz (g : Guard) (d : Dst) (a : Src) (f : IWidth) (s : State) : Host.Outcome State Fault Refusal :=
  s.runUn 0x29 g d a (ctzLane f)

/-- The lane result of `popc`: set bits (R100). -/
def popcLane (f : IWidth) (x : Word) : Word := sres f (popCount (uval f x) (bitsOf f))
/-- set bits (R100). -/
def execPopc (g : Guard) (d : Dst) (a : Src) (f : IWidth) (s : State) : Host.Outcome State Fault Refusal :=
  s.runUn 0x2A g d a (popcLane f)

/-- The lane result of `brev`: bits reversed within the width (R100). -/
def brevLane (f : IWidth) (x : Word) : Word := sres f (bitRev (uval f x) (bitsOf f))
/-- bits reversed within the width (R100). -/
def execBrev (g : Guard) (d : Dst) (a : Src) (f : IWidth) (s : State) : Host.Outcome State Fault Refusal :=
  s.runUn 0x2B g d a (brevLane f)

/-- The lane result of `bfx`: the field of a that control word c names (R101). -/
def bfxLane (f : IWidth) (x c : Word) : Word := sres f ((uval f x &&& bitField f c) / 2 ^ (c.toNat % 64) : Nat)
/-- A bit field of a, its control word in b (R101). -/
def execBfx (g : Guard) (d : Dst) (a b : Src) (f : IWidth) (s : State) : Host.Outcome State Fault Refusal :=
  s.runBin 0x2C g d a b (bfxLane f)

/-- The lane result of `bfi`: b put into the field of a that control word c names (R101). -/
def bfiLane (f : IWidth) (x y c : Word) : Word :=
  let fl := bitField f c
  sres f ((uval f x &&& (2 ^ 64 - 1 - fl)) ||| (y.toNat * 2 ^ (c.toNat % 64) &&& fl) : Nat)
/-- b inserted into a, the control word in the old d0 (R101). -/
def execBfi (g : Guard) (d : Dst) (a b : Src) (f : IWidth) (s : State) : Host.Outcome State Fault Refusal :=
  s.runLanes { shapeDAB 0x2D g d a b with srcs := [a, b, .d 0] }
    (fun c l => bfiLane f (lane (c.val 0) l) (lane (c.val 1) l) (lane (c.val 2) l))

/-- The lane result of `ext` (R102). -/
def extLane (sign : Bool) (f : ExtFrom) (x : Word) : Word :=
  let n := match f with | .b8 => 8 | .b16 => 16 | .b32 => 32
  if sign then signExt n (x.toNat % 2 ^ n) else BitVec.ofNat 64 (x.toNat % 2 ^ n)
/-- The low bits of a, extended to 64 bits (R102). -/
def execExt (g : Guard) (d : Dst) (a : Src) (sign : Bool) (f : ExtFrom) (s : State) : Host.Outcome State Fault Refusal :=
  s.runUn 0x2E g d a (extLane sign f)

/-- 0 − a (R103). -/
def execNeg (g : Guard) (d : Dst) (a : Src) (s : State) : Host.Outcome State Fault Refusal :=
  s.runUn 0x2F g d a (fun x => -x)

/-- |a|; the minimum stays itself (R103). -/
def execAbs (g : Guard) (d : Dst) (a : Src) (s : State) : Host.Outcome State Fault Refusal :=
  s.runUn 0x2F g d a (fun x => if x.msb then -x else x)

/-- NOT a (R103). -/
def execNot (g : Guard) (d : Dst) (a : Src) (s : State) : Host.Outcome State Fault Refusal :=
  s.runUn 0x2F g d a (fun x => ~~~x)

end Sys2Proof.Machine
end

