-- ==== Sys2Proof/Machine/Compare.lean ====
section
/-! DEFINITION. Row 0x3: immediates, comparisons, predicates (R104 to R114). -/

namespace Sys2Proof.Machine

/-- The sign-extended immediate, extended by imm and immh (R104). -/
def execLi (g : Guard) (d : Dst) (i : BitVec 14) (s : State) : Host.Outcome State Fault Refusal :=
  s.runLanes { op := 0x30, sel := .guard g, dst := some d, imm := true, immh := true }
    (fun c _ => BitVec.ofInt 64 (extField c.hint i))

/-- The shape of one source and an immediate that takes imm and immh. -/
def shapeImm (op : Nat) (g : Guard) (d : Dst) (a : Src) : Shape :=
  { shapeDA op g d a with imm := true, immh := true }

/-- a + v (R105). -/
def execAddi (g : Guard) (d : Dst) (a : Src) (i : BitVec 8) (s : State) : Host.Outcome State Fault Refusal :=
  s.runLanes (shapeImm 0x31 g d a) (fun c l => lane (c.val 0) l + BitVec.ofInt 64 (extField c.hint i))

/-- a AND v (R106). -/
def execAndi (g : Guard) (d : Dst) (a : Src) (i : BitVec 6) (s : State) : Host.Outcome State Fault Refusal :=
  s.runLanes (shapeImm 0x32 g d a) (fun c l => lane (c.val 0) l &&& BitVec.ofInt 64 (extField c.hint i))

/-- a OR v (R106). -/
def execOri (g : Guard) (d : Dst) (a : Src) (i : BitVec 6) (s : State) : Host.Outcome State Fault Refusal :=
  s.runLanes (shapeImm 0x32 g d a) (fun c l => lane (c.val 0) l ||| BitVec.ofInt 64 (extField c.hint i))

/-- a XOR v (R106). -/
def execXori (g : Guard) (d : Dst) (a : Src) (i : BitVec 6) (s : State) : Host.Outcome State Fault Refusal :=
  s.runLanes (shapeImm 0x32 g d a) (fun c l => lane (c.val 0) l ^^^ BitVec.ofInt 64 (extField c.hint i))

/-- The lane result of `shi` (R107). -/
def shiLane (f : ShiftOp) (n : BitVec 6) (x : Word) : Word :=
  let y := n.setWidth 64
  match f with
  | .shl => shlLane .w64 x y
  | .shr => shrLane .w64 x y
  | .sar => sarLane .w64 x y
  | .rol => rolLane .w64 x y
/-- a shifted by an immediate count (R107). -/
def execShi (g : Guard) (d : Dst) (a : Src) (f : ShiftOp) (n : BitVec 6) (s : State) : Host.Outcome State Fault Refusal :=
  s.runUn 0x33 g d a (shiLane f n)

/-- a + b × s (R108). -/
def execLea (g : Guard) (d : Dst) (a b : Src) (f : Fin 4) (s : State) : Host.Outcome State Fault Refusal :=
  s.runBin 0x34 g d a b (fun x y => x + y * BitVec.ofNat 64 (2 ^ f.val))

/-- The shape of a comparison. -/
def shapeCmp (op : Nat) (g : Guard) (a b : Src) : Shape :=
  { op, sel := .guard g, srcs := [a, b], pass := some a }

/-- Signed comparison into a predicate (R109). -/
def execCmp (g : Guard) (p : Fin 7) (k : Cond) (a b : Src) (f : IWidth) (s : State) : Host.Outcome State Fault Refusal :=
  s.runPred (shapeCmp 0x35 g a b) p (fun c l => cmpInt true f k (lane (c.val 0) l) (lane (c.val 1) l))

/-- Unsigned comparison into a predicate (R109). -/
def execCmpn (g : Guard) (p : Fin 7) (k : Cond) (a b : Src) (f : IWidth) (s : State) : Host.Outcome State Fault Refusal :=
  s.runPred (shapeCmp 0x36 g a b) p (fun c l => cmpInt false f k (lane (c.val 0) l) (lane (c.val 1) l))

/-- a where the guard is true, b elsewhere; every enabled lane is active (R112). -/
def execSel (g : Guard) (d : Dst) (a b : Src) (s : State) : Host.Outcome State Fault Refusal :=
  s.runLanes { shapeDAB 0x37 g d a b with sel := .enabled }
    (fun c l => if Mask.has (c.t.cond g) l then lane (c.val 0) l else lane (c.val 1) l)

/-- The shape of an instruction that names predicates only. -/
def shapeP (op : Nat) (g : Guard) : Shape := { op, sel := .guard g }

/-- A function of two predicates (R113). -/
def execPset (g : Guard) (p : Fin 7) (a b : PSrc) (f : PFn) (s : State) : Host.Outcome State Fault Refusal :=
  s.runPred (shapeP 0x38 g) p (fun c l => psetFn f (Mask.has (c.t.psrc a) l) (Mask.has (c.t.psrc b) l))

/-- A predicate copied or inverted (R113). -/
def execPmov (g : Guard) (p : Fin 7) (a : PSrc) (inv : Bool) (s : State) : Host.Outcome State Fault Refusal :=
  s.runPred (shapeP 0x39 g) p (fun c l => Mask.has (c.t.psrc a) l != inv)

/-- One decision for the whole team (R113). -/
def execVote (g : Guard) (p : Fin 7) (a : PSrc) (f : VoteFn) (s : State) : Host.Outcome State Fault Refusal :=
  s.runPred (shapeP 0x3A g) p (fun c _ => voteFn f c.act (c.t.psrc a))

/-- The votes of each pass, to the lanes of that pass (R114). -/
def execBallot (g : Guard) (a : PSrc) (s : State) : Host.Outcome State Fault Refusal :=
  s.runLanes { shapeP 0x3B g with dst := some .drift } (fun c l => ballotWord c.act (c.t.psrc a) (l / 32))

/-- Comparison of binary32 values into a predicate (R110). -/
def execFcmp (g : Guard) (p : Fin 7) (k : FCond) (a b : Src) (s : State) : Host.Outcome State Fault Refusal :=
  s.runPred (shapeCmp 0x3C g a b) p (fun c l => cmpFloat k (lane (c.val 0) l) (lane (c.val 1) l))

/-- The class mask of a binary32 value (R111). -/
def fclassLane (x : Word) : Word :=
  let i : Nat := match f32 x with
    | .nan => 8
    | .inf n => if n then 0 else 7
    | .fin n m e =>
      if m = 0 then (if n then 3 else 4)
      else if m < 2 ^ 23 ∧ e = -149 then (if n then 2 else 5)
      else (if n then 1 else 6)
  BitVec.ofNat 64 (2 ^ i)
/-- The class of a binary32 value (R111). -/
def execFclass (g : Guard) (d : Dst) (a : Src) (s : State) : Host.Outcome State Fault Refusal :=
  s.runUn 0x3D g d a fclassLane

end Sys2Proof.Machine
end

