-- ==== Sys2Proof/Machine/FloatRows.lean ====
section
/-! DEFINITION. Rows 0x4 and 0x5: float, complex and error-free arithmetic (R121 to R128). -/

namespace Sys2Proof.Machine

/-- The element format of a vector float form, its elements, and their width in bits (R72, R123). -/
def fmtOf : FFmt → Fmt
  | .f32 => b32
  | .bf16x4 => bf16
  | .f16x4 => b16

/-- Element i of a value. -/
def elemOf (f : FFmt) (w : Word) (i : Nat) : FV :=
  match f with
  | .f32 => f32 w
  | _ => .decode (fmtOf f) (w.toNat / 2 ^ (16 * i) % 65536)

/-- A result element by element: one for .f32, four for the packed forms (R122). -/
def perElem (f : FFmt) (g : Nat → Nat) : Word :=
  match f with
  | .f32 => w32 (g 0)
  | _ => BitVec.ofNat 64 (g 0 + g 1 * 2 ^ 16 + g 2 * 2 ^ 32 + g 3 * 2 ^ 48)

/-- The lane results of row 0x4, opcodes 40 to 47 (R123, R124). -/
def faddLane (f : FFmt) (m : RMode) (x y : Word) : Word :=
  perElem f (fun i => roundIeee (fmtOf f) m (FV.add m (elemOf f x i) (elemOf f y i)))
def fsubLane (f : FFmt) (m : RMode) (x y : Word) : Word :=
  perElem f (fun i => roundIeee (fmtOf f) m (FV.add m (elemOf f x i) (elemOf f y i).neg))
def fmulLane (f : FFmt) (m : RMode) (x y : Word) : Word :=
  perElem f (fun i => roundIeee (fmtOf f) m (FV.mul (elemOf f x i) (elemOf f y i)))
def ffmaLane (f : FFmt) (m : RMode) (x y z : Word) : Word :=
  perElem f (fun i => roundIeee (fmtOf f) m (FV.add m (FV.mul (elemOf f x i) (elemOf f y i)) (elemOf f z i)))

def FV.isNeg : FV → Bool
  | .nan => false
  | .inf s => s
  | .fin s _ _ => s

/-- minimumNumber and maximumNumber; −0 orders below +0 (R123). -/
def FV.minNum (x y : FV) : FV :=
  if x = .nan then y else if y = .nan then x
  else
    let o := FV.cmp x y
    if o < 0 then x else if 0 < o then y else if x.isNeg then x else y
def FV.maxNum (x y : FV) : FV :=
  if x = .nan then y else if y = .nan then x
  else
    let o := FV.cmp x y
    if o < 0 then y else if 0 < o then x else if x.isNeg then y else x

def fminLane (f : FFmt) (x y : Word) : Word :=
  perElem f (fun i => roundIeee (fmtOf f) .rn (FV.minNum (elemOf f x i) (elemOf f y i)))
def fmaxLane (f : FFmt) (x y : Word) : Word :=
  perElem f (fun i => roundIeee (fmtOf f) .rn (FV.maxNum (elemOf f x i) (elemOf f y i)))
def FV.absV : FV → FV
  | .nan => .nan
  | .inf _ => .inf false
  | .fin _ m e => .fin false m e
def fabsLane (f : FFmt) (x : Word) : Word := perElem f (fun i => roundIeee (fmtOf f) .rn (elemOf f x i).absV)
def fnegLane (f : FFmt) (x : Word) : Word := perElem f (fun i => roundIeee (fmtOf f) .rn (elemOf f x i).neg)

/-- The shapes of forms that take ROUND (R45). -/
def shapeRound2 (op : Nat) (g : Guard) (d : Dst) (a b : Src) : Shape := { shapeDAB op g d a b with mod := .round }
def shapeRound1 (op : Nat) (g : Guard) (d : Dst) (a : Src) : Shape := { shapeDA op g d a with mod := .round }

/-- A two-source form that takes ROUND. -/
def State.runRound2 (s : State) (op : Nat) (g : Guard) (d : Dst) (a b : Src) (f : RMode → Word → Word → Word) :
    Host.Outcome State Fault Refusal :=
  s.runLanes (shapeRound2 op g d a b) (fun c l => f c.hint.round (lane (c.val 0) l) (lane (c.val 1) l))
def State.runRound1 (s : State) (op : Nat) (g : Guard) (d : Dst) (a : Src) (f : RMode → Word → Word) :
    Host.Outcome State Fault Refusal :=
  s.runLanes (shapeRound1 op g d a) (fun c l => f c.hint.round (lane (c.val 0) l))
/-- A form of two sources and the destination's old value that takes ROUND (R124). -/
def State.runRound3 (s : State) (op : Nat) (g : Guard) (d : Dst) (a b : Src) (f : RMode → Word → Word → Word → Word) :
    Host.Outcome State Fault Refusal :=
  s.runLanes { shapeRound2 op g d a b with srcs := [a, b, oldOf d] }
    (fun c l => f c.hint.round (lane (c.val 0) l) (lane (c.val 1) l) (lane (c.val 2) l))

/-- a + b per element (R123). -/
def execFadd (g : Guard) (d : Dst) (a b : Src) (f : FFmt) (s : State) : Host.Outcome State Fault Refusal :=
  s.runRound2 0x40 g d a b (faddLane f)

/-- a − b per element (R123). -/
def execFsub (g : Guard) (d : Dst) (a b : Src) (f : FFmt) (s : State) : Host.Outcome State Fault Refusal :=
  s.runRound2 0x41 g d a b (fsubLane f)

/-- a × b per element (R123). -/
def execFmul (g : Guard) (d : Dst) (a b : Src) (f : FFmt) (s : State) : Host.Outcome State Fault Refusal :=
  s.runRound2 0x42 g d a b (fmulLane f)

/-- a × b + c per element, rounded once (R123, R124). -/
def execFfma (g : Guard) (d : Dst) (a b : Src) (f : FFmt) (s : State) : Host.Outcome State Fault Refusal :=
  s.runRound3 0x43 g d a b (ffmaLane f)

/-- minimumNumber per element (R123). -/
def execFmin (g : Guard) (d : Dst) (a b : Src) (f : FFmt) (s : State) : Host.Outcome State Fault Refusal :=
  s.runBin 0x44 g d a b (fminLane f)

/-- maximumNumber per element (R123). -/
def execFmax (g : Guard) (d : Dst) (a b : Src) (f : FFmt) (s : State) : Host.Outcome State Fault Refusal :=
  s.runBin 0x45 g d a b (fmaxLane f)

/-- The sign cleared per element (R123). -/
def execFabs (g : Guard) (d : Dst) (a : Src) (f : FFmt) (s : State) : Host.Outcome State Fault Refusal :=
  s.runUn 0x46 g d a (fabsLane f)

/-- The sign inverted per element (R123). -/
def execFneg (g : Guard) (d : Dst) (a : Src) (f : FFmt) (s : State) : Host.Outcome State Fault Refusal :=
  s.runUn 0x47 g d a (fnegLane f)

/-- The lane result of `frcp`: 1 ÷ a, correctly rounded (R125). -/
def frcpLane (m : RMode) (x : Word) : Word := w32 (r32 m (FV.div (.fin false 1 0) (f32 x)))
/-- 1 ÷ a, correctly rounded (R125). -/
def execFrcp (g : Guard) (d : Dst) (a : Src) (s : State) : Host.Outcome State Fault Refusal :=
  s.runRound1 0x48 g d a frcpLane

/-- The lane result of `fsqrt`: √a, correctly rounded (R125). -/
def fsqrtLane (m : RMode) (x : Word) : Word := w32 (r32 m (FV.sqrt (f32 x)))
/-- √a, correctly rounded (R125). -/
def execFsqrt (g : Guard) (d : Dst) (a : Src) (s : State) : Host.Outcome State Fault Refusal :=
  s.runRound1 0x49 g d a fsqrtLane

/-- The lane result of `frsq`: 1 ÷ √a, correctly rounded (R125). -/
def frsqLane (m : RMode) (x : Word) : Word := w32 (r32 m (FV.rsqrt (f32 x)))
/-- 1 ÷ √a, correctly rounded (R125). -/
def execFrsq (g : Guard) (d : Dst) (a : Src) (s : State) : Host.Outcome State Fault Refusal :=
  s.runRound1 0x4A g d a frsqLane

/-- The lane result of `fex2`: 2^a, correctly rounded (R125). -/
def fex2Lane (m : RMode) (x : Word) : Word := w32 (r32 m (FV.exp2 (f32 x)))
/-- 2^a, correctly rounded (R125). -/
def execFex2 (g : Guard) (d : Dst) (a : Src) (s : State) : Host.Outcome State Fault Refusal :=
  s.runRound1 0x4B g d a fex2Lane

/-- The lane result of `flg2`: log2 a, correctly rounded (R125). -/
def flg2Lane (m : RMode) (x : Word) : Word := w32 (r32 m (FV.log2 (f32 x)))
/-- log2 a, correctly rounded (R125). -/
def execFlg2 (g : Guard) (d : Dst) (a : Src) (s : State) : Host.Outcome State Fault Refusal :=
  s.runRound1 0x4C g d a flg2Lane

/-- The lane result of `fdiv` (R125). -/
def fdivLane (m : RMode) (x y : Word) : Word := w32 (r32 m (FV.div (f32 x) (f32 y)))
/-- a ÷ b, correctly rounded (R125). -/
def execFdiv (g : Guard) (d : Dst) (a b : Src) (s : State) : Host.Outcome State Fault Refusal :=
  s.runRound2 0x4D g d a b fdivLane

/-- The lane result of `fround` (R126). -/
def froundLane (m : RMode) (x : Word) : Word := w32 (r32 .rn (FV.round m (f32 x)))
/-- a rounded to an integral value (R126). -/
def execFround (g : Guard) (d : Dst) (a : Src) (m : RMode) (s : State) : Host.Outcome State Fault Refusal :=
  s.runUn 0x4E g d a (froundLane m)

/-! ### Row 0x5 -/

/-- A component of `cmul` and `cfma`: the exact sum of its terms rounded once, its zero signed as R127 gives. -/
def dotRound (m : RMode) (ts : List FV) : Nat :=
  let negZero := ts.all (fun t => match t with | .fin n k _ => n && k == 0 | _ => false)
  r32 m (sumTerms (m == .rd || negZero) ts)

def caddLane (m : RMode) (x y : Word) : Word :=
  wc32 (r32 m (FV.add m (f32 x) (f32 y))) (r32 m (FV.add m (f32hi x) (f32hi y)))
def csubLane (m : RMode) (x y : Word) : Word :=
  wc32 (r32 m (FV.add m (f32 x) (f32 y).neg)) (r32 m (FV.add m (f32hi x) (f32hi y).neg))
def cmulLane (m : RMode) (x y : Word) : Word :=
  wc32 (dotRound m [(f32 x).mul (f32 y), ((f32hi x).mul (f32hi y)).neg])
    (dotRound m [(f32 x).mul (f32hi y), (f32hi x).mul (f32 y)])
def cfmaLane (m : RMode) (x y z : Word) : Word :=
  wc32 (dotRound m [(f32 x).mul (f32 y), ((f32hi x).mul (f32hi y)).neg, f32 z])
    (dotRound m [(f32 x).mul (f32hi y), (f32hi x).mul (f32 y), f32hi z])
def cconjLane (x : Word) : Word := wc32 (r32 .rn (f32 x)) (r32 .rn (f32hi x).neg)
def cabs2Lane (m : RMode) (x : Word) : Word :=
  w32 (r32 m (sumTerms false [(f32 x).mul (f32 x), (f32hi x).mul (f32hi x)]))
def cpackLane (x y : Word) : Word := wc32 (lo32 x) (lo32 y)
def cpartLane (im : Bool) (x : Word) : Word := w32 (if im then hi32 x else lo32 x)

/-- Complex sum (R127). -/
def execCadd (g : Guard) (d : Dst) (a b : Src) (s : State) : Host.Outcome State Fault Refusal :=
  s.runRound2 0x50 g d a b caddLane

/-- Complex difference (R127). -/
def execCsub (g : Guard) (d : Dst) (a b : Src) (s : State) : Host.Outcome State Fault Refusal :=
  s.runRound2 0x51 g d a b csubLane

/-- Complex product (R127). -/
def execCmul (g : Guard) (d : Dst) (a b : Src) (s : State) : Host.Outcome State Fault Refusal :=
  s.runRound2 0x52 g d a b cmulLane

/-- Complex product and sum (R127). -/
def execCfma (g : Guard) (d : Dst) (a b : Src) (s : State) : Host.Outcome State Fault Refusal :=
  s.runRound3 0x53 g d a b cfmaLane

/-- Complex conjugate (R127). -/
def execCconj (g : Guard) (d : Dst) (a : Src) (s : State) : Host.Outcome State Fault Refusal :=
  s.runUn 0x54 g d a cconjLane

/-- Squared magnitude (R127). -/
def execCabs2 (g : Guard) (d : Dst) (a : Src) (s : State) : Host.Outcome State Fault Refusal :=
  s.runRound1 0x55 g d a cabs2Lane

/-- Two halves joined, bits copied (R127). -/
def execCpack (g : Guard) (d : Dst) (a b : Src) (s : State) : Host.Outcome State Fault Refusal :=
  s.runBin 0x58 g d a b cpackLane

/-- One half, bits copied (R127). -/
def execCpart (g : Guard) (d : Dst) (a : Src) (im : Bool) (s : State) : Host.Outcome State Fault Refusal :=
  s.runUn 0x59 g d a (cpartLane im)

/-- The rounded result and its error (R128). -/
def twoOf (exact : FV) : Nat × Nat :=
  let sc := r32 .rn exact
  let sv := FV.decode b32 sc
  match sv with
  | .fin _ _ _ =>
    let e := r32 .rn (FV.add .rn exact sv.neg)
    (sc, e)
  | _ => (sc, canonNaN32)
/-- `twosum`: the error is exact, and +0 when it is zero (R128). -/
def twosumLane (x y : Word) : Word × Word :=
  let (a, e) := twoOf (FV.add .rn (f32 x) (f32 y))
  (w32 a, w32 (if e = 0x80000000 then 0 else e))
def twoprodLane (x y : Word) : Word × Word :=
  let (a, e) := twoOf (FV.mul (f32 x) (f32 y))
  (w32 a, w32 e)

/-- Two pushes: the result, then its error, which becomes d0 (R128). -/
def State.runTwo (s : State) (op : Nat) (g : Guard) (d : Dst) (a b : Src) (f : Word → Word → Word × Word) :
    Host.Outcome State Fault Refusal :=
  s.run { shapeDAB op g d a b with pushes := 2 } (fun s c =>
    let r (l : Nat) := f (lane (c.val 0) l) (lane (c.val 1) l)
    s.commit c (fun t =>
      (t.writePush d c.act (vtab c.t.nlane (fun l => (r l).1)) c.pass).pushDrift
        (blend c.act c.t.nlane (vtab c.t.nlane (fun l => (r l).2)) c.pass)))

/-- The rounded sum and its exact error (R128). -/
def execTwosum (g : Guard) (d : Dst) (a b : Src) (s : State) : Host.Outcome State Fault Refusal :=
  s.runTwo 0x56 g d a b twosumLane

/-- The rounded product and its error (R128). -/
def execTwoprod (g : Guard) (d : Dst) (a b : Src) (s : State) : Host.Outcome State Fault Refusal :=
  s.runTwo 0x57 g d a b twoprodLane

end Sys2Proof.Machine
end

