-- ==== Sys2Proof/Machine/Convert.lean ====
section
/-! DEFINITION. Row 0x6: conversions (R129 to R136). -/

namespace Sys2Proof.Machine

/-- The lane result of `cvtif` (R132). -/
def cvtifLane (t : IType) (m : RMode) (x : Word) : Word :=
  let v : Int := match t with
    | .i64 => x.toInt
    | .n64 => x.toNat
    | .i32 => (x.extractLsb' 0 32).toInt
    | .n32 => (x.extractLsb' 0 32).toNat
  w32 (r32 m (ofInt v 0))
/-- An integer to binary32 (R132). -/
def execCvtif (g : Guard) (d : Dst) (a : Src) (t : IType) (s : State) : Host.Outcome State Fault Refusal :=
  s.runRound1 0x60 g d a (cvtifLane t)

/-- The lane result of `cvtfi` (R133). -/
def cvtfiLane (t : IType) (m : RMode) (x : Word) : Word :=
  let (lo, hi) : Int × Int := match t with
    | .i64 => (-(2 ^ 63), 2 ^ 63 - 1)
    | .n64 => (0, 2 ^ 64 - 1)
    | .i32 => (-(2 ^ 31), 2 ^ 31 - 1)
    | .n32 => (0, 2 ^ 32 - 1)
  BitVec.ofInt 64 (toIntSat m lo hi (f32 x)).1
/-- Binary32 to an integer, saturating (R133). -/
def execCvtfi (g : Guard) (d : Dst) (a : Src) (t : IType) (m : RMode) (s : State) : Host.Outcome State Fault Refusal :=
  s.runUn 0x61 g d a (cvtfiLane t m)

/-- The lane result of `cvtn` (R130). -/
def cvtnLane (b : NarrowFmt) (m : RMode) (x : Word) : Word := w32 (narrowEncode m b (f32 x)).1
/-- Binary32 to a narrow code, saturating (R130). -/
def execCvtn (g : Guard) (d : Dst) (a : Src) (b : NarrowFmt) (s : State) : Host.Outcome State Fault Refusal :=
  s.runRound1 0x62 g d a (cvtnLane b)

/-- The lane result of `cvtw` (R131). -/
def cvtwLane (b : NarrowFmt) (x : Word) : Word := w32 (r32 .rn (narrowDecode b x.toNat))
/-- A narrow code to binary32, exact (R131). -/
def execCvtw (g : Guard) (d : Dst) (a : Src) (b : NarrowFmt) (s : State) : Host.Outcome State Fault Refusal :=
  s.runUn 0x63 g d a (cvtwLane b)

/-- Element format and emax_elem of a `cvtmx` code (R87, R136). -/
def mxElem (b : BitVec 6) : NarrowFmt × Int :=
  if b = 7 then (.e4m3, 8) else if b = 8 then (.e5m2, 15) else if b = 9 then (.e2m3, 2)
  else if b = 10 then (.e3m2, 4) else (.e2m1, 2)

/-- Scale byte of a block (R87): none when an element is NaN. -/
def mxScale (emax : Int) (xs : List FV) : Option Int :=
  if xs.any (fun x => x == .nan) then none
  else
    let es := xs.filterMap (fun x => match x with
      | .fin _ m e => if m = 0 then none else some (expOf m e)
      | _ => none)
    match es with
    | [] => some 0
    | e :: r => some (max (-127) (min 127 (r.foldl max e - emax)))

def FV.scale (k : Int) : FV → FV
  | .fin s m e => .fin s m (e + k)
  | x => x

/-- The word of one lane of a block: scale and element (R136). -/
def cvtmxLane (b : BitVec 6) (block : List FV) (x : FV) : Word :=
  let (f, emax) := mxElem b
  match mxScale emax block with
  | none => BitVec.ofNat 64 0xFF00
  | some k => BitVec.ofNat 64 ((k + 127).toNat * 256 + (narrowEncode .rn f (x.scale (-k))).1)
/-- One MX block for the active lanes of each pass (R136). -/
def execCvtmx (g : Guard) (d : Dst) (a : Src) (b : BitVec 6) (s : State) : Host.Outcome State Fault Refusal :=
  s.runLanes { shapeDA 0x64 g d a with wf := wfCvtmx b } (fun c l =>
    let pass := (List.range 32).filter (fun j => Mask.has c.act (l / 32 * 32 + j))
    cvtmxLane b (pass.map (fun j => f32 (lane (c.val 0) (l / 32 * 32 + j)))) (f32 (lane (c.val 0) l)))

/-- The lane result of `pack` (R134). -/
def packLane (f : PackFmt) (x y : Word) : Word :=
  let fm := match f with | .bf16 => Sys2Proof.Machine.bf16 | .f16 => b16
  let e (v : FV) : Nat := (roundSat fm .rn v).1
  BitVec.ofNat 64 (e (f32 x) + e (f32hi x) * 2 ^ 16 + e (f32 y) * 2 ^ 32 + e (f32hi y) * 2 ^ 48)
/-- Four binary32 values into a packed element (R134). -/
def execPack (g : Guard) (d : Dst) (a b : Src) (f : PackFmt) (s : State) : Host.Outcome State Fault Refusal :=
  s.runBin 0x65 g d a b (packLane f)

/-- The lane result of `unpk` (R135). -/
def unpkLane (f : UnpkSel) (x : Word) : Word :=
  let (fm, h) : Fmt × Nat := match f with
    | .bf16lo => (Sys2Proof.Machine.bf16, 0) | .bf16hi => (Sys2Proof.Machine.bf16, 2)
    | .f16lo => (b16, 0) | .f16hi => (b16, 2)
  let e (i : Nat) : Nat := r32 .rn (.decode fm (x.toNat / 2 ^ (16 * i) % 65536))
  wc32 (e h) (e (h + 1))
/-- Two packed elements widened (R135). -/
def execUnpk (g : Guard) (d : Dst) (a : Src) (f : UnpkSel) (s : State) : Host.Outcome State Fault Refusal :=
  s.runUn 0x66 g d a (unpkLane f)

end Sys2Proof.Machine
end

