-- ==== Sys2Proof/Machine/Lanes.lean ====
section
/-! DEFINITION. Row 0x7: instructions that read other lanes (R115 to R120). -/

namespace Sys2Proof.Machine

/-- The source place of a lane (R116, R117): j its place, d the distance field, wrap, and the span of places. An
answer outside the span, or none, is no valid source. -/
def shflPlace (f : ShflOp) (j d : Nat) (wrap : Bool) (span : Nat) : Option Nat :=
  match f with
  | .from => some d
  | .pair => some (j ^^^ d)
  | .rise => if d ≤ j then some (j - d) else if wrap then some ((j + span * 1024 - d) % span) else none
  | .fall => if j + d < span then some (j + d) else if wrap then some ((j + d) % span) else none

/-- What lane l takes: the source lane's value when that lane is active and below NLANE, else its own (R115). -/
def shflTake (c : Ctx) (l : Nat) (src : Option Nat) : Word :=
  match src with
  | some i => if i < c.t.nlane && Mask.has c.act i then lane (c.val 0) i else lane (c.val 0) l
  | none => lane (c.val 0) l

/-- The value of `shfl` in lane l: sources stay within the pass (R116). -/
def shflValue (f : ShflOp) (c : Ctx) (l : Nat) : Word :=
  let b := lane (c.val 1) l
  let base := l / 32 * 32
  shflTake c l ((shflPlace f (l % 32) (b.toNat % 32) (b.getLsbD 5) 32).map (fun p => base + p))

/-- The value of `shflt` in lane l: sources range over the team (R117). -/
def shfltValue (f : ShflOp) (c : Ctx) (l : Nat) : Word :=
  let b := lane (c.val 1) l
  shflTake c l (shflPlace f l (b.toNat % 1024) (b.getLsbD 10) c.t.nlane)

/-- Writes the lanes of pass w of a long instruction: named destination and drift (R117, R119). The first pass written
makes the entries that later passes fill. Where `pidx.set` has lowered the index, a pass written again makes entries again, and
only overwrites a queue destination's: DESIGN CHOICE, log 116. -/
def Team.writePass (t : Team) (d : Dst) (act : Mask) (first : Bool) (w : Nat) (v : LaneVec) : Team :=
  let n := t.nlane
  let here (l : Nat) : Bool := l / 32 == w
  let shifted := (vtab n (fun _ => 0)) :: t.regs.drift
  let drift := (List.range 16).map (fun e => vtab n (fun l =>
    if here l then (if e = 0 then lane v l else lane (shifted.getD e []) l) else lane (t.d e) l))
  let t1 := { t with
    regs := { t.regs with drift },
    pend := if first then t.pend.map (fun p => { p with age := p.age + 1 }) else t.pend }
  let actHere := act &&& Mask.ofFn n here
  match d with
  | .drift => t1
  | .k i => t1.setK i.val (blend actHere n v (t1.k i.val))
  | .q i =>
    let q := t1.queue i.val
    let items := if first then q.items ++ [vtab n (fun _ => 0)] else q.items
    let last := items.getLastD []
    t1.setQueue i.val { q with items := items.dropLast ++ [vtab n (fun l => if here l then lane v l else lane last l)] }
  | .s i => if Mask.has actHere (Mask.first act n) then t1.setS i.val (lane v (Mask.first act n)) else t1

/-- Passes of a team. -/
def Team.passes (t : Team) : Nat := (t.nlane + 31) / 32

/-- A long instruction as it starts: every value it will write or push staged, its operand kept (R117, R119). -/
def LongOp.start (c : Ctx) (value : Ctx → Nat → Word) (unit : Word) : LongOp :=
  { op := c.sh.op, staged := blend c.act c.t.nlane (vtab c.t.nlane (value c)) c.pass, src := c.val 0, run := unit, passes := 0 }

/-- A long instruction: with no yield request it runs whole; with one it writes one pass at a time, so that a slice
end can stop it at its progress index (R117, R119, R341). Its first pass reads and pops the operands, once loads
outstanding have come in, since a pass moves the drift of its own lanes only; later passes write what is staged. `run`
carries the running value that `tscan` records over one pass. -/
def State.runLong (s : State) (sh : Shape) (d : Dst) (value : Ctx → Nat → Word) (run : Ctx → Nat → Word → Word)
    (unit : Word := 0) : Host.Outcome State Fault Refusal :=
  s.run sh (fun s c =>
    if !c.t.yieldReq && !c.t.partWay sh.op then s.push c (vtab c.t.nlane (value c))
    else
      let s1 := s.settlePend c.t.id
      match s1.team? c.t.id with
      | none => s1
      | some t0 =>
        let g := (c.t.longOf sh.op).getD (LongOp.start c value unit)
        let first := !c.t.partWay sh.op
        let t := if first then (t0.readSrcs sh.srcs).2 else t0
        let pass (t : Team) (w : Nat) : Team := t.writePass d c.act (first && w == g.passes) w g.staged
        if s1.txGone c.t then s1
        else if c.t.yieldReq && decide (g.passes + 1 < c.t.passes) then
          s1.putTeam { pass t g.passes with
            long := some { g with run := run { c with vals := [g.src] } g.passes g.run, passes := g.passes + 1 } }
        else
          let u := ((List.range c.t.passes).filter (fun w => decide (g.passes ≤ w))).foldl pass t
          s1.putTeam { u with long := none }.next)

/-- Values move between the lanes of one pass (R116). -/
def execShfl (g : Guard) (d : Dst) (a b : Src) (f : ShflOp) (s : State) : Host.Outcome State Fault Refusal :=
  s.runLanes (shapeDAB 0x70 g d a b) (shflValue f)

/-- Values move between the lanes of the team; a long instruction (R117). -/
def execShflt (g : Guard) (d : Dst) (a b : Src) (f : ShflOp) (s : State) : Host.Outcome State Fault Refusal :=
  s.runLong (shapeDAB 0x71 g d a b) d (shfltValue f) (fun _ _ r => r)

/-- The source lane of `bcast` (R118). -/
def bcastLane (f : BcastOp) (c : Ctx) : Nat :=
  match f with
  | .lane =>
    let i := (lane (c.val 1) c.first).toNat % 1024
    if i < c.t.nlane && Mask.has c.act i then i else c.first
  | .lo => c.first
  | .hi => c.lanes.getLastD 0

/-- One lane's value to every active lane (R118). -/
def execBcast (g : Guard) (d : Dst) (a b : Src) (f : BcastOp) (s : State) : Host.Outcome State Fault Refusal :=
  s.runLanes { shapeDAB 0x72 g d a b with srcs := if f == .lane then [a, b] else [a], wf := wfBcast f b }
    (fun c _ => lane (c.val 0) (bcastLane f c))

/-- One step of a reduction, and its identity (R119). -/
def redStep (f : RedOp) (x y : Word) : Word :=
  match f with
  | .add => x + y
  | .min => if y.slt x then y else x
  | .max => if x.slt y then y else x
  | .or => x ||| y
def redUnit (f : RedOp) : Word :=
  match f with
  | .add => 0
  | .min => 0x7FFFFFFFFFFFFFFF
  | .max => 0x8000000000000000
  | .or => 0

/-- The combination over active lanes that satisfy p (R119). -/
def redOver (f : RedOp) (c : Ctx) (p : Nat → Bool) : Word :=
  (c.lanes.filter p).foldl (fun r l => redStep f r (lane (c.val 0) l)) (redUnit f)

/-- A reduction over the active lanes (R119). -/
def execTred (g : Guard) (d : Dst) (a : Src) (f : RedOp) (s : State) : Host.Outcome State Fault Refusal :=
  s.runLanes (shapeDA 0x73 g d a) (fun c => let v := redOver f c (fun _ => true); fun _ => v)

/-- A scan over the active lanes; a long instruction (R119). -/
def execTscan (g : Guard) (d : Dst) (a : Src) (excl : Bool) (f : RedOp) (s : State) : Host.Outcome State Fault Refusal :=
  s.runLong (shapeDA 0x74 g d a) d
    (fun c l => redOver f c (fun j => if excl then decide (j < l) else decide (j ≤ l)))
    (fun c w r => redStep f r (redOver f c (fun j => decide (j / 32 = w)))) (redUnit f)

/-- One node of the tree of R120: absent inputs pass the other. -/
def treeNode (f : FtredTy) (x y : Option Word) : Option Word :=
  match x, y with
  | none, y => y
  | x, none => x
  | some a, some b => some (match f with
    | .f32 => w32 (addRne (lo32 a) (lo32 b))
    | .c32 => wc32 (addRne (lo32 a) (lo32 b)) (addRne (hi32 a) (hi32 b)))
/-- One level of the tree: neighbours combine in pairs. -/
def treeLevel (f : FtredTy) : List (Option Word) → List (Option Word)
  | [] => []
  | [x] => [treeNode f x none]
  | x :: y :: r => treeNode f x y :: treeLevel f r
/-- n levels. -/
def treeUp (f : FtredTy) : Nat → List (Option Word) → List (Option Word)
  | 0, v => v
  | n + 1, v => treeUp f n (treeLevel f v)
/-- The value of `ftred` (R120). A lone active lane's value passes unrounded; a .f32 result has a zero upper half. -/
def ftredValue (f : FtredTy) (c : Ctx) : Word :=
  let leaves := (List.range 1024).map (fun l => if Mask.has c.act l then some (lane (c.val 0) l) else none)
  let r := ((treeUp f 10 leaves).headD none).getD 0
  match f with | .f32 => w32 (lo32 r) | .c32 => r

/-- A float sum over the active lanes by a fixed tree (R120). -/
def execFtred (g : Guard) (d : Dst) (a : Src) (f : FtredTy) (s : State) : Host.Outcome State Fault Refusal :=
  s.runLanes (shapeDA 0x75 g d a) (fun c => let v := ftredValue f c; fun _ => v)

end Sys2Proof.Machine
end

