-- ==== Sys2Proof/Machine/Control.lean ====
section
/-! DEFINITION. Row 0x0 and the hint, special-register, queue and trap words of row 0xF (R39, R42, R53 to R70, R356,
R357). -/

namespace Sys2Proof.Machine

/-- A word that no instruction stands for, or `ill`: an illegal-class trap when a lane is active, else nothing
happens and the hint stays (R33, R39, R52, R64). Its active lanes are those its guard bits select; for g = 0111, for
opcodes 0x00 and 0xFF, for H words and for opcodes whose guard selects no lanes they are the enabled lanes (R38).
DEDUCED, log 72. -/
def State.illegalWord (s : State) (w : Code) : State :=
  match s.curTeam? with
  | none => s
  | some t =>
    let op := w.toNat / 2 ^ 24
    let g := w.extractLsb' 20 4
    let n := g.toNat % 8
    let every := op = 0 ∨ 0xF0 ≤ op ∧ op ≤ 0xF2 ∨ op = 0xFF ∨ n = 7 ∨ 0x02 ≤ op ∧ op ≤ 0x04 ∨ 0x08 ≤ op ∧ op ≤ 0x0E ∨
      op = 0x37 ∨ op = 0xA3 ∨ op = 0xA4 ∨ op = 0xF7
    let act := if every then t.enabled else t.enabled &&& (if g.getLsbD 3 then ~~~(t.p n) else t.p n)
    if act = 0 then s.putTeam { t with ctl := { t.ctl with pc := t.ctl.pc + 4 } }
    else s.trapAt t op 0 (if op = 0xF2 then 0x04 else 0x01) act

/-- `ill` and every word with opcode 0x00 or 0xFF (R64). -/
def execIll (w : Code) (s : State) : Host.Outcome State Fault Refusal := .next (s.illegalWord w)

/-- `nop` changes nothing and pushes nothing (R64). -/
def execNop (g : Guard) (s : State) : Host.Outcome State Fault Refusal :=
  s.run { op := 0x01, sel := .guard g } (fun s c => s.commit c id)

/-! ### Branches and calls (R62, R63) -/

/-- pc + disp × 4, the displacement extended by imm (R41, R43). No form takes immh; where a structured word acts with no lane
enabled (R60) a pending immh is dropped: DESIGN CHOICE, log 104. -/
def branchTarget (t : Team) (disp : BitVec 20) : Word :=
  t.ctl.pc + BitVec.ofInt 64 (extField { t.ctl.hint with immh := none } disp * 4)

/-- Completes with a new pc. -/
def State.jump (s : State) (c : Ctx) (pc : Word) (f : Team → Team := id) : State :=
  match s.team? c.t.id with
  | none => s
  | some t => s.putTeam ((f t).finish pc)

/-- The shape of the branches whose guard is a condition. -/
def shapeBranch (op : Nat) : Shape := { op, sel := .enabled, imm := true }

/-- `br`: taken when the condition holds in every enabled lane, not taken when in none (R62). -/
def execBr (g : Guard) (disp : BitVec 20) (s : State) : Host.Outcome State Fault Refusal :=
  s.run (shapeBranch 0x02) (fun s c =>
    let yes := c.act &&& c.t.cond g
    if yes = c.act then s.jump c (branchTarget c.t disp)
    else if yes = 0 then s.jump c (c.t.ctl.pc + 4)
    else s.trapAt c.t 0x02 2 0x01 yes)

/-- `brany`: taken when the condition holds in some enabled lane (R62). -/
def execBrany (g : Guard) (disp : BitVec 20) (s : State) : Host.Outcome State Fault Refusal :=
  s.run (shapeBranch 0x03) (fun s c =>
    s.jump c (if c.act &&& c.t.cond g = 0 then c.t.ctl.pc + 4 else branchTarget c.t disp))

/-- `brall`: taken when the condition holds in every enabled lane, and there is one (R62). -/
def execBrall (g : Guard) (disp : BitVec 20) (s : State) : Host.Outcome State Fault Refusal :=
  s.run (shapeBranch 0x04) (fun s c =>
    s.jump c (if c.act &&& c.t.cond g = c.act then branchTarget c.t disp else c.t.ctl.pc + 4))

/-- A call or jump: taken when the active set equals the enabled set, else "non-uniform branch"; a target off a
multiple of 4 is "alignment" (R30, R63). -/
def State.runJump (s : State) (op : Nat) (g : Guard) (imm : Bool) (srcs : List Src) (target : Team → Word)
    (link : Bool) : Host.Outcome State Fault Refusal :=
  s.run { op, sel := .guard g, imm, srcs } (fun s c =>
    if c.act ≠ c.t.enabled then s.trapAt c.t op 2 0x01 c.act
    else
      let pc := target c.t
      if pc.extractLsb' 0 2 ≠ 0 then s.trapList c 4 0x01 (c.lanes.map (fun l => (l, pc)))
      else s.jump c pc (fun t => if link then t.setS 7 (c.t.ctl.pc + 4) else t))

/-- `call` (R63). -/
def execCall (g : Guard) (disp : BitVec 20) (s : State) : Host.Outcome State Fault Refusal :=
  s.runJump 0x05 g true [.s 7] (fun t => branchTarget t disp) true
/-- `jmpi` (R63). -/
def execJmpi (g : Guard) (n : Fin 8) (s : State) : Host.Outcome State Fault Refusal :=
  s.runJump 0x06 g false [.s n] (fun t => t.s n.val) false
/-- `calli`: jumps to the old sN and leaves the return address in s7 (R63). -/
def execCalli (g : Guard) (n : Fin 8) (s : State) : Host.Outcome State Fault Refusal :=
  s.runJump 0x06 g false [.s n, .s 7] (fun t => t.s n.val) true
/-- `ret` (R63). -/
def execRet (g : Guard) (s : State) : Host.Outcome State Fault Refusal :=
  s.runJump 0x07 g false [.s 7] (fun t => t.s 7) false

/-! ### Structured control flow (R59, R60) -/

/-- A structured instruction acts whether or not any lane is enabled; only the hint check needs one (R60). f answers
the trap's class and code, or the team's new control state. -/
def State.structured (s : State) (op : Nat) (imm : Bool) (f : Team → Except (Nat × Nat) Ctl) :
    Host.Outcome State Fault Refusal :=
  match s.curTeam? with
  | none => .next s
  | some t =>
    let act := t.enabled
    if act ≠ 0 && !hintOk imm false .none t.ctl.hint then .next (s.trapAt t op 0 0x03 act)
    else
      match f t with
      | .error (cls, code) => .next (s.trapAt t op cls code act)
      | .ok c => .next (s.putTeam ({ t with ctl := c }.finish c.pc))

/-- "structure mismatch" and "mask stack overflow" (R59, R350). -/
def mismatch : Nat × Nat := (2, 0x02)
def overflow : Nat × Nat := (1, 0x05)

/-- `if` (R59). -/
def ifCtl (g : Guard) (disp : BitVec 20) (t : Team) : Except (Nat × Nat) Ctl :=
  if 16 ≤ t.ctl.stack.length then .error overflow
  else .ok { t.ctl with
    stack := { image := t.ctl.cur, target := branchTarget t disp } :: t.ctl.stack,
    cur := t.ctl.cur &&& t.cond g, pc := t.ctl.pc + 4 }
def execIfThen (g : Guard) (disp : BitVec 20) (s : State) : Host.Outcome State Fault Refusal :=
  s.structured 0x08 true (ifCtl g disp)

/-- `else` (R59). -/
def elseCtl (disp : BitVec 20) (t : Team) : Except (Nat × Nat) Ctl :=
  match t.ctl.stack with
  | [] => .error mismatch
  | l :: r =>
    if l.isLoop || l.inElse || l.target != t.ctl.pc then .error mismatch
    else .ok { t.ctl with
      cur := l.image &&& t.ctl.live &&& ~~~t.ctl.cur,
      stack := { l with inElse := true, target := branchTarget t disp } :: r, pc := t.ctl.pc + 4 }
def execElseArm (disp : BitVec 20) (s : State) : Host.Outcome State Fault Refusal :=
  s.structured 0x09 true (elseCtl disp)

/-- `endif` (R59). -/
def endIfCtl (t : Team) : Except (Nat × Nat) Ctl :=
  match t.ctl.stack with
  | [] => .error mismatch
  | l :: r =>
    if l.isLoop || l.target != t.ctl.pc then .error mismatch
    else .ok { t.ctl with cur := l.image &&& t.ctl.live, stack := r, pc := t.ctl.pc + 4 }
def execEndIf (s : State) : Host.Outcome State Fault Refusal := s.structured 0x0A false endIfCtl

/-- `loop` (R59). -/
def loopCtl (disp : BitVec 20) (t : Team) : Except (Nat × Nat) Ctl :=
  if 16 ≤ t.ctl.stack.length then .error overflow
  else .ok { t.ctl with
    stack := { image := t.ctl.cur, isLoop := true, target := branchTarget t disp, body := t.ctl.pc + 4 } :: t.ctl.stack,
    pc := t.ctl.pc + 4 }
def execLoop (disp : BitVec 20) (s : State) : Host.Outcome State Fault Refusal :=
  s.structured 0x0B true (loopCtl disp)

/-- Clears lanes from the levels above the innermost loop level; none when there is no loop (R59). -/
def leaveLoop (x : Mask) : List Level → Option (List Level)
  | [] => none
  | l :: r =>
    if l.isLoop then some (l :: r)
    else (leaveLoop x r).map (fun r' => { l with image := l.image &&& ~~~x } :: r')

/-- `brk` and `cont` (R59). -/
def brkCtl (toBrk : Bool) (g : Guard) (t : Team) : Except (Nat × Nat) Ctl :=
  let x := t.ctl.cur &&& t.cond g
  match leaveLoop x t.ctl.stack with
  | none => .error mismatch
  | some st => .ok { t.ctl with
      cur := t.ctl.cur &&& ~~~x, brk := if toBrk then t.ctl.brk ||| x else t.ctl.brk, stack := st,
      pc := t.ctl.pc + 4 }
def execBrk (g : Guard) (s : State) : Host.Outcome State Fault Refusal := s.structured 0x0C false (brkCtl true g)
def execCont (g : Guard) (s : State) : Host.Outcome State Fault Refusal := s.structured 0x0D false (brkCtl false g)

/-- `endloop`: the next pass, or the loop closes (R59). -/
def endLoopCtl (disp : BitVec 20) (t : Team) : Except (Nat × Nat) Ctl :=
  match t.ctl.stack with
  | [] => .error mismatch
  | l :: r =>
    if !l.isLoop || l.target != t.ctl.pc || branchTarget t disp != l.body then .error mismatch
    else
      let n := l.image &&& t.ctl.live &&& ~~~t.ctl.brk
      if n ≠ 0 then .ok { t.ctl with cur := n, pc := l.body }
      else .ok { t.ctl with
        cur := l.image &&& t.ctl.live, brk := t.ctl.brk &&& ~~~l.image, stack := r, pc := t.ctl.pc + 4 }
def execEndLoop (disp : BitVec 20) (s : State) : Host.Outcome State Fault Refusal :=
  s.structured 0x0E true (endLoopCtl disp)

/-! ### Retiring lanes (R61) -/

/-- Clears lanes from V, C, B and every level image. -/
def Ctl.retire (c : Ctl) (x : Mask) : Ctl :=
  { c with live := c.live &&& ~~~x, cur := c.cur &&& ~~~x, brk := c.brk &&& ~~~x,
           stack := c.stack.map (fun l => { l with image := l.image &&& ~~~x }) }

/-- What the sequencer has still to do for the team: its queued instructions, and an rload that a resume repeats (R162). -/
def State.matrixAll (s : State) (t : Team) : List MEntry :=
  let m := (s.core t.coreKey).mx
  if m.holder = some t.id then m.queue else t.savedMx.getD []
/-- The queued matrix instructions of the team. -/
def State.matrixQueueOf (s : State) (t : Team) : List MEntry := (s.matrixAll t).filter (fun e => !e.again)

/-- The opcode of a queued word, and its low four bits (R149). -/
def MEntry.op (e : MEntry) : Nat := e.word.toNat / 2 ^ 24
def MEntry.fl (e : MEntry) : Nat := e.word.toNat % 16
def MEntry.a (e : MEntry) (i : Nat) : Word := e.args.getD i 0
def MEntry.num (e : MEntry) (i : Nat) : Nat := (e.a i).toNat

/-- Reads of memory are left to the entry: rload, mload and mcol read until they complete, mloop its steps (R151). -/
def MEntry.reads (e : MEntry) : Bool :=
  e.op == 0xC0 || e.op == 0xC5 || e.op == 0xC6 || ((e.op == 0xC1 || e.op == 0xC2) && decide (e.prog < e.num 3 % 2 ^ 16))

/-- Loads of the team are left to its queued matrix instructions (R151). -/
def State.mxReads (s : State) (t : Team) (f : MEntry → Bool) : Bool :=
  (s.matrixQueueOf t).any (fun e => e.reads && f e)

/-- An access to a page of this kind waits for reads of the team's queued matrix instructions (R151, R186). -/
def State.mxAhead (s : State) (t : Team) (k : PageKind) : Bool := k != .unordered && s.mxReads t (fun e => e.keep)

/-- A read of n bytes at a waits for a queued matrix instruction of the team that reads a line of them: reads of one line stay in
order on every kind of page (R151, R186, R194). -/
def State.mxOver (s : State) (t : Team) (a n : Nat) : Bool :=
  s.mxReads t (fun e => e.spans.any (fun r => r.meets (a / 64) || r.meets ((a + n - 1) / 64)))

/-- Runs f once every earlier event of the team is over; until the reads of its queued matrix instructions are, the
instruction stalls (R151, R188, R189, R191). -/
def State.afterAll (s : State) (t : Team) (f : State → State) : State :=
  if s.mxReads t (fun _ => true) then s.stall
  else
    let s1 := s.settleAll t.id
    if s1.txGone t then s1 else f s1

/-- The matrix stores of a team that satisfy f take their place: each line goes through the write buffer as a store of the
team and is applied at once (R151, R161). -/
def State.placeWrites (s : State) (tid : Nat) (f : MWrite → Bool) : State :=
  match s.team? tid with
  | none => s
  | some t =>
    let core := t.coreKey
    let see (e : MEntry) : MEntry := { e with old := e.old.map (fun m =>
      (t.mwr.filter f).foldl (fun m w => Mem.setBytes m w.addr w.bytes) m) }
    let s0 :=
      if t.mwr.any f then
        let c := s.core core
        (s.putCore { c with mx := { c.mx with queue := c.mx.queue.map see } }).putTeam
          { t with mwr := t.mwr.filter (fun w => !f w), seq := t.seq + 1 }
      else s
    (t.mwr.filter f).foldl (fun s w =>
      let (id, s1) := s.fresh
      let c := s1.core core
      let e : WbEntry := { id, team := tid, seq := t.seq, line := w.addr / 64, kind := w.kind, release := none, repl := w.repl,
                           bytes := w.bytes.zipIdx.map (fun b => (w.addr % 64 + b.2, b.1)) }
      let s2 := s1.putCore { c with wbuf := c.wbuf ++ [e] }
      s2.force (s2.depth core) (.entry core id)) s0

/-- The team's remote operations in flight that satisfy f, as their identities. -/
def State.remoteOf (s : State) (tid : Nat) (f : RemOp → Bool) : List Nat :=
  (s.ops.filter (fun o => o.team == tid && f o)).map (fun o => o.id)

/-- The remote operations whose completions a fence or release of a scope orders: none, the own device's, or all (R190). -/
def State.remoteUnder (s : State) (t : Team) (scope : Nat) : List Nat :=
  if scope = 4 then s.remoteOf t.id (fun _ => true)
  else if scope = 3 then s.remoteOf t.id (fun o => o.dsite / 64 == t.place.site / 64)
  else []

/-- The physical addresses whose accesses a release or acquire of a scope orders: none of other locations at team scope,
the cluster's scratchpads, or all (R190). -/
def Team.spanOf (t : Team) (scope : Nat) : Span :=
  if scope = 0 then (0, 0)
  else if scope = 1 then
    let b := siteBase t.place.site + 0x1800000000 + t.place.cluster * 0x1000000
    (b, b + 0x1000000)
  else allSpan

/-- A deferred trap of the matrix unit. -/
def DeferWhen.isMatrix : DeferWhen → Bool
  | .matrix _ => true
  | .engine _ _ => false
  | .remote => false

/-- Clears FAULT of a tile of a tenant's, in the unit or among the tiles that have thawed (R152). -/
def Matrix.clearFault (x : Matrix) (tenant : Nat) (tile : Option Nat) : Matrix :=
  let clear (ws : List Slot) : List Slot := ws.zipIdx.map (fun w => if some w.2 = tile then { w.1 with fault := false } else w.1)
  if x.tenant = some tenant then { x with slots := clear x.slots }
  else { x with out := x.out.map (fun o => if o.tenant = tenant then { o with slots := clear o.slots } else o) }

/-- Raises the first deferred trap that satisfies f at an instruction with these active lanes: its entry clears the condition
(R152, R355). One of the matrix unit concerns no lane in particular: it marks every active lane, with the address (R352). Of
several traps that wait for one instruction the oldest comes first, and the others at the instruction again, after the
handler's return. DEDUCED, log 103. -/
def State.raiseDeferred (s : State) (t : Team) (op : Nat) (act : Mask) (f : Deferred → Bool) : Option State :=
  match t.deferred.find? f with
  | none => none
  | some d =>
    let t1 := { t with deferred := t.deferred.filter (fun e => e != d) }
    let s1 := s.putTeam t1
    let s2 := match d.w with
      | .matrix tile =>
        let c := s1.core t.coreKey
        s1.putCore { c with mx := c.mx.clearFault t.ctl.home.toNat tile }
      | _ => s1
    let aux := match d.w with | .remote => d.aux | _ => d.op
    let lanes := if d.w.isMatrix then Mask.lanes act t.nlane else [d.lane]
    some (s2.trapAt t1 op d.cls d.code (if d.w.isMatrix then act else 1 <<< d.lane) (lanes.map (fun l => (l, d.addr)))
      d.pidx aux)

/-- Gives the matrix unit up (R138). -/
def State.releaseMatrix (s : State) (t : Team) : State :=
  let c := s.core t.coreKey
  if c.mx.holder = some t.id then s.putCore { c with mx := { c.mx with holder := none } } else s

/-- The member of an instance that a handle stands for (R326). -/
def State.member? (s : State) (h : Handle) : Option XMember :=
  ((s.site h.site).insts.find? (fun x => x.id == h.inst)).bind (fun x => x.members.find? (fun m => m.index == h.index))

/-- Nothing is left to wait for at the close of a part: the correction cells of its instance on the site are filled, those of
parts that a trap has closed apart, or it has failed itself (R329). -/
def State.partDone (s : State) (h : Handle) : Bool :=
  h.failed || ((s.site h.site).insts.find? (fun x => x.id == h.inst)).all (fun x => x.members.all (fun m => m.filled || m.closed))

/-- A team gives up its part of an instance. -/
def State.closePart (s : State) (h : Handle) : State :=
  let x := s.site h.site
  s.putSite { x with insts := x.insts.map (fun (y : XInst) =>
    if y.id == h.inst then
      { y with members := y.members.map (fun (m : XMember) => if m.index == h.index then { m with closed := true } else m) }
    else y) }
def State.closeParts (s : State) (hs : List Handle) : State := hs.foldl (fun s h => s.closePart h) s

/-- Commands and remote operations of a team that have started and not completed. -/
def State.lateCmds (s : State) (tid : Nat) : List Nat :=
  (s.cmds.filter (fun k => k.team == some tid && k.state != CmdState.heldInSet)).map (fun k => k.id)
def State.lateOps (s : State) (tid : Nat) : List Nat := (s.ops.filter (fun o => o.team == tid)).map (fun o => o.id)

/-- `exit` retires its active lanes; a deferred trap of the matrix unit comes first (R152). The last lanes wait for the
team's queued matrix instructions, its commands, its remote operations and its open reductions, and take a deferred trap
first (R61, R245, R270, R329). That the `exit` waits for commands and remote operations, whose errors it delivers, is
DEDUCED, log 75. -/
def execExit (g : Guard) (s : State) : Host.Outcome State Fault Refusal :=
  s.run { op := 0x0F, sel := .guard g } (fun s c =>
    if c.t.tx.live then s.txAbort c.t.id 0x09
    else match s.raiseDeferred c.t 0x0F c.act (fun d => d.w.isMatrix) with
    | some s1 => s1
    | none =>
    if c.t.ctl.live &&& ~~~c.act ≠ 0 then
      s.commit c (fun t => { t with ctl := t.ctl.retire c.act })
    else if !(s.matrixAll c.t).isEmpty then s.parkAt c (.matrixDone none)
    else
      let s := s.placeWrites c.t.id (fun _ => true)
      match s.raiseDeferred c.t 0x0F c.act (fun _ => true) with
      | some s1 => s1
      | none =>
        let cs := s.lateCmds c.t.id
        let os := s.lateOps c.t.id
        if !cs.isEmpty then s.parkAt c (.forkSet cs)
        else if !os.isEmpty then s.parkAt c (.remote os)
        else match c.t.handles.find? (fun h => !s.partDone h) with
        | some h => s.parkAt c (.reductionClose h.inst h.index)
        | none =>
          let s1 := (s.closeParts c.t.handles).releaseMatrix c.t
          let s2 := { s1 with cmds := s1.cmds.filter (fun k => !(k.team == some c.t.id && k.state == CmdState.heldInSet)) }
          match s2.team? c.t.id with
          | none => s2
          | some t =>
            s2.putTeam { t.next with
              status := .retiring, forkOpen := false, long := none, handles := [],
              ctl := (t.next).ctl.retire c.act,
              pend := t.pend.filter (fun p => match p.op with | .load _ _ => false | .atom _ _ => true) })

/-! ### Hint words (R42, R65) -/

/-- A hint word changes its slot and leaves the others, even with no lane enabled; misuse traps when one is (R42, R65).
DEDUCED, log 78. -/
def State.hintWord (s : State) (op : Nat) (ok : Hint → Bool) (put : Hint → Hint) : Host.Outcome State Fault Refusal :=
  match s.curTeam? with
  | none => .next s
  | some t =>
    let h := t.ctl.hint
    if t.enabled ≠ 0 ∧ !ok h then .next (s.trapAt t op 0 0x04 t.enabled)
    else .next (s.putTeam { t with ctl := { t.ctl with hint := put h, pc := t.ctl.pc + 4 }, wake := none })

def execImm (v : BitVec 24) (s : State) : Host.Outcome State Fault Refusal :=
  s.hintWord 0xF0 (fun h => h.imm.isNone) (fun h => { h with imm := some v })
def execImmh (v : BitVec 24) (s : State) : Host.Outcome State Fault Refusal :=
  s.hintWord 0xF1 (fun h => h.immh.isNone && h.imm.isSome) (fun h => { h with immh := some v })
def execMod (p : BitVec 12) (s : State) : Host.Outcome State Fault Refusal :=
  s.hintWord 0xF2 (fun h => h.mod.isNone) (fun h => { h with mod := some (p ++ (0 : BitVec 12)) })

/-! ### Special registers (R66 to R68) -/

/-- The image that MSEL selects: none for a level above DEPTH. -/
def Team.selImage (t : Team) : Option Mask :=
  let i := t.ctl.msel.toNat / 32
  if i = 0 then some t.ctl.cur
  else if i = 1 then some t.ctl.live
  else if i = 2 then some t.ctl.brk
  else (t.ctl.stack.reverse[i - 3]?).map (fun l => l.image)

/-- Word w of an image. -/
def maskWord (m : Mask) (w : Nat) : Word := (m.extractLsb' (32 * w) 32).setWidth 64

/-- The progress index that PIDX reads (R67, R150). -/
def State.pidxOf (s : State) (t : Team) : Word :=
  match t.long with
  | some g => BitVec.ofNat 64 g.passes
  | none => match s.matrixQueueOf t with
    | e :: _ => BitVec.ofNat 64 e.prog
    | [] => 0

/-- Byte i of a word built from eight counts. -/
def packBytes (f : Nat → Nat) : Word := BitVec.ofNat 64 ((List.range 8).foldl (fun w i => w + f i * 256 ^ i) 0)

/-- The value of special register n in lane l (R67). -/
def State.special (s : State) (t : Team) (n l : Nat) : Word :=
  let p := t.place
  match n with
  | 0 => BitVec.ofNat 64 l
  | 1 => BitVec.ofNat 64 t.nlane
  | 2 => BitVec.ofNat 64 p.team
  | 3 => BitVec.ofNat 64 p.slot
  | 4 => BitVec.ofNat 64 p.core
  | 5 => BitVec.ofNat 64 p.cluster
  | 6 => BitVec.ofNat 64 p.lsite
  | 7 => BitVec.ofNat 64 p.ldev
  | 8 => BitVec.ofNat 64 p.launch
  | 9 => lane (p.args.getD 0 []) l
  | 10 => lane (p.args.getD 1 []) l
  | 11 => lane (p.args.getD 2 []) l
  | 12 => lane (p.args.getD 3 []) l
  | 13 => s.clock p.site
  | 14 => s.time p.site
  | 15 => s.pidxOf t
  | 16 => Mask.summary t.ctl.cur
  | 17 => BitVec.ofNat 64 t.ctl.stack.length
  | 18 => t.ctl.acting.setWidth 64
  | 19 => BitVec.ofNat 64 t.ctl.priv
  | 20 => t.ctl.tvb
  | 21 => t.tx.stat
  | 22 => t.ctl.fmt.setWidth 64
  | 23 => BitVec.ofNat 64 t.hdr.kregs
  | 24 => t.ctl.msel
  | 25 => match t.selImage with
    | some m => maskWord m (t.ctl.msel.toNat % 32)
    | none => 0
  | 26 => packBytes (fun i => (t.queue i).items.length)
  | _ => packBytes (fun i => (t.queue i).depth)

/-- `sget` (R66). -/
def execSget (g : Guard) (d : Dst) (n : BitVec 6) (s : State) : Host.Outcome State Fault Refusal :=
  s.run { op := 0xF3, sel := .guard g, dst := some d, wf := wfSget n }
    (fun s c => s.push c (vtab c.t.nlane (fun l => s.special c.t n.toNat l)))

/-- Puts a word into an image. -/
def setMaskWord (m : Mask) (w : Nat) (v : Word) : Mask :=
  (m &&& ~~~((0xFFFFFFFF : Mask) <<< (32 * w))) ||| ((v.setWidth 1024 &&& 0xFFFFFFFF) <<< (32 * w))

/-- A supervisor's write of MWORD (R68). DESIGN CHOICE (log 89): R68 names a trap for FMT and TENANT only, so bits 63:32
of the value are ignored here. -/
def Team.writeMword (t : Team) (v : Word) : Team :=
  let c := t.ctl
  let i := c.msel.toNat / 32
  let w := c.msel.toNat % 32
  let lim := Mask.low t.nlane
  if i = 1 then t.withCtl { c with live := c.live &&& setMaskWord c.live w v }
  else
    let put (m : Mask) : Mask :=
      setMaskWord m w (v &&& maskWord c.live w) &&& (lim ||| ~~~((0xFFFFFFFF : Mask) <<< (32 * w)))
    if i = 0 then t.withCtl { c with cur := put c.cur }
    else if i = 2 then t.withCtl { c with brk := put c.brk }
    else
      let j := c.stack.length - 1 - (i - 3)
      if i - 3 < c.stack.length then
        t.withCtl { c with stack := c.stack.zipIdx.map (fun x =>
          if x.2 = j then { x.1 with image := put x.1.image } else x.1) }
      else t

/-- The legal values of an `sset`, or the trap's class and code (R67, R68, R394). -/
def ssetCheck (n : Nat) (v : Word) : Option (Nat × Nat) :=
  if n = 18 && v.extractLsb' 16 48 ≠ 0 then some (0, 0x01)
  else if n = 20 && v.extractLsb' 0 11 ≠ 0 then some (4, 0x01)
  else if n = 22 && v.extractLsb' 32 32 ≠ 0 then some (1, 0x07)
  else if n = 24 && (v.extractLsb' 10 54 ≠ 0 || decide (18 < v.toNat / 32)) then some (0, 0x01)
  else none

/-- Writes special register n. -/
def Team.setSpecial (t : Team) (n : Nat) (v : Word) : Team :=
  if n = 18 then t.withCtl { t.ctl with acting := v.extractLsb' 0 16 }
  else if n = 20 then t.withCtl { t.ctl with tvb := v }
  else if n = 22 then t.withCtl { t.ctl with fmt := v.extractLsb' 0 32 }
  else if n = 24 then t.withCtl { t.ctl with msel := v }
  else t.writeMword v

/-- The level an `sset` needs (R67). -/
def ssetPriv (n : Nat) : Nat := if n = 18 ∨ n = 20 ∨ n = 25 then 1 else 0

/-- `sset` (R66). -/
def execSset (g : Guard) (a : Src) (n : BitVec 6) (s : State) : Host.Outcome State Fault Refusal :=
  s.run { op := 0xF4, sel := .guard g, srcs := [a], wf := wfSset n, priv := ssetPriv n.toNat } (fun s c =>
    let v := lane (c.val 0) c.first
    match ssetCheck n.toNat v with
    | some (cls, code) => s.trapAt c.t 0xF4 cls code c.act (if cls = 4 then c.lanes.map (fun l => (l, v)) else [])
    | none => s.commit c (fun t => t.setSpecial n.toNat v))

/-- `qcfg` (R69). A depth above the header's qdepth and an empty queue among its sources: the empty queue's trap comes first. DESIGN
CHOICE, log 115. -/
def execQcfg (g : Guard) (q : Fin 8) (a : Src) (depth1 count : BitVec 4) (s : State) :
    Host.Outcome State Fault Refusal :=
  s.run { op := 0xF5, sel := .guard g, srcs := if count = 0 then [] else [a], wf := wfQcfg a depth1 count,
          reset := some q } (fun s c =>
    let depth := depth1.toNat + 1
    let others := (List.range 8).foldl (fun n i => if i = q.val then n else n + (c.t.queue i).depth) 0
    if c.t.hdr.qdepth < depth + others then s.trapAll c 1 0x04
    else s.commit c (fun t => t.setQueue q.val { depth, items := List.replicate count.toNat (c.val 0) }))

/-! ### Software trap and return (R356, R357) -/

/-- `trap code` (R356). -/
def execTrap (g : Guard) (code : BitVec 14) (s : State) : Host.Outcome State Fault Refusal :=
  s.run { op := 0xF6, sel := .guard g } (fun s c => s.trapAll c 7 code.toNat)

/-- `eret` (R357); outside a handler it is illegal, which is found after a hint that it does not take. DESIGN CHOICE, log 105. -/
def execEret (s : State) : Host.Outcome State Fault Refusal :=
  s.run { op := 0xF7, sel := .enabled } (fun s c =>
    if !c.t.ctl.inHandler then s.trapAll c 0 0x01 else s.leaveHandler c.t.id)

end Sys2Proof.Machine
end

