-- ==== Sys2Proof/Machine/LoadStore.lean ====
section
/-! DEFINITION. Row 0x8, with `ldacq`, `strel` and `pfetch` of row 0xA (R216 to R222, R232, R233): how a load issues,
how a store enters the write buffer, accesses to control windows (R393), and accesses of a transaction (R235). -/

namespace Sys2Proof.Machine

/-! ### Shared by the memory rows -/

/-- A translation fault parks the team; in a transaction the fault enters the buffer and the transaction aborts
(R175, R236 code 0x05). -/
def State.accessFault (s : State) (c : Ctx) (wrt : Bool) (a : Word) (lvl : Bool) : State :=
  let page := gOfs a / 65536
  if c.t.tx.live then
    ((s.pageFault c.t.place.site c.t.ctl.acting.toNat page wrt false false lvl a (.team c.t.id)).2).txAbort c.t.id 0x05
  else
    match s.team? c.t.id with
    | none => s
    | some t => s.parkFault t c.t.ctl.acting.toNat page wrt false lvl a

/-- Runs the checks of R216 over the lanes of an access and goes on with f when they pass. -/
def State.withLanes (s : State) (c : Ctx) (k : AccKind) (ls : List (Nat × Word))
    (f : State → List LaneX → State) : State :=
  match s.checkLanes c.t k ls with
  | .trap cls code bad => s.trapList c cls code bad
  | .broken ofs rule => s.freezeEntry c.t.place.part c.t.place.site ofs c.t.ctl.acting.toNat rule
  | .fault a lvl => s.accessFault c k.write a lvl
  | .ok xs => f s xs

/-- The transaction touches the lines in order; answers whether it goes on (R235). -/
def State.txTouchAll (s : State) (tid : Nat) (write : Bool) : List Nat → Bool × State
  | [] => (true, s)
  | l :: r =>
    let (go, s1) := s.txTouch tid l write
    if go then s1.txTouchAll tid write r else (false, s1)

/-- A place of a control window that is a register. -/
def isReg (x : LaneX) : Bool := x.ctl && ctlPlace (x.phys / 2 ^ 37) (x.phys % 2 ^ 37) == .register

/-- The kind an access counts as: ORDER 10 makes it strong (R187). -/
def kindUnder (strong : Bool) (k : PageKind) : PageKind := if strong then .strong else k

/-- The team's earlier accesses to n bytes at a complete, before a later one of it to them (R194). -/
def State.settleBytes (s0 : State) (tid a n : Nat) : State :=
  let s := s0.settleIncs tid (fun i => overlaps a n i.ctr 8)
  match s.team? tid with
  | none => s
  | some t => s.forceAll t.coreKey
      ((t.pend.filter (fun p => p.lanes.any (fun x => overlaps a n x.addr p.size))).map (fun p => Item.pend tid p.id))

/-- Everything of the team's that stands outstanding at these lines is applied, its stores too. -/
def State.settleOwn (s : State) (tid : Nat) (lines : List Nat) : State :=
  lines.foldl (fun s l => (s.settleBytes tid (l * 64) 64).settleEntries tid (fun e => e.line == l)) s

/-- In a transaction an access makes everything that goes before it complete before it acts (R186, R235); it does not act where
that has aborted the transaction (R237). -/
def State.settleTx (s : State) (t : Team) (p : Pend) : State :=
  if t.tx.live then
    match s.team? t.id with
    | none => s
    | some u => s.forceAll u.coreKey (s.beforePend u p)
  else s

/-! ### Loads -/

/-- The ordering of an access: none by itself, an acquire, a release, each with its scope, or strong (R44, R190). -/
inductive Ord where
  | plain
  | acquire (scope : Nat)
  | release (scope : Nat)
  | strong
deriving DecidableEq, Repr

/-- A load issues: its drift entry and destination wait for the value. An acquire of site scope or wider, an access of a
transaction and an access to a control window complete at issue; an acquire of a narrower scope goes before the accesses
its scope names (R188, R190, R219, R235, R393). A load on a page that keeps reads in order, or of a line that they read,
waits for the reads of the team's queued matrix instructions (R151, R194). -/
def State.load (s : State) (c : Ctx) (size : Nat) (sign uniform : Bool) (o : Ord) (ls : List (Nat × Word)) : State :=
  s.withLanes c { size, write := false, plain := true, cross := false } ls (fun s xs =>
    let tid := c.t.id
    let ctl := xs.any (fun x => x.ctl)
    let strong := o == .strong
    let acq : Option Span := match o with | .acquire scope => some (c.t.spanOf scope) | _ => none
    if xs.any (fun x => s.mxAhead c.t (kindUnder strong x.kind) || s.mxOver c.t x.phys size) ||
        (ctl && s.mxReads c.t (fun _ => true)) then s.stall
    else
    -- a load sees the increments that the team made before (R194)
    let s := s.settleIncs tid (fun i => xs.any (fun x => overlaps x.phys size i.ctr 8))
    let s1 :=
      if ctl then s.settleAll tid
      else if xs.any (fun x => kindUnder strong x.kind == .strong) then s.settleEntries tid (fun e => e.kind == .strong)
      else s
    let (go, s2) := if c.t.tx.live && !s1.txGone c.t then s1.txTouchAll tid false (xs.map (fun x => x.phys / 64)) else (true, s1)
    if !go || s1.txGone c.t then s2
    else
      let (id, s3) := s2.fresh
      let lanes := xs.map (fun x =>
        { lane := x.lane, addr := x.phys, kind := kindUnder strong x.kind, repl := [], opnd := 0, expect := 0,
          got := if isReg x then some (s3.ctlRead (x.phys / 2 ^ 37) (x.phys % 2 ^ 37), 0) else none : LaneAcc })
      let p : Pend := { id, seq := c.t.seq, op := .load size sign, release := none, acquire := acq, dst := c.sh.dst, uniform,
                        age := 0, act := c.act, lanes }
      let s3 := s3.settleTx c.t p
      if s3.txGone c.t then s3
      else
      let s4 := (s3.commit c (fun t =>
        let t1 := t.pushAll c.sh c.act (vtab t.nlane (fun _ => 0)) c.pass
        { t1 with seq := t.seq + 1, pend := t1.pend ++ [p] })).noteAccess c.t xs true
      if ctl || acq == some allSpan || c.t.tx.live then s4.force (s4.depth c.t.coreKey) (.pend tid id) else s4)

/-! ### Stores -/

/-- The entry of a core's buffer that a store to a line merges into (R169): the team's newest entry of its bank, when
it stands for this line and is no release. A strong store merges only into the team's newest entry of all (R197). An entry of another
page kind or replica set, which an alias of the line may have, takes no store: DESIGN CHOICE, log 117. -/
def mergeTarget (w : List WbEntry) (tid line : Nat) (kind : PageKind) (repl : List Nat) : Option WbEntry :=
  match (w.filter (fun e => e.team == tid && e.line % 8 == line % 8)).getLast? with
  | none => none
  | some e =>
    if e.line = line ∧ e.release = none ∧ e.kind = kind ∧ e.repl = repl ∧
        (kind ≠ .strong ∨ (w.filter (fun f => f.team == tid)).getLast? = some e)
    then some e else none

/-- Puts a byte into an entry. -/
def putByte (x : Nat) (b : Byte) : List (Nat × Byte) → List (Nat × Byte)
  | [] => [(x, b)]
  | (y, c) :: r => if x = y then (x, b) :: r else if x < y then (x, b) :: (y, c) :: r else (y, c) :: putByte x b r

def putRun (bs : List (Nat × Byte)) (o : Nat) : List Byte → List (Nat × Byte)
  | [] => bs
  | b :: r => putRun (putByte o b bs) (o + 1) r

/-- Changes the newest entry of a buffer that p holds of. -/
def mapLast (p : WbEntry → Bool) (f : WbEntry → WbEntry) : List WbEntry → List WbEntry
  | [] => []
  | e :: r => if r.any p then e :: mapLast p f r else if p e then f e :: r else e :: r

/-- One lane of a store places its bytes (R169): it merges, or takes a new entry, waiting for the head of a full
bank to drain. -/
def State.enterStore (s : State) (tid core seq : Nat) (release : Option Span) (x : LaneX) (kind : PageKind)
    (bs : List Byte) : State :=
  let line := x.phys / 64
  let s0 := (s.settleIncs tid (fun i => spanHas release i.ctr)).settleBytes tid x.phys bs.length
  let into := if release.isSome then none else mergeTarget (s0.core core).wbuf tid line kind x.repl
  match into with
  | some _ =>
    let s1 := s0.settleAtoms tid
    let c := s1.core core
    if (mergeTarget c.wbuf tid line kind x.repl).isSome then
      let put (f : WbEntry) : WbEntry := { f with seq, bytes := putRun f.bytes (x.phys % 64) bs }
      s1.putCore { c with wbuf := mapLast (fun f => f.team == tid && f.line % 8 == line % 8) put c.wbuf }
    else
      let (id, s2) := s1.fresh
      s2.putCore { c with wbuf := c.wbuf ++ [{ id, team := tid, seq, line, bytes := putRun [] (x.phys % 64) bs, kind,
                                               release, repl := x.repl }] }
  | none =>
    let bank := (s0.core core).wbuf.filter (fun e => e.line % 8 == line % 8)
    let s1 := match bank with
      | e :: _ => if 8 ≤ bank.length then s0.force (s0.depth core) (.entry core e.id) else s0
      | [] => s0
    let (id, s2) := s1.fresh
    let c := s2.core core
    s2.putCore { c with wbuf := c.wbuf ++ [{ id, team := tid, seq, line, bytes := putRun [] (x.phys % 64) bs, kind,
                                             release, repl := x.repl }] }

/-- Writes to control windows, lane by lane; the first refused lane is answered (R393). -/
def State.ctlStore (s : State) (t : Team) : List (LaneX × List Byte) → Except LaneX State
  | [] => .ok s
  | (x, bs) :: r =>
    if !x.ctl then s.ctlStore t r
    else
      let site := x.phys / 2 ^ 37
      let ofs := x.phys % 2 ^ 37
      let done := match ctlPlace site ofs with
        | .register => s.ctlWrite site ofs (BitVec.ofNat 64 (leNat bs)) t.mon
        | .table => s.tableWrite site ofs bs
        | .frame _ _ => some { s with mem := Mem.setBytes s.mem x.phys bs }
        | .none => none
      match done with
      | none => .error x
      | some s1 => s1.ctlStore t r

/-- A store: into the write buffer lane by lane, ascending; in place under a transaction; at once, after everything
earlier, in a control window. A release stalls for the remote operations its scope orders (R190), and every store for
the reads of queued matrix instructions that go before it (R151). In a transaction the team's own earlier stores to the
lines are applied before the lines are held, so that an abort keeps them (R194, R237). A store to a control window in a
transaction acts at once: it holds no line and no abort undoes it. DESIGN CHOICE, log 100. -/
def State.store (s : State) (c : Ctx) (size : Nat) (o : Ord) (ls : List (Nat × Word)) (data : Nat → List Byte) : State :=
  s.withLanes c { size, write := true, plain := true, cross := true } ls (fun s xs =>
    let tid := c.t.id
    let items := xs.map (fun x => (x, data x.lane))
    let strong := o == .strong
    let (rel, held) : Option Span × Bool := match o with
      | .release scope => (some (c.t.spanOf scope), !(s.remoteUnder c.t scope).isEmpty)
      | _ => (none, false)
    let full := xs.any (fun x => x.ctl) || (match rel with | some r => r != (0, 0) | none => false)
    if held || (full && s.mxReads c.t (fun _ => true)) || xs.any (fun x => s.mxAhead c.t (kindUnder strong x.kind)) then s.stall
    else
    let s1 := if xs.any (fun x => x.ctl) then s.settleAll tid else s
    let bad := items.filter (fun i => match s1.ctlStore c.t [i] with | .error _ => true | .ok _ => false)
    if !bad.isEmpty then s1.trapList c 4 0x03 (bad.map (fun i => (i.1.lane, i.1.vaddr)))
    else match s1.ctlStore c.t items with
    | .error x => s1.trapList c 4 0x03 [(x.lane, x.vaddr)]
    | .ok s2 =>
      let rest := items.filter (fun i => !i.1.ctl)
      if c.t.tx.live then
        if rest.any (fun i => !i.1.repl.isEmpty) then s.txAbort tid 0x03
        else
          let lines := rest.map (fun i => i.1.phys / 64)
          let s2 := (s2.settleOwn tid lines).settleFetched tid lines
          let (go, s3) := if s2.txGone c.t then (false, s2) else s2.txTouchAll tid true lines
          if !go then s3
          else
            let s4 := rest.foldl (fun s i => s.portWrite tid i.1.phys i.2) s3
            (s4.commit c (fun t => { t with seq := t.seq + 1 })).noteAccess c.t xs false
      else
        let s3 := rest.foldl (fun s i =>
          s.enterStore tid c.t.coreKey c.t.seq rel i.1 (kindUnder strong i.1.kind) i.2) s2
        (s3.commit c (fun t => { t with seq := t.seq + 1 })).noteAccess c.t xs false)

/-! ### Forms -/

/-- Lane addresses of an M-format word: base + off8 × size (R219). -/
def addrsM (c : Ctx) (size : Nat) (off : BitVec 8) : List (Nat × Word) :=
  let o := BitVec.ofInt 64 (extField { c.hint with immh := none } off * size)
  c.lanes.map (fun l => (l, lane (c.val 0) l + o))

def shapeLoad (op : Nat) (g : Guard) (d : Dst) (b : Src) : Shape :=
  { op, sel := .guard g, srcs := [b], dst := some d, pass := some b, imm := true, mod := .ldst }
/-- The base pops before the data where both name one queue: the order of the fields, which R36 does not give for a store.
DESIGN CHOICE, log 80. -/
def shapeStore (op : Nat) (g : Guard) (d b : Src) : Shape :=
  { op, sel := .guard g, srcs := [b, d], imm := true, mod := .ldst }

/-- SCOPE of the pending mod; site where there is no mod (R45). -/
def scopeOf (h : Hint) : Nat := match h.mod with | some m => modScope m | none => 2

/-- ORDER of the pending mod (R44): 01 is an acquire on a load, a release on a store. -/
def ordOf (load : Bool) (h : Hint) : Ord :=
  match h.mod with
  | none => .plain
  | some m =>
    if modOrder m = 1 then (if load then .acquire (modScope m) else .release (modScope m))
    else if modOrder m = 2 then .strong
    else .plain

/-- A plain M-format load. -/
def State.runLoad (s : State) (op size : Nat) (sign : Bool) (g : Guard) (d : Dst) (b : Src) (off : BitVec 8) :
    Host.Outcome State Fault Refusal :=
  s.run (shapeLoad op g d b) (fun s c =>
    s.load c size sign false (ordOf true c.hint) (addrsM c size off))

/-- A plain M-format store. -/
def State.runStore (s : State) (op size : Nat) (g : Guard) (d b : Src) (off : BitVec 8) :
    Host.Outcome State Fault Refusal :=
  s.run (shapeStore op g d b) (fun s c =>
    s.store c size (ordOf false c.hint) (addrsM c size off)
      (fun l => leBytes size (lane (c.val 1) l).toNat))

/-- Load a byte, sign-extended (R219). -/
def execLdI8 (g : Guard) (d : Dst) (b : Src) (off : BitVec 8) (s : State) : Host.Outcome State Fault Refusal :=
  s.runLoad 0x80 1 true g d b off
/-- Load a byte, zero-extended (R219). -/
def execLdN8 (g : Guard) (d : Dst) (b : Src) (off : BitVec 8) (s : State) : Host.Outcome State Fault Refusal :=
  s.runLoad 0x81 1 false g d b off
/-- Load 16 bits, sign-extended (R219). -/
def execLdI16 (g : Guard) (d : Dst) (b : Src) (off : BitVec 8) (s : State) : Host.Outcome State Fault Refusal :=
  s.runLoad 0x82 2 true g d b off
/-- Load 16 bits, zero-extended (R219). -/
def execLdN16 (g : Guard) (d : Dst) (b : Src) (off : BitVec 8) (s : State) : Host.Outcome State Fault Refusal :=
  s.runLoad 0x83 2 false g d b off
/-- Load 32 bits, sign-extended (R219). -/
def execLdI32 (g : Guard) (d : Dst) (b : Src) (off : BitVec 8) (s : State) : Host.Outcome State Fault Refusal :=
  s.runLoad 0x84 4 true g d b off
/-- Load 32 bits, zero-extended (R219). -/
def execLdN32 (g : Guard) (d : Dst) (b : Src) (off : BitVec 8) (s : State) : Host.Outcome State Fault Refusal :=
  s.runLoad 0x85 4 false g d b off
/-- Load 64 bits (R219). -/
def execLd64 (g : Guard) (d : Dst) (b : Src) (off : BitVec 8) (s : State) : Host.Outcome State Fault Refusal :=
  s.runLoad 0x86 8 false g d b off
/-- Store 8 bits (R219). -/
def execSt8 (g : Guard) (d b : Src) (off : BitVec 8) (s : State) : Host.Outcome State Fault Refusal :=
  s.runStore 0x88 1 g d b off
/-- Store 16 bits (R219). -/
def execSt16 (g : Guard) (d b : Src) (off : BitVec 8) (s : State) : Host.Outcome State Fault Refusal :=
  s.runStore 0x89 2 g d b off
/-- Store 32 bits (R219). -/
def execSt32 (g : Guard) (d b : Src) (off : BitVec 8) (s : State) : Host.Outcome State Fault Refusal :=
  s.runStore 0x8A 4 g d b off
/-- Store 64 bits (R219). -/
def execSt64 (g : Guard) (d b : Src) (off : BitVec 8) (s : State) : Host.Outcome State Fault Refusal :=
  s.runStore 0x8B 8 g d b off

/-- The register after the one an `ldp` or `stp` names. -/
def pairOfDst : Dst → List Nat
  | .k n => [n.val + 1]
  | _ => []
def pairOfSrc : Src → List Nat
  | .k n => [n.val + 1]
  | _ => []

/-- Load 16 bytes into a register pair (R220). -/
def execLdp (g : Guard) (d : Dst) (b : Src) (off : BitVec 8) (s : State) : Host.Outcome State Fault Refusal :=
  s.run { shapeLoad 0x87 g d b with regs := pairOfDst d, wf := wfLdp d } (fun s c =>
    s.load c 16 false false (ordOf true c.hint) (addrsM c 16 off))

/-- Store 16 bytes from a register pair (R220). -/
def execStp (g : Guard) (d b : Src) (off : BitVec 8) (s : State) : Host.Outcome State Fault Refusal :=
  s.run { shapeStore 0x8C g d b with regs := pairOfSrc d, wf := wfStp d } (fun s c =>
    let hi := c.t.k ((pairOfSrc d).headD 0)
    s.store c 16 (ordOf false c.hint) (addrsM c 16 off)
      (fun l => leBytes 8 (lane (c.val 1) l).toNat ++ leBytes 8 (lane hi l).toNat))

/-- One 64-bit word at the lowest active lane's address, for every active lane (R221). -/
def execLdu (g : Guard) (d : Dst) (b : Src) (off : BitVec 8) (s : State) : Host.Outcome State Fault Refusal :=
  s.run (shapeLoad 0x8F g d b) (fun s c =>
    s.load c 8 false true (ordOf true c.hint) ((addrsM c 8 off).take 1))

/-- Size of an indexed access under WIDTH (R222). -/
def sizeX (h : Hint) : Nat :=
  match h.mod with
  | none => 8
  | some m => if modWidth m = 0 then 8 else if modWidth m = 1 then 4 else if modWidth m = 2 then 2 else 1

/-- Lane addresses of an indexed access: base + index × scale (R222). -/
def addrsX (c : Ctx) (f : Fin 4) : List (Nat × Word) :=
  c.lanes.map (fun l => (l, lane (c.val 0) l + lane (c.val 1) l * BitVec.ofNat 64 (2 ^ f.val)))

/-- Indexed load, zero-extended (R222). -/
def execLdx (g : Guard) (d : Dst) (a b : Src) (f : Fin 4) (s : State) : Host.Outcome State Fault Refusal :=
  s.run { op := 0x8D, sel := .guard g, srcs := [a, b], dst := some d, pass := some a, mod := .width } (fun s c =>
    s.load c (sizeX c.hint) false false .plain (addrsX c f))

/-- Indexed store of the low WIDTH bits (R222). -/
def execStx (g : Guard) (d : Src) (a b : Src) (f : Fin 4) (s : State) : Host.Outcome State Fault Refusal :=
  s.run { op := 0x8E, sel := .guard g, srcs := [a, b, d], mod := .width } (fun s c =>
    s.store c (sizeX c.hint) .plain (addrsX c f) (fun l => leBytes (sizeX c.hint) (lane (c.val 2) l).toNat))

/-- Acquire load of 64 bits (R232). It takes imm as R43, R218 and R232 say, though R46 names only the B-format words of its row.
DESIGN CHOICE, log 109. -/
def execLdacq (g : Guard) (d : Dst) (b : Src) (off : BitVec 8) (s : State) : Host.Outcome State Fault Refusal :=
  s.run { shapeLoad 0xA7 g d b with mod := .scope } (fun s c =>
    s.load c 8 false false (.acquire (scopeOf c.hint)) (addrsM c 8 off))

/-- Release store of 64 bits (R232). It takes imm as `ldacq` does. DESIGN CHOICE, log 109. -/
def execStrel (g : Guard) (d b : Src) (off : BitVec 8) (s : State) : Host.Outcome State Fault Refusal :=
  s.run { shapeStore 0xA8 g d b with mod := .scope } (fun s c =>
    s.store c 8 (.release (scopeOf c.hint)) (addrsM c 8 off) (fun l => leBytes 8 (lane (c.val 1) l).toNat))

/-- Asks for lines; never traps on an address and changes nothing a program can read (R233). It takes imm as `ldacq` does. DESIGN
CHOICE, log 109. -/
def execPfetch (g : Guard) (b : Src) (off : BitVec 8) (s : State) : Host.Outcome State Fault Refusal :=
  s.run { op := 0xA9, sel := .guard g, srcs := [b], imm := true } (fun s c =>
    let xs := (addrsM c 8 off).filterMap (fun x =>
      match s.checkLane c.t { size := 8, write := false, plain := false, cross := false } x.1 x.2 with
      | .ok y => if y.kind = .strong then none else some y
      | _ => none)
    (s.commit c id).noteAccess c.t xs true)

/-! ### Events -/

/-- A load's data return: the lanes named take their values, once everything ordered before it is complete, at a site
that works (R165, R219, R364). -/
def execLoadReturn (team load : Nat) (lanes : Mask) (s : State) : Host.Outcome State Fault Refusal :=
  match s.team? team with
  | none => .next s
  | some t =>
    match t.pend.find? (fun p => p.id == load) with
    | none => .next s
    | some p =>
      match p.op with
      | .atom _ _ => .next s
      | .load _ _ =>
        if (s.before (.pend team load)).isEmpty ∧ s.live t.place.site then .next (s.advance team load lanes) else .next s

/-- The entry at the head of a bank is applied, once nothing ordered before it is outstanding, at a site that works (R169,
R364). -/
def execWriteBufferDrain (core bank : Nat) (s : State) : Host.Outcome State Fault Refusal :=
  match (s.core core).wbuf.find? (fun e => e.line % 8 == bank) with
  | none => .next s
  | some e =>
    if (s.before (.entry core e.id)).isEmpty ∧ s.live (coreSite core) then .next (s.drain core e) else .next s

end Sys2Proof.Machine
end

