-- ==== Sys2Proof/Machine/Atomics.lean ====
section
/-! DEFINITION. Row 0x9: atomics and reductions (R223 to R228). -/

namespace Sys2Proof.Machine

/-- Width 32 under a mod (R223). -/
def atom32 (h : Hint) : Bool := match h.mod with | some m => modWidth m == 1 | none => false

def AOrd.acq : AOrd → Bool
  | .acquire => true
  | .acqRel => true
  | .relaxed => false
  | .release => false
def AOrd.rel : AOrd → Bool
  | .release => true
  | .acqRel => true
  | .relaxed => false
  | .acquire => false

/-- An atomic enters the write queue of its port, or in a transaction or under an acquire of site scope or wider executes at
once (R188, R190, R223, R235, R236). A release waits for what its scope orders before it: the team's increments go first,
and its remote operations, and the reads of its queued matrix instructions, make it stall (R151, R188, R190). Source 2,
where there is one, is the expected value. -/
def State.atomic (s : State) (c : Ctx) (o : RatomOp) (f : AOrd) : State :=
  let w32 := atom32 c.hint
  let size := if w32 then 4 else 8
  let ls := c.lanes.map (fun l => (l, lane (c.val 0) l))
  s.withLanes c { size, write := true, plain := false, cross := false } ls (fun s xs =>
    let tid := c.t.id
    let lines := xs.map (fun x => x.phys / 64)
    let span := c.t.spanOf (scopeOf c.hint)
    let rel : Option Span := if AOrd.rel f then some span else none
    let acq : Option Span := if AOrd.acq f then some span else none
    let held := AOrd.rel f && (!(s.remoteUnder c.t (scopeOf c.hint)).isEmpty || (span != (0, 0) && s.mxReads c.t (fun _ => true)))
    if c.t.tx.live && xs.any (fun x => !x.repl.isEmpty) then s.txAbort tid 0x03
    else if held || xs.any (fun x => s.mxAhead c.t x.kind ||
        ((c.sh.dst.isSome || acq.isSome) && s.mxOver c.t x.phys size)) then s.stall
    else
      -- the team's increments of these bytes, and those that a release orders, go first (R188, R194)
      let s0 := s.settleIncs tid (fun i => spanHas rel i.ctr || xs.any (fun x => overlaps x.phys size i.ctr 8))
      let (id, s1) := s0.fresh
      let p : Pend := { id, seq := c.t.seq, op := .atom o w32, release := rel, acquire := acq, dst := c.sh.dst, uniform := false,
                        age := 0, act := c.act, lanes := xs.map (fun x =>
                          { lane := x.lane, addr := x.phys, kind := x.kind, repl := x.repl, opnd := lane (c.val 1) x.lane,
                            expect := lane (c.val 2) x.lane, got := none }) }
      let s2 := (if c.t.tx.live then s1.settleOwn tid lines else s1).settleTx c.t p
      let (go, s3) :=
        if s2.txGone c.t then (false, s2) else if c.t.tx.live then s2.txTouchAll tid true lines else (true, s2)
      if !go then s3
      else
        let s4 := (s3.commit c (fun t =>
          let t1 := t.pushAll c.sh c.act (vtab t.nlane (fun _ => 0)) c.pass
          { t1 with seq := t.seq + 1, pend := t1.pend ++ [p] })).noteAccess c.t xs false
        if acq == some allSpan || c.t.tx.live then s4.force (s4.depth c.t.coreKey) (.pend tid id) else s4)

/-- A returning atomic. -/
def State.runAtom (s : State) (op : Nat) (o : RatomOp) (g : Guard) (d : Dst) (a b : Src) (f : AOrd) :
    Host.Outcome State Fault Refusal :=
  s.run { op, sel := .guard g, srcs := [a, b], dst := some d, pass := some a, mod := .atomic }
    (fun s c => s.atomic c o f)

/-- Fetch and add (R224). -/
def execAadd (g : Guard) (d : Dst) (a b : Src) (f : AOrd) (s : State) : Host.Outcome State Fault Refusal :=
  s.runAtom 0x90 (.op .add) g d a b f
/-- Fetch and AND (R224). -/
def execAand (g : Guard) (d : Dst) (a b : Src) (f : AOrd) (s : State) : Host.Outcome State Fault Refusal :=
  s.runAtom 0x91 (.op .and) g d a b f
/-- Fetch and OR (R224). -/
def execAor (g : Guard) (d : Dst) (a b : Src) (f : AOrd) (s : State) : Host.Outcome State Fault Refusal :=
  s.runAtom 0x92 (.op .or) g d a b f
/-- Fetch and XOR (R224). -/
def execAxor (g : Guard) (d : Dst) (a b : Src) (f : AOrd) (s : State) : Host.Outcome State Fault Refusal :=
  s.runAtom 0x93 (.op .xor) g d a b f
/-- Signed minimum (R224). -/
def execAmin (g : Guard) (d : Dst) (a b : Src) (f : AOrd) (s : State) : Host.Outcome State Fault Refusal :=
  s.runAtom 0x94 (.op .min) g d a b f
/-- Signed maximum (R224). -/
def execAmax (g : Guard) (d : Dst) (a b : Src) (f : AOrd) (s : State) : Host.Outcome State Fault Refusal :=
  s.runAtom 0x95 (.op .max) g d a b f
/-- Unsigned minimum (R224). -/
def execAminn (g : Guard) (d : Dst) (a b : Src) (f : AOrd) (s : State) : Host.Outcome State Fault Refusal :=
  s.runAtom 0x96 (.op .minn) g d a b f
/-- Unsigned maximum (R224). -/
def execAmaxn (g : Guard) (d : Dst) (a b : Src) (f : AOrd) (s : State) : Host.Outcome State Fault Refusal :=
  s.runAtom 0x97 (.op .maxn) g d a b f
/-- Swap (R224). -/
def execAswp (g : Guard) (d : Dst) (a b : Src) (f : AOrd) (s : State) : Host.Outcome State Fault Refusal :=
  s.runAtom 0x98 .swp g d a b f
/-- Compare and swap; the expected value is the destination's old value (R224, R225). -/
def execAcas (g : Guard) (d : Dst) (a b : Src) (f : AOrd) (s : State) : Host.Outcome State Fault Refusal :=
  s.run { op := 0x99, sel := .guard g, srcs := [a, b, oldOf d], dst := some d, pass := some a, mod := .atomic }
    (fun s c => s.atomic c .cas f)
/-- Float add to nearest even (R226). -/
def execAfadd (g : Guard) (d : Dst) (a b : Src) (f : AOrd) (s : State) : Host.Outcome State Fault Refusal :=
  s.runAtom 0x9A (.op .fadd) g d a b f
/-- A reduction: applied at the port, returns and pushes nothing (R228). -/
def execRed (g : Guard) (o : AtomOp) (a b : Src) (f : AOrd) (s : State) : Host.Outcome State Fault Refusal :=
  s.run { op := 0x9B, sel := .guard g, srcs := [a, b], mod := .atomic } (fun s c => s.atomic c (.op o) f)

/-- One write-queue entry is applied: the lanes of an atomic that lie in the line of the lane named, in ascending
order, at a site that works (R223, R227, R364). -/
def execWriteQueueApply (team op lane : Nat) (s : State) : Host.Outcome State Fault Refusal :=
  match s.team? team with
  | none => .next s
  | some t =>
    match t.pend.find? (fun p => p.id == op) with
    | none => .next s
    | some p =>
      match p.op, p.lanes.find? (fun a => a.lane == lane) with
      | .atom _ _, some a =>
        if (s.before (.pend team op)).isEmpty ∧ s.live t.place.site then
          let m : Mask := (p.lanes.filter (fun b => b.addr / 64 == a.addr / 64)).foldl
            (fun m b => m ||| (1 <<< b.lane : Mask)) 0
          .next (s.advance team op m)
        else .next s
      | _, _ => .next s

end Sys2Proof.Machine
end

