-- ==== Sys2Proof/Machine/Copy.lean ====
section
/-! DEFINITION. Engine commands (R242 to R248): the ranges a command reads and writes, the checks at issue, its segments,
and how an engine moves the bytes of one chunk. A segment of a copy or fill is named by its first byte's offset, one of a
gather or scatter by its element's index. -/

namespace Sys2Proof.Machine

/-! ### Segments of a command (R179, R243) -/

/-- Address of byte o of a strided or plain side. -/
def sideAt (op : Nat) (args : List Word) (src : Bool) (o : Nat) : Word :=
  let a := cArg args (if src then 1 else 0)
  if op = 0xB1 then
    let w := cNum args 2
    a + BitVec.ofNat 64 (o / w) * cArg args (if src then 5 else 4) + BitVec.ofNat 64 (o % w)
  else a + BitVec.ofNat 64 o

/-- The size of the page of an address, where these 32 MiB blocks are pages (R170). -/
def pageSize (bigs : List Nat) (a : Word) : Nat := if bigs.contains (gOfs a / 2 ^ 25) then 2 ^ 25 else 65536
def toPageEnd (bigs : List Nat) (a : Word) : Nat := pageSize bigs a - a.toNat % pageSize bigs a

/-- Bytes from offset o on that are contiguous on both sides: to the row's end or a page's end. -/
def rowRun (bigs : List Nat) (op : Nat) (args : List Word) (o : Nat) : Nat :=
  let row := if op = 0xB1 then cNum args 2 - o % cNum args 2 else cmdTotal op args - o
  let n := min row (toPageEnd bigs (sideAt op args false o))
  if op = 0xB4 then n else min n (toPageEnd bigs (sideAt op args true o))

/-- Two offsets lie in one source page and one destination page. -/
def samePages (bigs : List Nat) (op : Nat) (args : List Word) (o p : Nat) : Bool :=
  let same (src : Bool) : Bool :=
    let a := sideAt op args src o
    let b := sideAt op args src p
    a.toNat / pageSize bigs a == b.toNat / pageSize bigs a
  same false && (op == 0xB4 || same true)

/-- End of the largest run from offset o that lies within one source page and one destination page (R179). -/
def segEnd (bigs : List Nat) (op : Nat) (args : List Word) : Nat → Nat → Nat
  | 0, o => o
  | fuel + 1, o =>
    let e := o + rowRun bigs op args o
    if op = 0xB1 ∧ e < cmdTotal op args ∧ samePages bigs op args o e then segEnd bigs op args fuel e else e

/-- Bytes of the segment that starts at o. An element of a gather or scatter is a segment of its own: log 82. -/
def segLen (bigs : List Nat) (op fn : Nat) (args : List Word) (o : Nat) : Nat :=
  if isElem op then elemSize fn else segEnd bigs op args (if op = 0xB1 then cNum args 3 + 1 else 1) o - o

/-- The `cdrain` paths a command counts toward (R180): those its destination range meets; a scatter counts toward all
three. A destination all of whose offsets lie in holes of R22, which a user's table may map, counts toward none: DESIGN CHOICE,
log 118. -/
def cmdPaths (op fn : Nat) (args : List Word) : List CPath :=
  if op = 0xB3 then [.scratch, .vault, .dram]
  else
    match (cmdRanges op fn args).find? (fun r => r.2.2) with
    | none => []
    | some (a, n, _) =>
      let o := gOfs a
      let meet (lo hi : Nat) : Bool := decide (0 < n) && decide (o < hi) && decide (lo < o + n)
      (if meet 0 0x0800000000 then [.dram] else []) ++ (if meet 0x1000000000 0x1040000000 then [.vault] else []) ++
      (if meet 0x1800000000 0x1804000000 then [.scratch] else [])

/-! ### Checks of a range at issue (R245) -/

/-- The party an address is checked for: the site, its logical numbers, the tenant and level. -/
structure Party where
  site : Nat
  ldev : Nat
  lsite : Nat
  tenant : Nat
  user : Bool
  /-- bytes of a remote operation, whose offset goes through the tenant's table even in a control window (R393) -/
  remote : Bool := false
  /-- the core whose TLB stands in front of the walk (R174) -/
  core : Option Nat := none
deriving DecidableEq, Repr

def Team.party (t : Team) : Party :=
  { site := t.place.site, ldev := t.place.ldev, lsite := t.place.lsite, tenant := t.ctl.acting.toNat, user := !t.sup,
    core := some t.coreKey }

/-- Outcome of a range check. -/
inductive RangeChk where
  | ok | seam | prot
  | broken (ofs rule : Nat)
deriving DecidableEq, Repr

/-- n bytes from a, pages that translate checked for permission, pages that fault passed over. -/
def State.checkRange (s : State) (p : Party) (a : Word) (n : Nat) (write : Bool) : RangeChk :=
  let o := gOfs a
  if n = 0 then .ok
  else if gDev a ≠ p.ldev ∨ gSite a ≠ p.lsite ∨ 2 ^ 37 < o + n then .seam
  else if 0x1F00000000 < o + n then .prot
  else
    let pages := (List.range ((o + n - 1) / 65536 - o / 65536 + 1)).map (fun i => max o ((o / 65536 + i) * 65536))
    let rs := pages.map (fun q =>
      if !p.user && region q == .hole then RangeChk.prot
      else match xlate s p.site p.core p.tenant p.user (if write then .write else .read) q with
        | .prot => .prot
        | .broken r => .broken q r
        | .ok _ _ _ => .ok
        | .fault _ => .ok)
    if rs.contains .prot then .prot
    else (rs.find? (fun r => r != .ok)).getD .ok

/-- A counter's address, or the address of any 8-byte word an engine or port changes (R245, R250). -/
inductive CtrChk where
  | ok (phys : Nat) (repl : Bool)
  | align | seam | prot
  | fault (lvl : Bool)
  | broken (ofs rule : Nat)
deriving DecidableEq, Repr

/-- It traps in the memory class (R49, step 8). -/
def CtrChk.memory : CtrChk → Bool
  | .align | .seam | .prot => true
  | .ok .. | .fault _ | .broken .. => false

/-- It ends in a translation fault. -/
def CtrChk.faults : CtrChk → Bool
  | .fault _ => true
  | .ok .. | .align | .seam | .prot | .broken .. => false

def State.checkWord (s : State) (p : Party) (a : Word) (size : Nat) (need : Need) : CtrChk :=
  if a.toNat % size ≠ 0 then .align
  else if gDev a ≠ p.ldev ∨ gSite a ≠ p.lsite then .seam
  else if (!p.remote ∧ region (gOfs a) = .control) ∨ (!p.user ∧ region (gOfs a) = .hole) then .prot
  else match xlate s p.site p.core p.tenant p.user need (gOfs a) with
    | .ok phys _ l => .ok phys l.repl
    | .prot => .prot
    | .fault l => .fault l
    | .broken r => .broken (gOfs a) r

/-! ### Moving bytes -/

/-- A run of an engine's or a packet's bytes after translation: pieces of physical addresses, or what stops it. -/
inductive RunX where
  | ok (ps : List (Nat × Nat × List Nat))
  | bad (a : Word)
  | fault (a : Word) (lvl : Bool)
  | broken (ofs rule : Nat)
deriving DecidableEq, Repr

/-- Translates n bytes from a, page by page. -/
def State.xlateRun (s : State) (p : Party) (need : Need) : Nat → Word → Nat → RunX
  | 0, _, _ => .ok []
  | fuel + 1, a, n =>
    if n = 0 then .ok []
    else if gDev a ≠ p.ldev ∨ gSite a ≠ p.lsite ∨ (!p.remote ∧ region (gOfs a) = .control) ∨
        (!p.user ∧ region (gOfs a) = .hole) then .bad a
    else
      let k := min n (toPageEnd [] a)
      match xlate s p.site p.core p.tenant p.user need (gOfs a) with
      | .prot => .bad a
      | .fault l => .fault a l
      | .broken r => .broken (gOfs a) r
      | .ok phys _ leaf =>
        match s.xlateRun p need fuel (a + BitVec.ofNat 64 k) (n - k) with
        | .ok ps => .ok ((phys, k, if need == .write then replSites s p.site p.ldev p.lsite p.tenant leaf else []) :: ps)
        | r => r

/-- Lines of a physical run. -/
def linesOf (a n : Nat) : List Nat :=
  if n = 0 then [] else (List.range ((a + n - 1) / 64 - a / 64 + 1)).map (fun i => a / 64 + i)

/-- An engine, a packet or the scheduler reads pieces directly from memory (R178); transactions that hold a line abort
first (R235). -/
def State.readPieces (s : State) (ps : List (Nat × Nat × List Nat)) : State × List Byte :=
  ps.foldl (fun (acc : State × List Byte) p =>
    let s1 := (linesOf p.1 p.2.1).foldl (fun s l => s.txOutside 0 l) acc.1
    (s1, acc.2 ++ Mem.bytes s1.mem p.1 p.2.1)) (s, [])

/-- Writes bytes over pieces, one line at a time. -/
def State.writePieces (s : State) (ps : List (Nat × Nat × List Nat)) (bs : List Byte) : State :=
  (ps.foldl (fun (acc : State × List Byte) p =>
    let part := acc.2.take p.2.1
    let s1 := (linesOf p.1 p.2.1).foldl (fun s l =>
      let lo := max p.1 (l * 64)
      let hi := min (p.1 + p.2.1) (l * 64 + 64)
      (s.settleFetched 0 (writeLines lo p.2.2)).portWriteAll 0 lo p.2.2 ((part.drop (lo - p.1)).take (hi - lo))) acc.1
    (s1, acc.2.drop p.2.1)) (s, bs)).1

/-! ### Commands in flight -/

def State.cmd? (s : State) (id : Nat) : Option Cmd := s.cmds.find? (fun k => k.id == id)
def State.putCmd (s : State) (k : Cmd) : State :=
  { s with cmds := s.cmds.map (fun j => if j.id == k.id then k else j) }
def State.dropCmd (s : State) (id : Nat) : State := { s with cmds := s.cmds.filter (fun j => j.id != id) }

def Cmd.total (k : Cmd) : Nat := cmdTotal k.op k.args

/-- The party of a command: its numbers are those its arguments named when they passed the checks. -/
def Cmd.party (k : Cmd) : Party :=
  let a := cArg k.args (if k.op = 0xB3 then 1 else 0)
  { site := k.site, ldev := gDev a, lsite := gSite a, tenant := k.tenant, user := k.user, core := k.team.map (fun _ => k.core) }

/-- An increment of a counter by an address of a tenant's, to be translated and applied at its port. -/
def State.addIncrement (s : State) (site tenant : Nat) (user : Bool) (target : Word) : State :=
  let (id, s1) := s.fresh
  { s1 with fills := s1.fills ++ [{ id, site, tenant, user, target, value := 1, kind := 1, evFull := 0x07, evBad := 0x07,
                                    part := s.partOf site, waiting := false }] }

/-- A command completes: its counter and its set's counter take their increments (R244, R257). -/
def State.finishCmd (s : State) (k : Cmd) : State :=
  let s1 := s.dropCmd k.id
  let s2 := if k.fn % 2 = 1 then s1.addIncrement k.site k.tenant k.user (cArg k.args (cmdArgs k.op)) else s1
  match k.setCtr with
  | some a => s2.addIncrement k.site k.tenant k.user a
  | none => s2

/-- The progress index (R247): the lowest offset, or element, not known written. -/
def Cmd.progress (k : Cmd) : Nat :=
  if isElem k.op then k.upto
  else match k.segs.find? (fun g => g.lo == k.upto) with | some g => k.upto + g.wr | none => k.upto

/-- A command ends in error: no increment; its team owes a deferred trap, or the site takes an event (R245, R255). -/
def State.failCmd (s : State) (k : Cmd) (a : Word) : State :=
  let s1 := s.dropCmd k.id
  match k.team with
  | none => s1.event k.site k.tenant 0x03 a
  | some tid =>
    match s1.team? tid with
    | none => s1
    | some t => s1.putTeam { t with deferred := t.deferred ++
        [{ w := .engine (cmdPaths k.op k.fn k.args) k.token, cls := 6, code := 0x03, op := k.op, lane := k.lane,
           addr := a, pidx := k.progress, aux := 0 }] }

/-! ### Segments (R179, R246) -/

def Cmd.putSeg (k : Cmd) (g : Seg) : Cmd := { k with segs := g :: k.segs.filter (fun h => h.lo != g.lo) }
def Cmd.len (k : Cmd) (g : Seg) : Nat := segLen k.bigs k.op k.fn k.args g.lo

/-- The segment that starts at lo, begun now if it has not been and is due. -/
def Cmd.beginSeg (k : Cmd) (lo : Nat) : Option Seg :=
  match k.segs.find? (fun g => g.lo == lo) with
  | some g => some g
  | none =>
    if decide (lo < k.total) && decide (k.upto ≤ lo) && !k.done.contains lo &&
        (isElem k.op || lo == k.upto || !samePages k.bigs k.op k.args (lo - 1) lo)
    then some { lo, rd := 0, wr := 0, held := [], put := [], idx := none, stuck := false } else none

/-- End of the 64-byte chunk at x of a segment. -/
def chunkEnd (x len : Nat) : Nat := min (x + 64) len

/-- Bytes i to i + n − 1 stand in the chunk at x, contiguous in memory. -/
def Cmd.within (k : Cmd) (g : Seg) (x i n : Nat) : Bool :=
  decide (0 < n) && decide (x ≤ i) && decide (i + n ≤ chunkEnd x (k.len g)) &&
    (isElem k.op || decide (n ≤ rowRun k.bigs k.op k.args (g.lo + i)))

/-- Every byte of [x, e) lies in a run. -/
def covered (rs : List (Nat × Nat)) (x e : Nat) : Bool :=
  (List.range (e - x)).all (fun j => rs.any (fun r => decide (r.1 ≤ x + j) && decide (x + j < r.1 + r.2)))

/-- A run meets none of the others. -/
def apart (rs : List (Nat × Nat)) (i n : Nat) : Bool := rs.all (fun r => !overlaps i n r.1 r.2)

def Seg.heldRuns (g : Seg) : List (Nat × Nat) := g.held.map (fun h => (h.1, h.2.length))
/-- Byte i as the segment holds it. -/
def Seg.byte (g : Seg) (i : Nat) : Byte :=
  (g.held.findSome? (fun h => if h.1 ≤ i then h.2[i - h.1]? else none)).getD 0

/-- What the engine may do next for a segment: read what it lacks of its chunk, else write it. -/
def Cmd.nextAct (k : Cmd) (g : Seg) : EngAct :=
  let run (rs : List (Nat × Nat)) (x : Nat) : Nat × Nat :=
    let e := chunkEnd x (k.len g)
    let i := ((List.range (e - x)).find? (fun j => !covered rs (x + j) (x + j + 1))).getD 0 + x
    let n := ((List.range (e - i)).find? (fun j => covered rs (i + j) (i + j + 1))).getD (e - i)
    (i, if isElem k.op then n else min n (rowRun k.bigs k.op k.args (g.lo + i)))
  if g.wr < g.rd then let r := run g.put g.wr; .write g.lo r.1 r.2
  else let r := run g.heldRuns g.rd; .read g.lo r.1 r.2

/-- A segment parks on a translation fault; the others run on (R175, R246). -/
def State.stickCmd (s : State) (k : Cmd) (g : Seg) (wrt : Bool) (a : Word) (lvl : Bool) : State :=
  let (_, s1) := s.pageFault k.site k.tenant (gOfs a / 65536) wrt false true lvl a (.seg k.id g.lo)
  s1.putCmd (k.putSeg { g with stuck := true })

/-- What a segment meets before its bytes can move: a fault parks it; a forbidden page ends the command, an element's
once every element below is written (R245). -/
def State.cmdStop (s : State) (k : Cmd) (g : Seg) (wrt : Bool) : RunX → State
  | .ok _ => s
  | .bad a => if isElem k.op && k.upto ≠ g.lo then s else s.failCmd k a
  | .fault a l => s.stickCmd k g wrt a l
  | .broken ofs r => s.freezeEntry (s.partOf k.site) k.site ofs k.tenant r

/-- The index of a segment's element, as read before or as the engine reads it now. -/
def State.readIndex (s : State) (k : Cmd) (g : Seg) : RunX × State × Nat :=
  match g.idx with
  | some x => (.ok [], s, x)
  | none =>
    match s.xlateRun k.party .read 1 (cArg k.args 2 + BitVec.ofNat 64 (4 * g.lo)) 4 with
    | .ok ps => let (s1, bs) := s.readPieces ps; (.ok ps, s1, leNat bs)
    | r => (r, s, 0)

/-- The segment after bytes from i on are read: its chunk is read when all of it is held. -/
def Seg.afterRead (g : Seg) (len i : Nat) (bs : List Byte) : Seg :=
  let h := { g with held := (i, bs) :: g.held }
  if covered h.heldRuns g.rd (chunkEnd g.rd len) then { h with rd := chunkEnd g.rd len } else h

/-- The engine reads bytes of a chunk (R178, R244, R246). -/
def State.cmdRead (s : State) (k : Cmd) (g : Seg) (i n : Nat) : State :=
  let part := s.partOf k.site
  if k.op = 0xB4 then
    let pat := leBytes 8 (cNum k.args 2)
    let bs := (List.range n).map (fun j => pat.getD ((g.lo + i + j) % 8) 0)
    s.putCmd { k.putSeg (g.afterRead (k.len g) i bs) with issued := s.now }
  else
    let (r, s1, x) : RunX × State × Nat := if isElem k.op then s.readIndex k g else (.ok [], s, 0)
    match r with
    | .ok _ =>
      let g1 := if isElem k.op then { g with idx := some x } else g
      let a := if k.op = 0xB2 then cArg k.args 1 + BitVec.ofNat 64 (x * elemSize k.fn + i)
        else if k.op = 0xB3 then cArg k.args 1 + BitVec.ofNat 64 (g.lo * elemSize k.fn + i)
        else sideAt k.op k.args true (g.lo + i)
      (match s1.xlateRun k.party .read 2 a n with
       | .ok ps =>
         let (s2, bs) := s1.readPieces ps
         s2.putCmd { k.putSeg (g1.afterRead (k.len g) i bs) with issued := s.now }
       | q => s1.cmdStop k g1 false q)
    | q => s1.cmdStop k g false q

/-- Raises the lowest start not yet written past the segments that are. -/
def absorb (bigs : List Nat) (op fn : Nat) (args : List Word) : Nat → Nat → List Nat → Nat × List Nat
  | 0, u, ds => (u, ds)
  | fuel + 1, u, ds =>
    if ds.contains u then
      absorb bigs op fn args fuel (u + if isElem op then 1 else segLen bigs op fn args u) (ds.filter (fun x => x != u))
    else (u, ds)

/-- The command after bytes i to i + n − 1 of a segment are written: a chunk that is written whole is behind it, and a
segment that is written whole is over. -/
def Cmd.afterWrite (k : Cmd) (g : Seg) (i n : Nat) : Cmd :=
  let len := k.len g
  let e := chunkEnd g.wr len
  let h := { g with put := (i, n) :: g.put }
  if !covered h.put g.wr e then k.putSeg h
  else if e < len then
    k.putSeg { h with wr := e, put := [], held := g.held.filter (fun r => decide (e < r.1 + r.2.length)) }
  else
    let (u, ds) := absorb k.bigs k.op k.fn k.args (k.done.length + 1) k.upto (k.done ++ [g.lo])
    { k with upto := u, done := ds, segs := k.segs.filter (fun q => q.lo != g.lo) }

/-- The engine writes bytes it has read. A scatter writes its elements in ascending order, so that of duplicate targets
the highest is last (R244). -/
def State.cmdWrite (s : State) (k : Cmd) (g : Seg) (i n : Nat) : State :=
  let data := (List.range n).map (fun j => g.byte (i + j))
  let a := if k.op = 0xB2 then cArg k.args 0 + BitVec.ofNat 64 (g.lo * elemSize k.fn + i)
    else if k.op = 0xB3 then cArg k.args 0 + BitVec.ofNat 64 (g.idx.getD 0 * elemSize k.fn + i)
    else sideAt k.op k.args false (g.lo + i)
  if k.op = 0xB3 && k.upto ≠ g.lo then s
  else
    match s.xlateRun k.party .write 2 a n with
    | .ok ps => (s.writePieces ps data).putCmd { k.afterWrite g i n with issued := s.now }
    | r => s.cmdStop k g true r

/-- An engine acts on a command in flight: within a segment its chunks go in ascending order, segments in any order (R179, R246).
A chunk is read whole before any byte of it is written, so that of a destination byte that overlaps its own chunk's source the
value from before the command is taken, of the two that R244 allows: DESIGN CHOICE, log 120. -/
def State.cmdAct (s : State) (k : Cmd) : EngAct → State
  | .finish => if k.upto = k.total then s.finishCmd k else s
  | .read lo i n =>
    match k.beginSeg lo with
    | some g => if !g.stuck && k.within g g.rd i n && apart g.heldRuns i n then s.cmdRead k g i n else s
    | none => s
  | .write lo i n =>
    match k.segs.find? (fun g => g.lo == lo) with
    | some g =>
      if !g.stuck && k.within g g.wr i n && decide (chunkEnd g.wr (k.len g) ≤ g.rd) && apart g.put i n
      then s.cmdWrite k g i n else s
    | none => s

/-- Starts commands; one with nothing to move completes at once (R244). -/
def State.startCmds (s : State) (ids : List Nat) : State :=
  ids.foldl (fun s id =>
    match s.cmd? id with
    | none => s
    | some k =>
      let k1 := { k with state := CmdState.flight, issued := s.now }
      if k1.total = 0 then (s.putCmd k1).finishCmd k1 else s.putCmd k1) s

/-- Commands with nothing to move that an action started complete (R244, R255). -/
def State.finishEmpty (s : State) : State :=
  (s.cmds.filter (fun k => k.state == CmdState.flight && k.total == 0)).foldl (fun s k => s.finishCmd k) s

end Sys2Proof.Machine
end

