-- ==== Sys2Proof/Machine/Ordering.lean ====
section
/-! DEFINITION. Row 0xA: fences, `cdrain` and transactions (R229 to R231, R234 to R240). `rfence` (R276) waits as
`cdrain remote` does. -/

namespace Sys2Proof.Machine

/-! ### Fences -/

/-- `fence`: the team stalls until everything earlier is over, the reads of queued matrix instructions and at the two wider
scopes its remote operations too (R151, R189, R229). -/
def execFence (g : Guard) (s : State) : Host.Outcome State Fault Refusal :=
  s.run { op := 0xA0, sel := .guard g, mod := .scope } (fun s c =>
    s.afterAll c.t (fun s1 => if (s1.remoteUnder c.t (scopeOf c.hint)).isEmpty then s1.commit c id else s1.stall))

/-- `xfence`: the stores, atomics and reductions of the team before it are applied (R230). Its loads before it go before
the commands after it, which wait for them; no later ordinary access does (R192). -/
def execXfence (g : Guard) (s : State) : Host.Outcome State Fault Refusal :=
  s.runOutsideTx { op := 0xA1, sel := .guard g } (fun s c =>
    ((s.settleStores c.t.id).settleIncs c.t.id (fun _ => true)).commit c (fun t => { t with xseq := t.seq }))

/-- Runs f, which issues commands or remote operations, once the loads that stand before the team's latest `xfence` are
over; until the reads of its matrix instructions there are, the instruction stalls (R192). -/
def State.afterXfence (s : State) (t : Team) (f : State → State) : State :=
  if s.mxReads t (fun e => decide (e.seq < t.xseq)) then s.stall
  else f (s.forceAll t.coreKey ((t.pend.filter (fun p => decide (p.seq < t.xseq))).map (fun p => Item.pend t.id p.id)))

/-- The copies of the team's core that count toward a path (R180). -/
def State.copiesFor (s : State) (core : Nat) (p : CPath) : List Nat :=
  (s.cmds.filter (fun k => k.core == core && k.team.isSome && k.state != CmdState.heldInSet &&
    (cmdPaths k.op k.fn k.args).contains p)).map (fun k => k.id)

/-- What `cdrain remote` and `rfence` wait for (R231, R276). -/
def State.remoteDrain (s : State) (c : Ctx) : State :=
  match s.remoteOf c.t.id (fun _ => true), c.wake with
  | [], _ | _, some _ =>
    match s.raiseDeferred c.t c.sh.op c.act (fun d => d.w == .remote) with
    | some s1 => s1
    | none => s.commit c id
  | ids, none => s.parkAt c (.remote ids)

/-- `cdrain p` (R180, R231). A deferred trap of a copy that counted toward the path comes at the wake (R245, R355). -/
def execCdrain (g : Guard) (f : CPath) (s : State) : Host.Outcome State Fault Refusal :=
  s.runOutsideTx { op := 0xA2, sel := .guard g } (fun s c =>
    match f with
    | .remote => s.remoteDrain c
    | .scratch | .vault | .dram =>
      let ids := s.copiesFor c.t.coreKey f
      if c.wake.isNone && !ids.isEmpty then s.parkAt c (.copies ids)
      else
        match s.raiseDeferred c.t 0xA2 c.act (fun d => match d.w with | .engine ps _ => ps.contains f | _ => false) with
        | some s1 => s1
        | none => s.commit c id)

/-! ### Transactions -/

/-- The team's header allows transactions (R25, R234). -/
def State.curUsesTx (s : State) : Bool := match s.curTeam? with | some t => t.hdr.usesTx | none => true

/-- `txbeg` opens the team's transaction or deepens it (R234). -/
def execTxbeg (disp : BitVec 20) (s : State) : Host.Outcome State Fault Refusal :=
  s.run { op := 0xA3, sel := .enabled, imm := true, wf := s.curUsesTx } (fun s c =>
    let x := c.t.tx
    if x.live then
      if x.depth = 8 then s.txAbort c.t.id 0x04
      else s.commit c (fun t => { t with tx := { t.tx with depth := t.tx.depth + 1 } })
    else
      let st := s.site c.t.place.site
      let keep := x.held && x.heldpc == c.t.ctl.pc && decide ((st.txClock - x.ts).toNat < 2 ^ 47)
      let s1 := if keep then s else s.putSite { st with txClock := st.txClock + 1 }
      s1.commit c (fun t => { t with
        tx := { live := true, held := true, depth := 1, ts := if keep then x.ts else st.txClock, code := 0,
                heldpc := c.t.ctl.pc, handler := branchTarget c.t disp, saveV := t.ctl.live, saveC := t.ctl.cur,
                saveB := t.ctl.brk, saveStack := t.ctl.stack, lines := [] } }))

/-- `txend` (R236 code 0x09, R238). -/
def execTxend (s : State) : Host.Outcome State Fault Refusal :=
  s.run { op := 0xA4, sel := .enabled } (fun s c =>
    let x := c.t.tx
    if !x.live then s.trapAll c 2 0x02
    else if c.t.ctl.stack.length ≠ x.saveStack.length then s.txAbort c.t.id 0x09
    else if 1 < x.depth then s.commit c (fun t => { t with tx := { t.tx with depth := t.tx.depth - 1 } })
    else s.afterAll c.t (fun s1 =>
      let s2 := s1.commit c (fun t => { t with
        tx := { t.tx with live := false, held := false, depth := 0, code := 0, lines := [] } })
      match s1.team? c.t.id with
      | some t => s2.txWoke t.tx.lines
      | none => s2))

/-- `txabt`: its operand pops, as any word's does, before the abort (R54, R217, R239). -/
def execTxabt (g : Guard) (a : Src) (s : State) : Host.Outcome State Fault Refusal :=
  s.run { op := 0xA5, sel := .guard g, srcs := [a] } (fun s c =>
    let s1 := s.commit c id
    if c.t.tx.live then s1.txAbort c.t.id (0x80 + (lane (c.val 0) c.first).toNat % 128) else s1)

/-- `txst` pushes TSTAT; `.rel` then gives the held timestamp up (R239, R240). -/
def execTxst (g : Guard) (d : Dst) (rel : Bool) (s : State) : Host.Outcome State Fault Refusal :=
  s.run { op := 0xA6, sel := .guard g, dst := some d } (fun s c =>
    s.commit c (fun t =>
      let t1 := t.pushAll c.sh c.act (vtab t.nlane (fun _ => c.t.tx.stat)) c.pass
      if rel then { t1 with tx := { t1.tx with held := false } } else t1))

end Sys2Proof.Machine
end

