-- ==== Sys2Proof/Machine/Engines.lean ====
section
/-! DEFINITION. Row 0xB: engine commands, counters, armed actions and fork sets (R242 to R259), with the engine and
counter events. -/

namespace Sys2Proof.Machine

/-! ### Issuing commands (R242, R243, R245, R257) -/

/-- The token that the team's next `fork` gives (R257). Its count is that of the forks before it: DESIGN CHOICE, log 121. -/
def Team.nextToken (t : Team) : Nat := t.place.slot * 256 + t.forkCount % 256

/-- Entries taken on a core (R242). -/
def State.coreEntries (s : State) (core : Nat) : Nat :=
  (s.cmds.filter (fun k => k.core == core && k.team.isSome)).length

/-- Commands the team holds in its open set. -/
def State.heldOf (s : State) (tid : Nat) : List Nat :=
  (s.cmds.filter (fun k => k.team == some tid && k.state == CmdState.heldInSet)).map (fun k => k.id)

/-- Traps or freezes on the checks of 8-byte words, first by kind, in the order of R49; a translation fault parks the
team at this instruction; none lets it go on. -/
def State.wordTraps (s : State) (c : Ctx) (wrt : Bool) (rs : List (Nat × Word × CtrChk)) : Option State :=
  let pick (f : CtrChk → Bool) : List (Nat × Word) := (rs.filter (fun r => f r.2.2)).map (fun r => (r.1, r.2.1))
  let al := pick (fun r => r == .align)
  let se := pick (fun r => r == .seam)
  let pr := pick (fun r => r == .prot)
  if !al.isEmpty then some (s.trapList c 4 0x01 al)
  else if !se.isEmpty then some (s.trapList c 4 0x02 se)
  else if !pr.isEmpty then some (s.trapList c 4 0x03 pr)
  else
    match rs.findSome? (fun r => match r.2.2 with | .broken o n => some (o, n) | _ => none) with
    | some (o, n) => some (s.freezeEntry c.t.place.part c.t.place.site o c.t.ctl.acting.toNat n)
    | none =>
      match rs.findSome? (fun r => match r.2.2 with | .fault l => some (r.2.1, l) | _ => none) with
      | some (a, l) => some (s.accessFault c wrt a l)
      | none => none

/-- The arguments of a command in a lane. -/
def laneArgs (c : Ctx) (n l : Nat) : List Word := (List.range n).map (fun i => c.arg i l)

/-- A range check as the check of an address. -/
def RangeChk.toCtr : RangeChk → CtrChk
  | .ok => .ok 0 false
  | .seam => .seam
  | .prot => .prot
  | .broken o r => .broken o r

/-- The checks of one lane's command, step 8: index array, ranges, counter. A command beyond its limit has none. -/
def State.cmdChecks (s : State) (c : Ctx) (op fn l : Nat) (args : List Word) : List (Nat × Word × CtrChk) :=
  if cmdOver op fn args then []
  else
    let p := c.t.party
    (if isElem op && cNum args 2 % 4 != 0 then [(l, cArg args 2, CtrChk.align)] else []) ++
    (cmdRanges op fn args).map (fun r => (l, r.1, (s.checkRange p r.1 r.2.1 r.2.2).toCtr)) ++
    (if fn % 2 = 1 then
      let a := cArg args (cmdArgs op)
      [(l, a, s.checkWord p a 8 .write)] else [])

/-- The active lanes take entries in ascending order; a lane that finds none stalls the team, in one stall until the last
lane has its entry (R242). -/
def State.takeEntries (s : State) (c : Ctx) (op fn n : Nat) : List Nat → State
  | [] => s.commit c id
  | l :: r =>
    if s.coreEntries c.t.coreKey < 256 then
      let (id, s1) := s.fresh
      let held := c.t.forkOpen
      let k : Cmd :=
        { id, team := some c.t.id, site := c.t.place.site, core := c.t.coreKey, op, fn, lane := l, args := laneArgs c n l,
          tenant := c.t.ctl.acting.toNat, user := !c.t.sup,
          state := if held then CmdState.heldInSet else CmdState.flight,
          token := if held then some c.t.forkTok else none, setCtr := if held then c.t.forkCtr else none,
          rewritten := false, issued := s.now,
          bigs := s.bigBlocks c.t.place.site (some c.t.coreKey) c.t.ctl.acting.toNat op fn (laneArgs c n l),
          upto := 0, done := [], segs := [] }
      let s2 := { s1 with cmds := s1.cmds ++ [k] }
      let s3 := match s2.team? c.t.id with
        | some t => s2.putTeam { t with did := t.did ||| (1 <<< l : Mask) }
        | none => s2
      let s4 := if held then s3 else s3.startCmds [id]
      s4.takeEntries c op fn n r
    else s.stallAt c .entries

/-- One of the five commands. A counter on a replicated page is "counter placement" here and at `fork.c` too, where R250 names
`cinc`, `cwait` and `arm`: DEDUCED, log 65. -/
def State.runCmd (s : State) (op fn : Nat) (g : Guard) (kb : Fin 32) : Host.Outcome State Fault Refusal :=
  let n := cmdArgs op + fn % 2
  s.runOutsideTx { op, sel := .guard g, blk := some (kb, n) } (fun s c =>
    let todo := c.lanes.filter (fun l => !Mask.has c.t.did l)
    if c.t.did ≠ 0 then s.afterXfence c.t (fun s => s.takeEntries c op fn n todo)
    else
      let long := c.lanes.filter (fun l => cmdOver op fn (laneArgs c n l))
      let chk := c.lanes.flatMap (fun l => s.cmdChecks c op fn l (laneArgs c n l))
      let memory := chk.filter (fun r => r.2.2.memory)
      let ctrRepl := chk.filter (fun r => match r.2.2 with | .ok _ repl => repl | _ => false)
      if !memory.isEmpty then (s.wordTraps c true memory).getD s
      else if !long.isEmpty then s.trapList c 6 0x02 (long.map (fun l => (l, 0)))
      else if !ctrRepl.isEmpty then s.trapList c 6 0x04 (ctrRepl.map (fun r => (r.1, r.2.1)))
      else if c.t.forkOpen && decide (64 < (s.heldOf c.t.id).length + c.lanes.length) then s.trapAll c 6 0x09
      else match s.wordTraps c true chk with
        | some s1 => s1
        | none => s.afterXfence c.t (fun s => s.takeEntries c op fn n todo))

/-- Copy (R243, R244). -/
def execCpy (g : Guard) (kb : Fin 32) (c : Bool) (s : State) : Host.Outcome State Fault Refusal :=
  s.runCmd 0xB0 c.toNat g kb
/-- Strided copy (R243, R244). -/
def execCpy2 (g : Guard) (kb : Fin 32) (c : Bool) (s : State) : Host.Outcome State Fault Refusal :=
  s.runCmd 0xB1 c.toNat g kb
/-- Gather (R243, R244). -/
def execGath (g : Guard) (kb : Fin 32) (z : Fin 7) (c : Bool) (s : State) : Host.Outcome State Fault Refusal :=
  s.runCmd 0xB2 (z.val * 2 + c.toNat) g kb
/-- Scatter (R243, R244). -/
def execScat (g : Guard) (kb : Fin 32) (z : Fin 7) (c : Bool) (s : State) : Host.Outcome State Fault Refusal :=
  s.runCmd 0xB3 (z.val * 2 + c.toNat) g kb
/-- Fill (R243, R244). -/
def execCfill (g : Guard) (kb : Fin 32) (c : Bool) (s : State) : Host.Outcome State Fault Refusal :=
  s.runCmd 0xB4 c.toNat g kb

/-- An engine reads or writes bytes of a segment's chunk, or completes the command (R246). -/
def execEngineCommandComplete (cmd : Nat) (act : EngAct) (s : State) : Host.Outcome State Fault Refusal :=
  match s.cmd? cmd with
  | some k => if k.state = CmdState.flight ∧ s.live k.site then .next (s.cmdAct k act) else .next s
  | none => .next s

/-- A segment whose fault was served tries again (R8, R246). -/
def execSegmentReplay (cmd seg : Nat) (s : State) : Host.Outcome State Fault Refusal :=
  match s.cmd? cmd with
  | some k =>
    if k.state = CmdState.flight ∧ s.live k.site then
      match k.beginSeg seg with
      | some g => .next (s.cmdAct k (k.nextAct g))
      | none => .next s
    else .next s
  | none => .next s

/-- The scheduler rewrites a command that no engine took within 2 µs, when the partition reserved rows (R248). -/
def execCopyKernelRewrite (cmd : Nat) (s : State) : Host.Outcome State Fault Refusal :=
  match s.cmd? cmd with
  | none => .next s
  | some k =>
    let reserved := match s.part? (s.partOf k.site) with | some p => p.reserved | none => 0
    if k.state = CmdState.flight ∧ s.live k.site ∧ !k.rewritten ∧ k.upto = 0 ∧ k.done = [] ∧ k.segs = [] ∧
        k.issued + us 2 ≤ s.now ∧ 0 < reserved
    then .next (s.putCmd { k with rewritten := true })
    else .next s

/-- A stall of 1 ms for an entry raises "entries exhausted" at the instruction (R242, R270). -/
def execEntriesExhaustedExpiry (team : Nat) (s : State) : Host.Outcome State Fault Refusal :=
  match s.team? team with
  | some t =>
    match t.status with
    | .parked why since =>
      if (why = .entries ∨ why = .remoteEntries) ∧ since + us 1000 ≤ s.now ∧ s.live t.place.site then
        .next (s.wakeTeam team (some (.trap 6 0x01 0 none)))
      else .next s
    | _ => .next s
  | none => .next s

/-! ### Counters (R250 to R256) -/

/-- An increment that no team sent stands before this one at its counter: those reach it in the order they were fired
(R252). DEDUCED, log 81. -/
def State.incWaits (s : State) (i : Inc) : Bool :=
  i.team.isNone && (s.incs.takeWhile (fun j => j.id != i.id)).any (fun j => j.team.isNone && j.ctr == i.ctr)

/-- One increment takes place at its port (R252). -/
def execCounterIncrement (inc : Nat) (s : State) : Host.Outcome State Fault Refusal :=
  match s.incs.find? (fun i => i.id == inc) with
  | some i => if s.live (i.ctr / 2 ^ 37) ∧ !s.incWaits i then .next (s.applyIncs inc) else .next s
  | none => .next s

/-- The physical address of a counter that passed its check. -/
def CtrChk.phys : CtrChk → Nat
  | .ok p _ => p
  | _ => 0
def CtrChk.repl : CtrChk → Bool
  | .ok _ r => r
  | _ => false

/-- `cinc`: a release; lanes in one line share a write-queue entry (R251). -/
def execCinc (g : Guard) (kb : Fin 32) (s : State) : Host.Outcome State Fault Refusal :=
  s.runOutsideTx { op := 0xB5, sel := .guard g, blk := some (kb, 2) } (fun s c =>
    let p := c.t.party
    let rs := c.lanes.map (fun l => (l, c.arg 0 l, s.checkWord p (c.arg 0 l) 8 .write))
    let big := c.lanes.filter (fun l => (c.arg 1 l).extractLsb' 32 32 ≠ 0)
    let repl := rs.filter (fun r => r.2.2.repl)
    let memory := rs.filter (fun r => r.2.2.memory)
    if !memory.isEmpty then (s.wordTraps c true memory).getD s
    else if !repl.isEmpty then s.trapList c 6 0x04 (repl.map (fun r => (r.1, r.2.1)))
    else if !big.isEmpty then s.trapList c 6 0x05 (big.map (fun l => (l, 0)))
    else match s.wordTraps c true rs with
      | some s1 => s1
      | none =>
        s.afterAll c.t (fun s =>
        let s1 := s.commit c id
        (rs.foldl (fun (acc : State × List (Nat × Nat)) r =>
          let ctr := r.2.2.phys
          let (id, s2, known) := match acc.2.find? (fun k => k.1 == ctr / 64) with
            | some k => (k.2, acc.1, acc.2)
            | none => let (id, s2) := acc.1.fresh; (id, s2, (ctr / 64, id) :: acc.2)
          ({ s2 with incs := s2.incs ++ [{ id, team := some c.t.id, ctr, amount := (c.arg 1 r.1).toNat }] }, known))
          (s1, [])).1))

/-- The counter has reached the target (R253). -/
def reached (count target : Word) : Bool := decide ((count - target).toNat < 2 ^ 63)

/-- The first operands of an instruction that names one counter: its own increments and stores reach the port. -/
def State.settleCounter (s : State) (tid ctr : Nat) : State :=
  (s.settleBytes tid ctr 8).settleEntries tid (fun e => e.line == ctr / 64)

/-- `cwait` (R253). -/
def execCwait (g : Guard) (kb : Fin 32) (s : State) : Host.Outcome State Fault Refusal :=
  s.runOutsideTx { op := 0xB6, sel := .guard g, blk := some (kb, 3) } (fun s c =>
    match c.diverges [1, 2] with
    | some ls => s.trapList c 1 0x08 ls
    | none =>
      if c.wake.isSome then s.commit c id
      else
        let chk := s.checkWord c.t.party (c.arg1 0) 8 .read
        if chk.repl then s.trapList c 6 0x04 [(c.first, c.arg1 0)]
        else match s.wordTraps c false [(c.first, c.arg1 0, chk)] with
          | some s1 => s1
          | none =>
            let (s1, v) := (s.settleCounter c.t.id chk.phys).readWord c.t.id chk.phys
            if reached v (c.arg1 1) then s1.commit c id
            else s1.parkAt c (.counter chk.phys (c.arg1 1) (c.arg1 2).toNat))

/-- A `cwait` whose time bound has passed takes "wait expired" (R253). -/
def execCwaitExpiry (team : Nat) (s : State) : Host.Outcome State Fault Refusal :=
  match s.team? team with
  | some t =>
    match t.parkedIn with
    | some (.counter _ _ timeout, since) =>
      if timeout ≠ 0 ∧ since + timeout * Config.ticksPerNs ≤ s.now ∧ s.live t.place.site then
        .next (s.wakeTeam team (some (.trap 5 0x0A 0 none)))
      else .next s
    | _ => .next s
  | none => .next s

/-- A prepared command record of eight words is well formed and its ranges pass (R255). -/
def State.recordOk (s : State) (p : Party) (ws : List Word) : Bool :=
  let w0 := (ws.getD 0 0).toNat
  let op := w0 % 256
  let fn := w0 / 65536 % 65536
  let n := cmdArgs op + fn % 2
  let args := ws.drop 1
  let kind := decide (0xB0 ≤ op ∧ op ≤ 0xB4)
  let fnOk := if isElem op then decide (fn < 16 ∧ fn / 2 ≠ 7) else decide (fn < 2)
  let zero := decide (w0 / 256 % 256 = 0 ∧ w0 / 2 ^ 32 = 0) && (args.drop n).all (fun w => w == 0)
  let ranges := (cmdRanges op fn args).all (fun r => s.checkRange p r.1 r.2.1 r.2.2 == RangeChk.ok)
  let idx := !isElem op || cNum args 2 % 4 == 0
  let ctr := fn % 2 = 0 || (match s.checkWord p (cArg args (cmdArgs op)) 8 .write with
    | .ok _ r => !r
    | .fault _ => true
    | _ => false)
  kind && fnOk && zero && !cmdOver op fn args && idx && ranges && ctr

/-- `arm` (R254). A target in a control window fails protection at issue (R393), and the record of a command is judged before a
translation fault of the counter is raised (R49). -/
def execArm (g : Guard) (kb : Fin 32) (s : State) : Host.Outcome State Fault Refusal :=
  s.runOutsideTx { op := 0xB7, sel := .guard g, blk := some (kb, 5) } (fun s c =>
    match c.diverges [1, 2, 4] with
    | some ls => s.trapList c 1 0x08 ls
    | none =>
      let p := c.t.party
      let l := c.first
      let tgt := c.arg1 3
      let kind := (c.arg1 2).toNat
      let align := if kind = 0 then 16 else if kind = 1 then 8 else 64
      let ctr := s.checkWord p (c.arg1 0) 8 .read
      let home := if gDev tgt = p.ldev then s.partSite c.t.place.part (gSite tgt) else none
      let hp : Party := { p with site := home.getD p.site, lsite := gSite tgt, core := if home = some p.site then p.core else none }
      let tchk : CtrChk :=
        if 2 < kind then .ok 0 false
        else if tgt.toNat % align ≠ 0 then .align
        else if home.isNone then .seam
        else if kind = 2 then s.checkWord hp tgt 64 .read
        else if region (gOfs tgt) = .control then .prot
        else .ok 0 false
      let rs := [(l, c.arg1 0, ctr), (l, tgt, tchk)]
      let memory := rs.filter (fun r => r.2.2.memory)
      if !memory.isEmpty then (s.wordTraps c false memory).getD s
      else if 2 < kind ∨ (kind = 2 ∧ c.arg1 4 ≠ 0) then s.trapAll c 6 0x06
      else if kind = 1 ∧ (c.arg1 4).extractLsb' 32 32 ≠ 0 then s.trapAll c 6 0x05
      else if ctr.repl then s.trapList c 6 0x04 [(l, c.arg1 0)]
      else
        match tchk with
        | .fault lvl =>
          let page := gOfs tgt / 65536
          let (placed, s1) := s.pageFault hp.site p.tenant page false false false lvl tgt (.team c.t.id)
          s1.parkAt c (if placed then .translation hp.site p.tenant page else .faultPlace hp.site p.tenant page)
        | _ =>
          match s.wordTraps c false [(l, tgt, tchk)] with
          | some s1 => s1
          | none =>
            let s0 := if hp.site = p.site ∧ kind = 2 then s.settleEntries c.t.id (fun e => e.line == tchk.phys / 64) else s
            let s1 := if kind = 2 then s0.txRead c.t.id (tchk.phys / 64) else s0
            let ws := if kind = 2 then (List.range 8).map (fun i => Mem.word s1.mem (tchk.phys + 8 * i)) else []
            if kind = 2 && !s1.recordOk hp ws then s1.trapAll c 6 0x06
            else match s1.wordTraps c false rs with
            | some s2 => s2
            | none =>
              let (s2, v) := (s1.settleCounter c.t.id ctr.phys).readWord c.t.id ctr.phys
              let a : Armed := { ctr := ctr.phys, thr := c.arg1 1, kind, target := tgt, value := c.arg1 4, recd := ws,
                                 tenant := p.tenant, user := p.user }
              let x := s2.site p.site
              if reached v a.thr then (s2.fire p.site a).commit c id
              else if 8 ≤ (x.armed.filter (fun b => b.ctr == ctr.phys)).length then s2.trapAll c 6 0x07
              else (s2.putSite { x with armed := x.armed ++ [a] }).commit c id)

/-! ### Fork sets and status (R257 to R259) -/

/-- `fork` and `fork.c` (R257). -/
def execFork (g : Guard) (d : Dst) (a : Src) (f : Bool) (s : State) : Host.Outcome State Fault Refusal :=
  s.runOutsideTx { op := 0xB8, sel := .guard g, srcs := if f then [a] else [], dst := some d, pass := some a,
                   wf := wfOptA f a } (fun s c =>
    let v := lane (c.val 0) c.first
    let chk : CtrChk := if f then s.checkWord c.t.party v 8 .write else .ok 0 false
    if chk.memory then (s.wordTraps c true [(c.first, v, chk)]).getD s
    else if chk.repl then s.trapList c 6 0x04 [(c.first, v)]
    else if c.t.forkOpen then s.trapAll c 6 0x08
    else match s.wordTraps c true [(c.first, v, chk)] with
      | some s1 => s1
      | none =>
        s.commit c (fun t =>
          let t1 := { t with forkOpen := true, forkCtr := if f then some v else none, forkCount := t.forkCount + 1,
                             forkTok := t.nextToken, joinPc := none }
          t1.pushAll c.sh c.act (vtab t.nlane (fun _ => BitVec.ofNat 64 t1.forkTok)) c.pass))

/-- Commands of the team's current set. -/
def State.setMembers (s : State) (t : Team) : List Nat :=
  (s.cmds.filter (fun k => k.team == some t.id && k.token == some t.forkTok)).map (fun k => k.id)

/-- `join`: closes the set, starts its held commands and waits until every member has completed (R258). A `join` that
comes back to the set it closed, after a wake or a deferred trap's `eret`, goes on with it (R355). DEDUCED, log 74. -/
def execJoin (g : Guard) (a : Src) (s : State) : Host.Outcome State Fault Refusal :=
  s.runOutsideTx { op := 0xB9, sel := .guard g, srcs := [a] } (fun s c =>
    let d := voteOf c (c.val 0)
    if !d.isEmpty then s.trapList c 1 0x08 d
    else if !(c.t.forkOpen || c.t.joinPc == some c.t.ctl.pc) || lane (c.val 0) c.first != BitVec.ofNat 64 c.t.forkTok then
      s.trapAll c 6 0x0A
    else
      let s0 := s.startCmds (s.heldOf c.t.id)
      let s1 := match s0.team? c.t.id with
        | some t => s0.putTeam { t with forkOpen := false, joinPc := some t.ctl.pc }
        | none => s0
      match s1.setMembers c.t with
      | [] =>
        (match s1.raiseDeferred ((s1.team? c.t.id).getD c.t) 0xB9 c.act (fun e =>
            match e.w with | .engine _ tok => tok == some c.t.forkTok | _ => false) with
         | some s2 => s2
         | none => s1.commit c (fun t => { t with forkCtr := none, joinPc := none }))
      | ids => s1.parkAt c (.forkSet ids))

/-- The status word (R259). -/
def State.engineStatus (s : State) (t : Team) : Word :=
  let mine := s.cmds.filter (fun k => k.team == some t.id)
  let err := t.deferred.any (fun d => match d.w with | .engine _ _ => true | _ => false)
  BitVec.ofNat 64 ((if err then 2 ^ 41 else 0) + (if t.forkOpen then 2 ^ 40 else 0) +
    (s.heldOf t.id).length * 2 ^ 32 +
    (mine.filter (fun k => k.rewritten && k.state != CmdState.heldInSet)).length * 2 ^ 23 +
    s.coreEntries t.coreKey * 2 ^ 9 + mine.length)

/-- `cstat` and `cstat.arm` (R259). -/
def execCstat (g : Guard) (d : Dst) (a : Src) (arm : Bool) (s : State) : Host.Outcome State Fault Refusal :=
  s.runOutsideTx { op := 0xBA, sel := .guard g, srcs := if arm then [a] else [], dst := some d, pass := some a,
                   wf := wfOptA arm a } (fun s c =>
    if arm then
      let v := lane (c.val 0) c.first
      let chk := s.checkWord c.t.party v 8 .read
      match s.wordTraps c false [(c.first, v, chk)] with
      | some s1 => s1
      | none =>
        let s1 := s.settleIncs c.t.id (fun i => i.ctr == chk.phys)
        let n := ((s1.site c.t.place.site).armed.filter (fun b => b.ctr == chk.phys)).length
        s1.push c (vtab c.t.nlane (fun _ => BitVec.ofNat 64 n))
    else s.push c (vtab c.t.nlane (fun _ => s.engineStatus c.t)))

end Sys2Proof.Machine
end

