-- ==== Sys2Proof/Machine/Fabric.lean ====
section
/-! DEFINITION. The fabric: routes over the wafer mesh (R263, R264), the choice of a plane and of the port that a packet
leaves by (R265, R266), and the ways across the external plane, by a matching or by a relay (R268). -/

namespace Sys2Proof.Machine

/-! ### Routes (R264) -/

/-- Numbers passed from x to y, y included, x not. -/
def span (x y : Nat) : List Nat :=
  if x ≤ y then (List.range (y - x)).map (fun i => x + 1 + i) else (List.range (x - y)).map (fun i => x - 1 - i)

/-- Routers of a route after its own, X first or Y first. -/
def routeOf (xFirst : Bool) (a b : Nat) : List Nat :=
  if xFirst then (span (a % 8) (b % 8)).map (fun c => a / 8 * 8 + c) ++ (span (a / 8) (b / 8)).map (fun r => r * 8 + b % 8)
  else (span (a / 8) (b / 8)).map (fun r => r * 8 + a % 8) ++ (span (a % 8) (b % 8)).map (fun c => b / 8 * 8 + c)

/-- Routers that the route between two logical sites of a partition passes after its own: X first, or Y first where that would
turn on a dead router; a dead router is crossed by its snow bridge (R264). -/
def State.route (s : State) (part a b : Nat) : List Nat :=
  let dead (l : Nat) : Bool := match s.partSite part l with | some k => (s.site k).routerDead | none => false
  let turn := a / 8 * 8 + b % 8
  let xFirst := turn == a || turn == b || !dead turn
  (routeOf xFirst a b).filter (fun l => !dead l)

/-- Hops between two logical sites of a partition; a crossing of a snow bridge counts as one. -/
def State.hops (s : State) (part a b : Nat) : Nat := (s.route part a b).length

def State.portless (s : State) (site : Nat) : Bool := (s.site site).ports == 0

/-- The links of a route that leave its routers, as router and direction: 0 east, 1 west, 2 north, 3 south. A snow bridge leaves in
the direction that it crosses. -/
def linksOfRoute (a : Nat) (route : List Nat) : List (Nat × Nat) :=
  ((a :: route).zip route).map (fun x =>
    (x.1, if x.1 % 8 < x.2 % 8 then 0 else if x.2 % 8 < x.1 % 8 then 1 else if x.2 < x.1 then 2 else 3))

/-- Nothing goes through a fenced mesh link, which R371 gives a physical index: the direction it leaves its site in, as R367
numbers them (R368). DESIGN CHOICE, log 112. -/
def State.meshOpen (s : State) (part a b : Nat) : Bool :=
  (linksOfRoute a (s.route part a b)).all (fun l =>
    match s.partSite part l.1 with
    | some k => !(s.site k).fencedParts.contains (3 * 2 ^ 28 + l.2)
    | none => true)

/-! ### Planes and ports (R265, R266) -/

/-- A cost in ns over hops of the mesh, and a fixed external cost, by the constants of a site. Flits that wait at an egress are
traffic that this model does not hold: free values, by egress. -/
def Site.meshCost (x : Site) (hops flits : Nat) : Nat :=
  (x.rselcfg.extractLsb' 48 16).toNat * hops + (x.rselcfg.extractLsb' 24 8).toNat * flits
def Site.extCost (x : Site) (flits : Nat) : Nat :=
  (x.rselcfg.extractLsb' 32 16).toNat + (x.rselcfg.extractLsb' 16 8).toNat * flits
def State.flits (s : State) (seed egress : Nat) : Nat := Config.freeNat (s.draw 11 (seed * 128 + egress))

/-- The sites by whose ports an external packet of a site may leave, each with its cost: its own while a port of it works, else every
other site of its partition that works and has a working port, in ascending order (R265). Which sites those are is DEDUCED,
log 122. -/
def State.exits (s : State) (src seed : Nat) : List (Nat × Nat) :=
  let x := s.site src
  let part := s.partOf src
  if x.ports ≠ 0 then [(src, x.extCost (s.flits seed 1))]
  else
    let others := match s.part? part with
      | some p => p.sites.filter (fun k => (s.site k).part == some part && s.live k && (s.site k).ports != 0 &&
          s.meshOpen part x.lsite (s.site k).lsite)
      | none => []
    others.map (fun k =>
      (k, x.meshCost (s.hops part x.lsite (s.site k).lsite) 0 + x.extCost (s.flits seed (2 + k % 64))))

/-- The least of a list of costs, the first of equals. -/
def leastCost (l : List (Nat × Nat)) : Option (Nat × Nat) :=
  l.foldl (fun m c => match m with
    | none => some c
    | some d => if c.2 < d.2 then some c else some d) none

/-- The way that R265 chooses for a packet, `force` the PLANE of a pending mod. -/
def State.wayFor (s : State) (src dst force seed : Nat) : Way :=
  let x := s.site src
  let part := s.partOf src
  let exit := leastCost (s.exits src seed)
  let out : Way := { plane := 2, exit := (exit.map (fun c => c.1)).getD src }
  let mesh : Way := { plane := 1, exit := src }
  if src / 64 ≠ dst / 64 ∨ !s.meshOpen part x.lsite (s.site dst).lsite then out
  else if force = 1 then mesh
  else if force = 2 then out
  else match exit with
    | none => mesh
    | some c => if x.meshCost (s.hops part x.lsite (s.site dst).lsite) (s.flits seed 0) ≤ c.2 then mesh else out

/-- The plane of that way: 1 mesh, 2 external. -/
def State.planeFor (s : State) (src dst force seed : Nat) : Nat := (s.wayFor src dst force seed).plane

/-! ### Across the external plane (R268) -/

/-- So many slots from now a working port of a site is matched to the device of another. -/
def State.matchedIn (s : State) (slots src dst : Nat) : Bool :=
  let x := s.site src
  (List.range 4).any (fun i => x.ports.getLsbD i && Config.rotorMatched (x.rotor + slots) src i (dst / 64))
/-- In its present slot a site is matched to the device of another. -/
def State.matchedNow (s : State) (src dst : Nat) : Bool := s.matchedIn 0 src dst
/-- The schedule matches a port of a site to the device within RELAYSLOTS slots. -/
def State.matchSoon (s : State) (src dst : Nat) : Bool :=
  (List.range ((s.site src).rselcfg.extractLsb' 8 8).toNat).any (fun i => s.matchedIn i src dst)

/-- A packet, or a reply, may arrive: it stays on its device's mesh, or a relay has sent it on, or the device is matched now to a
port of the site where it leaves (R268). -/
def State.mayCross (s : State) (w : Way) (src dst : Nat) (relay : Option Nat) (relayed : Bool) : Bool :=
  relay.isNone && ((w.plane != 2 && src / 64 == dst / 64) || relayed || s.matchedNow w.exit dst)

/-- A packet of n bytes on the external plane may go to the relay buffer of a device matched now: no direct matching is near, it has
not been relayed before, and the buffer of 128 MiB has room (R268). -/
def State.mayRelay (s : State) (w : Way) (dst n via : Nat) : Bool :=
  w.plane == 2 && via / 64 != w.exit / 64 && via / 64 != dst / 64 && decide (via < Config.maxDevices * 64) &&
    !s.matchSoon w.exit dst && s.matchedNow w.exit via && s.live via && decide ((s.site via).relay + n ≤ 2 ^ 27)

/-- A packet of a promise instruction may cross now: over the mesh, at a matching, or through a relay buffer with room, in which
it spends no step (R268). DESIGN CHOICE, log 95. -/
def State.crosses (s : State) (src dst seed : Nat) : Bool :=
  let w := s.wayFor src dst 0 seed
  s.mayCross w src dst none false || (List.range Config.maxDevices).any (fun d =>
    (List.range 64).any (fun k => s.mayRelay w dst 64 (d * 64 + k)))

end Sys2Proof.Machine
end

