-- ==== Sys2Proof/Machine/Sync.lean ====
section
/-! DEFINITION. Barrier words and promise cells of row 0xD (R296 to R316), and the fills that the scheduler, an armed
action or a reduction makes (R29, R201, R256, R328). A promise operation is carried out whole at one step, which is one
of the serialisations R306 allows. -/

namespace Sys2Proof.Machine

/-! ### Barrier words (R296 to R302) -/

/-- The fields of a barrier word (R296). -/
structure Barrier where
  phase : Nat
  expect : Nat
  arrived : Nat
  drops : Nat
deriving DecidableEq, Repr

def Barrier.ofNat (v : Nat) : Barrier :=
  { phase := v / 2 ^ 48 % 65536, expect := v / 2 ^ 32 % 65536, arrived := v / 2 ^ 16 % 65536, drops := v % 65536 }
def Barrier.toNat (b : Barrier) : Nat := b.phase * 2 ^ 48 + b.expect * 2 ^ 32 + b.arrived * 2 ^ 16 + b.drops

/-- A 16-aligned word of the team's own site, off replicated pages; f goes on with its physical address (R297). An argument
that misuses the word traps once the address has passed its checks, before a translation fault (R49). -/
def State.barrierAt (s : State) (c : Ctx) (a : Word) (wrt misuse : Bool) (f : Nat → State) : State :=
  let chk := s.checkWord c.t.party a 16 (if wrt then .write else .read)
  if chk.repl || (misuse && !chk.memory) then s.trapAll c 5 0x01
  else match s.wordTraps c wrt (c.lanes.map (fun l => (l, a, chk))) with
    | some s1 => s1
    | none => f chk.phys

/-- Wakes every `barw` parked on a word for a token with the phase that follows (R299). -/
def State.wakePhase (s : State) (word token : Nat) : State :=
  s.teams.foldl (fun s t =>
    if t.parkedIn.map (fun w => w.1) = some (.barrier word token) then
      s.wakeTeam t.id (some (.phase true (BitVec.ofNat 64 ((token + 1) % 65536))))
    else s) s

/-- A barrier word as its port finds it: a transaction that holds its line aborts first (R200, R235). -/
def State.readBarrier (s : State) (word : Nat) : State × Barrier :=
  let s1 := s.txRead 0 (word / 64)
  (s1, Barrier.ofNat (Mem.read s1.mem word 8))

/-- One arrival at the port: none when the word is misused, else the token (R299). -/
def State.arrive (s0 : State) (word : Nat) (drop : Bool) : State × Option Nat :=
  let (s, b) := (s0.settleFetched 0 [word / 64]).readBarrier word
  if b.expect = 0 ∨ b.expect ≤ b.arrived ∨ b.arrived < b.drops then (s, none)
  else
    let drops := b.drops + (if drop then 1 else 0)
    let last := b.arrived + 1 = b.expect
    let b1 : Barrier :=
      if last then { phase := (b.phase + 1) % 65536, expect := b.expect - drops, arrived := 0, drops := 0 }
      else { b with arrived := b.arrived + 1, drops }
    let s1 := (s.keepOld 0 (word / 64)).invalidate (word / 2 ^ 37) word 8
    let s2 := { s1 with mem := Mem.write s1.mem word 8 b1.toNat }
    (if last then s2.wakePhase word b.phase else s2, some b.phase)

/-- `bari` prepares a barrier word (R298). -/
def execBari (g : Guard) (kb : Fin 32) (s : State) : Host.Outcome State Fault Refusal :=
  s.runOutsideTx { op := 0xD0, sel := .guard g, blk := some (kb, 2) } (fun s c =>
    match c.diverges [0, 1] with
    | some ls => s.trapList c 1 0x08 ls
    | none =>
      let n := (c.arg1 1).toNat
      s.barrierAt c (c.arg1 0) true (decide (n = 0 ∨ 65535 < n)) (fun w =>
        let (s1, b) := ((s.settleCounter c.t.id w).settleFetched c.t.id [w / 64]).readBarrier w
        if b.arrived ≠ 0 ∨ b.drops ≠ 0 then s1.trapAll c 5 0x01
        else (s1.portWrite c.t.id w (leBytes 8 { b with expect := n : Barrier }.toNat)).commit c id))

/-- The voted address of an M-format barrier instruction, and what differs from it. -/
def addrs16 (c : Ctx) (off : BitVec 8) : LaneVec :=
  let o := BitVec.ofInt 64 (extField { c.hint with immh := none } off * 16)
  vtab c.t.nlane (fun l => lane (c.val 0) l + o)

/-- `barr` and `bard` (R297, R299). -/
def State.runArrive (s : State) (sh : Shape) (off : BitVec 8) (drop : Bool) : Host.Outcome State Fault Refusal :=
  s.runOutsideTx sh (fun s c =>
    let av := addrs16 c off
    let a := lane av c.first
    let d := voteOf c av
    if !d.isEmpty then s.trapList c 1 0x08 d
    else s.barrierAt c a true false (fun w =>
      s.afterAll c.t (fun s =>
        match s.arrive w drop with
        | (s1, none) => s1.trapAll c 5 0x01
        | (s1, some token) => s1.push c (vtab c.t.nlane (fun _ => BitVec.ofNat 64 token)))))

/-- Arrive (R299). -/
def execBarr (g : Guard) (d : Dst) (b : Src) (off : BitVec 8) (s : State) : Host.Outcome State Fault Refusal :=
  s.runArrive { op := 0xD1, sel := .guard g, srcs := [b], dst := some d, pass := some b, imm := true } off false
/-- Arrive and drop (R299). -/
def execBard (g : Guard) (b : Src) (off : BitVec 8) (s : State) : Host.Outcome State Fault Refusal :=
  s.runArrive { op := 0xD3, sel := .guard g, srcs := [b], imm := true } off true

/-- Completes with a predicate and a value for every active lane. -/
def State.pushTest (s : State) (c : Ctx) (p : Fin 7) (ok : Bool) (v : Word) : State :=
  s.commit c (fun t => (t.pushAll c.sh c.act (vtab t.nlane (fun _ => v)) c.pass).writeP p.val c.act
    (if ok then BitVec.allOnes 1024 else 0))

/-- `barw` waits for the phase after a token (R301). -/
def execBarw (g : Guard) (p : Fin 7) (off : BitVec 5) (a b : Src) (s : State) : Host.Outcome State Fault Refusal :=
  s.runOutsideTx { op := 0xD2, sel := .guard g, srcs := [a, b], dst := some .drift, pass := some a, imm := true }
    (fun s c =>
      match c.wake with
      | some (.phase ok v) => s.pushTest c p ok v
      | _ =>
        let tv := vtab c.t.nlane (fun l => lane (c.val 0) l &&& 0xFFFF)
        let o := BitVec.ofInt 64 (extOff5 c.hint off * 16)
        let av := vtab c.t.nlane (fun l => lane (c.val 1) l + o)
        let a := lane av c.first
        let d1 := voteOf c tv
        let d2 := voteOf c av
        if !d1.isEmpty then s.trapList c 1 0x08 d1
        else if !d2.isEmpty then s.trapList c 1 0x08 d2
        else s.barrierAt c a false false (fun w =>
          let (s1, b) := (s.settleCounter c.t.id w).readBarrier w
          let token := (lane tv c.first).toNat
          let phase := b.phase
          let d := (phase + 65536 - token) % 65536
          if d = 0 then s1.parkAt c (.barrier w token)
          else if d < 32768 then s1.pushTest c p (d == 1) (BitVec.ofNat 64 phase)
          else s1.trapAll c 5 0x01))

/-! ### Reaching another site (R177, R266, R269, R334) -/

/-- The tenant's number for the device of a site: the least one its name table gives to the site (R21, R177). -/
def State.ownDev (s : State) (site tenant : Nat) : Nat :=
  match s.tenantDesc site tenant with
  | none => 0
  | some d =>
    ((List.range d.devices).find? (fun i =>
      (s.lookupName site tenant i (s.site site).lsite).map (fun r => r.1) == some site)).getD 0

/-- A party that acts at a site for a tenant without being a team. -/
def State.partyAt (s : State) (site tenant : Nat) (user : Bool) : Party :=
  { site, ldev := s.ownDev site tenant, lsite := (s.site site).lsite, tenant, user }

/-- The domain of a site's partition: none outside every partition. -/
def State.domainOf (s : State) (site : Nat) : Option Nat :=
  (s.site site).part.bind (fun p => (s.part? p).map (fun q => q.domain))

/-- A destination that works applies a packet of this incarnation and domain (R266, R269, R334). -/
def State.accepts (s : State) (src dst : Nat) (inc : BitVec 32) : Bool :=
  s.live dst && (s.site dst).inc == inc && (s.domainOf src).isSome && s.domainOf dst == s.domainOf src

/-- Where an address lies for a party. -/
inductive Reach where
  | at_ (site : Nat) (inc : BitVec 32)
  | unmapped
deriving DecidableEq, Repr

def State.reach (s : State) (p : Party) (a : Word) : Reach :=
  if gDev a = p.ldev ∧ gSite a = p.lsite then .at_ p.site (s.site p.site).inc
  else match s.lookupName p.site p.tenant (gDev a) (gSite a) with
    | none => .unmapped
    | some (dst, inc) => .at_ dst inc

/-- A packet goes to the site of an address: the name enters the name cache (R177), and a delivery context is in use (R267). -/
def State.sendTo (s : State) (p : Party) (a : Word) : State :=
  match s.reach p a with
  | .unmapped => s
  | .at_ k _ =>
    if k = p.site then s else (s.fillName p.site p.tenant (gDev a) (gSite a)).touchPdc p.site k false none

/-- The destination of a packet drops and counts it: a foreign domain key, else a stale incarnation (R266). -/
def State.countDrop (s0 : State) (p : Party) (a : Word) : State :=
  let s := s0.sendTo p a
  match s.reach p a with
  | .unmapped => s
  | .at_ k inc =>
    let x := s.site k
    if !s.live k then s
    else if s.domainOf k != s.domainOf p.site then s.putSite { x with keyDrop := x.keyDrop + 1 }
    else if x.inc != inc then s.putSite { x with incDrop := x.incDrop + 1 }
    else s

/-- The same party as the destination sees it, whose own tables translate (R174). -/
def Party.away (p : Party) (site : Nat) (a : Word) : Party :=
  { p with site, ldev := gDev a, lsite := gSite a, core := if site = p.site then p.core else none }

/-! ### Promise cells (R303 to R305) -/

/-- A cell after the checks of R304. -/
inductive CellX where
  | ok (phys : Nat) (repl : Bool)
  | align | prot | name | wait | lost
  | fault (site : Nat) (lvl : Bool)
  | broken (site ofs rule : Nat)
deriving DecidableEq, Repr

/-- The checks of a cell that a promise instruction names. A cell in a control window fails protection wherever it lies
(R393). A team's packet to another site waits for its way (R268). -/
def State.cellAt (s : State) (p : Party) (need : Need) (a : Word) : CellX :=
  if a.toNat % 16 ≠ 0 then .align
  else if region (gOfs a) = .control then .prot
  else match s.reach p a with
    | .unmapped => .name
    | .at_ k inc =>
      if k ≠ p.site && p.core.isSome && !s.crosses p.site k a.toNat then .wait
      else if k ≠ p.site && !s.accepts p.site k inc then .lost
      else match s.checkWord (p.away k a) a 16 need with
        | .ok phys repl => .ok phys repl
        | .align => .align
        | .seam => .prot
        | .prot => .prot
        | .fault l => .fault k l
        | .broken o r => .broken k o r

/-- State of a cell (R303). -/
inductive CellSt where
  | empty | full | invalid
  | linked (parent : Word)
deriving DecidableEq, Repr

def State.waitList? (s : State) (root : Nat) : Option WaitList :=
  (s.site (root / 2 ^ 37)).waits.find? (fun w => w.root == root)

/-- The state of the cell at a physical address. -/
def State.cellSt (s : State) (phys : Nat) : CellSt :=
  let w := Mem.word s.mem (phys + 8)
  let link := w.extractLsb' 0 60
  let st := w.extractLsb' 62 2
  if w.extractLsb' 60 2 ≠ 0 ∨ st = 3 then .invalid
  else if st = 2 then (if link = 0 then .full else .invalid)
  else if st = 1 then .linked (BitVec.ofNat 64 (link.toNat * 16))
  else if link = 0 then .empty
  else match s.waitList? phys with
    | some w => if w.head = link then .empty else .invalid
    | none => .invalid

/-- The port's write of a cell, or of one of its words. -/
def State.cellWrite (s : State) (a : Nat) (bs : List Byte) : State :=
  let s1 := (((s.settleFetched 0 [a / 64]).txOutside 0 (a / 64)).keepOld 0 (a / 64)).invalidate (a / 2 ^ 37) a bs.length
  { s1 with mem := Mem.setBytes s1.mem a bs }.retestBarriers a bs.length

/-- Word 1 of a cell that links to a parent. -/
def linkWord (parent : Word) : Word := BitVec.ofNat 64 (2 ^ 62 + parent.toNat / 16)

/-- What FIND answers. -/
inductive FindR where
  | root (addr : Word) (phys : Nat) (full : Bool)
  | trap (cls code : Nat)
  | wait
  | lost (addr : Word)
  | fault (site : Nat) (addr : Word) (lvl : Bool)
  | broken (site ofs rule : Nat)
deriving DecidableEq, Repr

/-- What stops at a cell that does not pass its checks; none for one that does. -/
def CellX.stop (a : Word) : CellX → Option FindR
  | .ok _ false => none
  | .ok _ true => some (.trap 5 0x02)
  | .align => some (.trap 4 0x01)
  | .prot => some (.trap 4 0x03)
  | .name => some (.trap 4 0x04)
  | .wait => some .wait
  | .lost => some (.lost a)
  | .fault k l => some (.fault k a l)
  | .broken k o r => some (.broken k o r)

/-- The physical address of a cell that passed. -/
def CellX.phys : CellX → Nat
  | .ok p _ => p
  | _ => 0

/-- A party reaches a cell at its port: a packet goes to another site, and a transaction that holds the cell's line aborts before
the cell is read (R200, R235). -/
def State.reachCell (s : State) (p : Party) (a : Word) (phys : Nat) : State := (s.sendTo p a).txRead 0 (phys / 64)

/-- FIND from a cell, with the cells whose links it followed and the links; at most as many links as the fuel (R305). -/
def State.find (s : State) (p : Party) (need : Need) : Nat → Word → List (Nat × Word) → State × FindR × List (Nat × Word)
  | fuel, a, path =>
    let x := s.cellAt p need a
    match x.stop a with
    | some r => (s, r, path)
    | none =>
      let s1 := s.reachCell p a x.phys
      match s1.cellSt x.phys with
      | .invalid => (s1, .trap 5 0x03, path)
      | .empty => (s1, .root a x.phys false, path)
      | .full => (s1, .root a x.phys true, path)
      | .linked b =>
        match fuel with
        | 0 => (s1, .trap 5 0x04, path)
        | fuel + 1 => s1.find p need fuel b (path ++ [(x.phys, linkWord b)])

/-- The conditional write of a link: it changes only while it holds the value that the traversal read (R305). -/
def State.relink (s : State) (cell : Nat) (old new : Word) : State :=
  let (s1, v) := s.readWord 0 (cell + 8)
  if v = old ∧ old ≠ new then s1.cellWrite (cell + 8) (leBytes 8 new.toNat) else s1

/-- FIND with its compression: the followed links in the root's slice, or all of them, come to name the root. -/
def State.findRoot (s : State) (p : Party) (need : Need) (every : Bool) (a : Word) : State × FindR :=
  match s.find p need 256 a [] with
  | (s1, .root b phys full, path) =>
    (path.foldl (fun s c =>
      if every || c.1 / 2 ^ 37 == phys / 2 ^ 37 then s.relink c.1 c.2 (linkWord b) else s) s1, .root b phys full)
  | (s1, r, _) => (s1, r)

/-! ### Waiter lists and fills (R307, R310) -/

/-- A dependence cell of a waiting launch is full; once all are, the launch is eligible (R283, R285, `openLaunches`). -/
def State.depFull (s : State) (part launch cell : Nat) : State :=
  match s.part? part with
  | none => s
  | some p => s.putPart { p with journal := p.journal.map (fun e =>
      if e.launch = launch ∧ e.state = .waiting then
        { e with depsFull := if e.depsFull.contains cell then e.depsFull else cell :: e.depsFull }
      else e) }

def State.wakeWaiter (s : State) (v : Word) : CWaiter → State
  | .team id => s.wakeTeam id (some (.value v))
  | .dep part launch cell => s.depFull part launch cell

/-- Takes the waiter list of a root. -/
def State.takeWaiters (s : State) (root : Nat) : State × List CWaiter :=
  match s.waitList? root with
  | none => (s, [])
  | some w =>
    let x := s.site (root / 2 ^ 37)
    (s.putSite { x with waits := x.waits.filter (fun y => y.root != root) }, w.who)

/-- Adds waiters at the end of an empty root's list; the head that LINK then holds is the machine's own choice (R303). -/
def State.addWaiters (s : State) (root : Nat) (who : List CWaiter) : State :=
  if who.isEmpty then s
  else
    let x := s.site (root / 2 ^ 37)
    match s.waitList? root with
    | some w => s.putSite { x with waits := x.waits.map (fun y => if y.root == root then { w with who := w.who ++ who } else y) }
    | none =>
      let h := (Config.freeWord (s.draw 9 root)).extractLsb' 0 60
      let head : BitVec 60 := if h = 0 then 1 else h
      let s1 := { s with free := s.free + 1 }.cellWrite (root + 8) (leBytes 8 head.toNat)
      let y := s1.site (root / 2 ^ 37)
      s1.putSite { y with waits := y.waits ++ [{ root := root, head, who }] }

/-- Gives an empty root a value and wakes its waiters. -/
def State.fillRoot (s : State) (root : Nat) (v : Word) : State :=
  let (s1, who) := s.takeWaiters root
  who.foldl (fun s w => s.wakeWaiter v w) (s1.cellWrite root (leBytes 8 v.toNat ++ leBytes 8 (2 ^ 63)))

/-! ### The promise instructions (R309 to R314) -/

/-- A trap of one lane's cell, a park, or a frozen partition. -/
def State.stopCell (s : State) (c : Ctx) (l : Nat) (a : Word) (wrt : Bool) : FindR → State
  | .root _ _ _ => s
  | .trap cls code => s.trapList c cls code [(l, a)]
  | .wait => s.parkAt c .rotor
  | .lost b => (s.countDrop c.t.party b).parkAt c (.delivery l a b)
  | .broken k o r => s.freezeEntry (s.partOf k) k o c.t.ctl.acting.toNat r
  | .fault k b lvl =>
    let tenant := c.t.ctl.acting.toNat
    let page := gOfs b / 65536
    let (placed, s1) := (s.sendTo c.t.party b).pageFault k tenant page wrt false (k != c.t.place.site) lvl b (.team c.t.id)
    s1.parkAt c (if placed then .translation k tenant page else .faultPlace k tenant page)

/-- The named cells that answer as q says, by lane. -/
def State.pickCells (s : State) (c : Ctx) (wrt : Bool) (ls : List (Nat × Word)) (q : CellX → Bool) : List (Nat × Word) :=
  ls.filter (fun x => q (s.cellAt c.t.party (if wrt then .write else .read) x.2))

/-- The memory-class checks of R304 over the named cells, step 8 of R49; f goes on when they pass. -/
def State.memCells (s : State) (c : Ctx) (wrt : Bool) (ls : List (Nat × Word)) (f : State → State) : State :=
  let al := s.pickCells c wrt ls (fun r => r == .align)
  let pr := s.pickCells c wrt ls (fun r => r == .prot)
  let na := s.pickCells c wrt ls (fun r => r == .name)
  if !al.isEmpty then s.trapList c 4 0x01 al
  else if !pr.isEmpty then (pr.foldl (fun s x => s.sendTo c.t.party x.2) s).trapList c 4 0x03 pr
  else if !na.isEmpty then s.trapList c 4 0x04 na
  else f s

/-- The same, and no cell on a replicated page, for an instruction that acts on all its lanes or on none (R304). -/
def State.withCells (s : State) (c : Ctx) (wrt : Bool) (ls : List (Nat × Word)) (f : State → State) : State :=
  s.memCells c wrt ls (fun s =>
    let re := s.pickCells c wrt ls (fun r => match r with | .ok _ repl => repl | _ => false)
    if !re.isEmpty then s.trapList c 5 0x02 re else f s)

/-- The own-site cells of an instruction, whose lines the team's earlier accesses reach first (R194). -/
def State.settleCells (s : State) (c : Ctx) (ls : List (Nat × Word)) : State :=
  ls.foldl (fun s x =>
    match s.cellAt c.t.party .read x.2 with
    | .ok phys _ => if phys / 2 ^ 37 = c.t.place.site then s.settleCounter c.t.id phys else s
    | _ => s) s

/-- Lane addresses base + off8 × 16. -/
def cellsM (c : Ctx) (off : BitVec 8) : List (Nat × Word) :=
  let av := addrs16 c off
  c.lanes.map (fun l => (l, lane av l))

/-- A lane of the instruction has acted: a retry after a park leaves it out (R309). -/
def State.laneDone (s : State) (tid l : Nat) : State :=
  match s.team? tid with
  | some t => s.putTeam { t with did := t.did ||| (1 <<< l : Mask) }
  | none => s

/-- `pinit` of one lane's cell at its port: nothing stops it, or what does (R309). -/
def State.pinitCell (s0 : State) (p : Party) (a : Word) : State × Option FindR :=
  let x := s0.cellAt p .write a
  match x.stop a with
  | some r => (s0, some r)
  | none =>
    let s := s0.reachCell p a x.phys
    let zero := s.cellWrite x.phys (leBytes 16 0)
    match s.cellSt x.phys with
    | .invalid => (s, some (.trap 5 0x03))
    | .empty => if (s.waitList? x.phys).isSome then (s, some (.trap 5 0x05)) else (zero, none)
    | .full => (zero, none)
    | .linked _ => (zero, none)

/-- `pinit`, lane by lane until one traps or waits; the lanes before it keep their effect (R309). -/
def State.pinitLanes (s : State) (c : Ctx) : List (Nat × Word) → State
  | [] => s.commit c id
  | (l, a) :: r =>
    match s.pinitCell c.t.party a with
    | (s1, none) => (s1.laneDone c.t.id l).pinitLanes c r
    | (s1, some x) => s1.stopCell c l a true x

/-- `pinit` (R309). The memory-class checks of all lanes come first, then the lanes one by one. DEDUCED, log 91. -/
def execPinit (g : Guard) (b : Src) (off : BitVec 8) (s : State) : Host.Outcome State Fault Refusal :=
  s.runOutsideTx { op := 0xD4, sel := .guard g, srcs := [b], imm := true } (fun s c =>
    let ls := (cellsM c off).filter (fun x => !Mask.has c.t.did x.1)
    s.memCells c true ls (fun s => (s.settleCells c ls).pinitLanes c ls))

/-- What FIND answers for a cell: lane, the cell it names, the answer. -/
abbrev Stop := Nat × Word × FindR

/-- What FIND answers for each of a list of cells, one after another. -/
def State.findAll (s : State) (c : Ctx) (wrt : Bool) : List (Nat × Word) → State × List Stop
  | [] => (s, [])
  | (l, a) :: r =>
    let (s1, x) := s.findRoot c.t.party (if wrt then .write else .read) false a
    let (s2, xs) := s1.findAll c wrt r
    (s2, (l, a, x) :: xs)

/-- The roots among the answers: lane, physical address, address, full. -/
def rootsOf (xs : List Stop) : List (Nat × Nat × Word × Bool) :=
  xs.filterMap (fun x => match x.2.2 with | .root b phys full => some (x.1, phys, b, full) | _ => none)

/-- The trap that comes first among the answers, with the lanes that it concerns: by the order of R49, and within one of its steps
by code (DESIGN CHOICE, log 126). -/
def firstTrap (xs : List Stop) : Option (Nat × Nat × List (Nat × Word)) :=
  let ts := xs.filterMap (fun x => match x.2.2 with | .trap cls code => some (cls * 2 ^ 16 + code, x.1, x.2.1) | _ => none)
  (ts.map (fun x => x.1)).min?.map (fun k =>
    (k / 2 ^ 16, k % 2 ^ 16, (ts.filter (fun x => x.1 == k)).map (fun x => x.2)))

/-- Goes on with f where every answer is a root: a trap comes first, then the conflicts of a fill, then a page that stops the
machine or does not translate, or a cell that is not reached (R49). -/
def State.withRoots (s : State) (c : Ctx) (wrt : Bool) (xs : List Stop) (conflict : List (Nat × Word)) (f : State → State) : State :=
  match firstTrap xs with
  | some (cls, code, ls) => s.trapList c cls code ls
  | none =>
    if !conflict.isEmpty then s.trapList c 5 0x06 conflict
    else match xs.find? (fun x => match x.2.2 with | .root _ _ _ => false | _ => true) with
      | some (l, a, r) => s.stopCell c l a wrt r
      | none => f s

/-- The values that roots are given, lane by lane: the given ones, and the lanes that conflict (R310). -/
def fillPlan (s : State) (data : Nat → Word) : List (Nat × Nat × Word × Bool) → List (Nat × Word) → List Nat →
    List (Nat × Word) × List Nat
  | [], given, bad => (given, bad)
  | (l, phys, _, full) :: r, given, bad =>
    let v := data l
    let known : Option Word := if full then some (Mem.word s.mem phys) else (given.find? (fun x => x.1 == phys)).map (fun x => x.2)
    match known with
    | some w => fillPlan s data r given (if w = v then bad else bad ++ [l])
    | none => fillPlan s data r (given ++ [(phys, v)]) bad

/-- `pfill`: all lanes or none (R310). -/
def execPfill (g : Guard) (d b : Src) (off : BitVec 8) (s : State) : Host.Outcome State Fault Refusal :=
  s.runOutsideTx { op := 0xD5, sel := .guard g, srcs := [b, d], imm := true } (fun s c =>
    let ls := cellsM c off
    s.withCells c true ls (fun s => s.afterAll c.t (fun s =>
      let (s1, xs) := s.findAll c true ls
      let (given, bad) := fillPlan s1 (fun l => lane (c.val 1) l) (rootsOf xs) [] []
      s1.withRoots c true xs (ls.filter (fun x => bad.contains x.1)) (fun s =>
        (given.foldl (fun s x => s.fillRoot x.1 x.2) s).commit c id))))

/-- `pwait` (R311). -/
def execPwait (g : Guard) (d : Dst) (b : Src) (off : BitVec 8) (s : State) : Host.Outcome State Fault Refusal :=
  s.runOutsideTx { op := 0xD6, sel := .guard g, srcs := [b], dst := some d, pass := some b, imm := true } (fun s c =>
    match c.wake with
    | some (.value v) => s.push c (vtab c.t.nlane (fun _ => v))
    | _ =>
      let ls := (cellsM c off).take 1
      s.withCells c false ls (fun s =>
        let (s1, xs) := (s.settleCells c ls).findAll c false ls
        s1.withRoots c false xs [] (fun s =>
          match rootsOf xs with
          | (l, phys, _, full) :: _ =>
            if full then s.push c (vtab c.t.nlane (fun _ => Mem.word s.mem phys))
            else (s.addWaiters phys [.team c.t.id]).parkAt c (.cell l ((ls.headD (0, 0)).2))
          | [] => s)))

/-- `ptest` (R312). -/
def execPtest (g : Guard) (p : Fin 7) (off : BitVec 5) (b : Src) (s : State) : Host.Outcome State Fault Refusal :=
  s.runOutsideTx { op := 0xD7, sel := .guard g, srcs := [b], dst := some .drift, imm := true } (fun s c =>
    let o := BitVec.ofInt 64 (extOff5 c.hint off * 16)
    let ls := [(c.first, lane (c.val 0) c.first + o)]
    s.withCells c false ls (fun s =>
      let (s1, xs) := (s.settleCells c ls).findAll c false ls
      s1.withRoots c false xs [] (fun s =>
        match rootsOf xs with
        | (_, phys, _, true) :: _ => s.pushTest c p true (Mem.word s.mem phys)
        | _ => s.pushTest c p false 0)))

/-- Equates two roots, the lower-addressed one staying a root; none when their values differ (R313). -/
def State.equate (s : State) (lo hi : Nat × Word × Bool) : Option State :=
  if lo.1 = hi.1 then some s
  else
    let link (s : State) : State := s.cellWrite (hi.1 + 8) (leBytes 8 (linkWord lo.2.1).toNat)
    match lo.2.2, hi.2.2 with
    | false, false => let (s1, who) := s.takeWaiters hi.1; some ((link s1).addWaiters lo.1 who)
    | false, true => some ((link s).fillRoot lo.1 (Mem.word s.mem hi.1))
    | true, false =>
      let v := Mem.word s.mem lo.1
      let (s1, who) := s.takeWaiters hi.1
      some (who.foldl (fun s w => s.wakeWaiter v w) (link s1))
    | true, true => if Mem.word s.mem lo.1 = Mem.word s.mem hi.1 then some s else none

/-- `peq` (R313). Its conflicting fill has two cells and no rule says which it records: the lowest active lane is marked, with the
address in a. DESIGN CHOICE, log 123. -/
def execPeq (g : Guard) (a b : Src) (s : State) : Host.Outcome State Fault Refusal :=
  s.runOutsideTx { op := 0xD8, sel := .guard g, srcs := [a, b] } (fun s c =>
    let l := c.first
    let ls := [(l, lane (c.val 0) l), (l, lane (c.val 1) l)]
    s.withCells c true ls (fun s => s.afterAll c.t (fun s =>
      let (s1, xs) := s.findAll c true ls
      s1.withRoots c true xs [] (fun s =>
        match rootsOf xs with
        | [(_, pa, ga, fa), (_, pb, gb, fb)] =>
          let x := (pa, ga, fa)
          let y := (pb, gb, fb)
          (match if ga.toNat ≤ gb.toNat then s.equate x y else s.equate y x with
           | some s2 => s2.commit c id
           | none => s.trapList c 5 0x06 (ls.take 1))
        | _ => s))))

/-- `pcomp`, lane by lane until one traps (R314). -/
def State.pcompLanes (s : State) (c : Ctx) : List (Nat × Word) → State
  | [] => s.commit c id
  | (l, a) :: r =>
    match s.findRoot c.t.party .write true a with
    | (s1, .root _ _ _) => s1.pcompLanes c r
    | (s1, x) => s1.stopCell c l a true x
def execPcomp (g : Guard) (b : Src) (off : BitVec 8) (s : State) : Host.Outcome State Fault Refusal :=
  s.runOutsideTx { op := 0xD9, sel := .guard g, srcs := [b], imm := true } (fun s c =>
    let ls := cellsM c off
    s.memCells c true ls (fun s => (s.settleCells c ls).pcompLanes c ls))

/-! ### Fills and increments that no team makes (R29, R254, R256, R328) -/

def State.dropFill (s : State) (id : Nat) : State := { s with fills := s.fills.filter (fun f => f.id != id) }

/-- A fill or increment waits on a translation fault of a site. -/
def State.waitFill (s : State) (f : Fill) (site : Nat) (a : Word) (lvl : Bool) : State :=
  let (_, s1) := s.pageFault site f.tenant (gOfs a / 65536) true false (site != f.site) lvl a (.fill f.id)
  { s1 with fills := s1.fills.map (fun g => if g.id == f.id then { g with waiting := true } else g) }

/-- An event for a fill of a cell that is full already: of a completion cell or an armed fill when the value differs, of a
collective's cell whichever it holds (R29, R256, R329). -/
def Fill.conflicts (f : Fill) (held : Word) : Bool := f.evFull == 0x04 || held != f.value

/-- Carries out one fill or increment. A fill whose cell's site is not reached, or whose cell is misaligned or on a
replicated page, is given up with the event of one that cannot be applied. DESIGN CHOICE, log 92. -/
def State.runFill (s : State) (f : Fill) : State :=
  let p := s.partyAt f.site f.tenant f.user
  if f.kind = 0 then
    match s.findRoot p .write false f.target with
    | (s1, .root _ phys full) =>
      let s2 := s1.dropFill f.id
      if full then
        (if f.conflicts (Mem.word s2.mem phys) then s2.event f.site f.tenant f.evFull f.target else s2)
      else s2.fillRoot phys f.value
    | (s1, .fault k a lvl) => s1.waitFill f k a lvl
    | (s1, .broken k o r) => s1.freezeEntry (s1.partOf k) k o f.tenant r
    | (s1, .trap _ _) => (s1.dropFill f.id).event f.site f.tenant f.evBad f.target
    | (s1, .wait) => s1
    | (s1, .lost _) => (s1.dropFill f.id).event f.site f.tenant f.evBad f.target
  else
    match s.checkWord { p with ldev := gDev f.target, lsite := gSite f.target } f.target 8 .write with
    | .ok phys repl =>
      let s1 := s.dropFill f.id
      if repl then s1.event f.site f.tenant f.evBad f.target
      else { s1 with incs := s1.incs ++ [{ id := f.id, team := none, ctr := phys, amount := f.value.toNat }] }
    | .fault l => s.waitFill f f.site f.target l
    | .broken o r => s.freezeEntry (s.partOf f.site) f.site o f.tenant r
    | .align => (s.dropFill f.id).event f.site f.tenant f.evBad f.target
    | .seam => (s.dropFill f.id).event f.site f.tenant f.evBad f.target
    | .prot => (s.dropFill f.id).event f.site f.tenant f.evBad f.target

/-- Examines a dependence cell of a waiting launch (R29, R285), from the partition's first member site; a cell whose site is
not reached, or that is misaligned or on a replicated page, fails the launch as an invalid one does. DESIGN CHOICE, logs 90
and 92. -/
def State.examineDep (s : State) (part launch cell : Nat) : State :=
  match s.part? part with
  | none => s
  | some q =>
    match q.journal.find? (fun e => e.launch == launch) with
    | none => s
    | some e =>
      let a := e.lrec.deps.getD cell 0
      if e.state ≠ .waiting ∨ a = 0 ∨ e.depsFull.contains cell then s
      else
        -- at the privilege level of the launched header, which R29 does not name: DESIGN CHOICE, log 114
        let site := s.partHome q
        match s.findRoot (s.partyAt site e.tenant (!e.hdr.supervisor)) .read false a with
        | (s1, .root _ phys full) =>
          if full then s1.depFull part launch cell else s1.addWaiters phys [.dep part launch cell]
        | (s1, .fault k b lvl) =>
          (s1.pageFault k e.tenant (gOfs b / 65536) false false (k != site) lvl b (.dep part launch cell)).2
        | (s1, .broken k o r) => s1.freezeEntry (s1.partOf k) k o e.tenant r
        | (s1, .trap _ _) => s1.depBad part launch
        | (s1, .wait) => s1
        | (s1, .lost _) => s1.depBad part launch

end Sys2Proof.Machine
end

