-- ==== Sys2Proof/Machine/Remote.lean ====
section
/-! DEFINITION. Remote operations: `rput`, `rget`, `ratom`, `rred`, `xput`, `rfence`, `rname` (R267 to R277, R320), and
the fabric's events. -/

namespace Sys2Proof.Machine

/-! ### Issuing (R270, R320) -/

/-- What one lane of a remote operation asks for. -/
structure RemReq where
  lane : Nat
  /-- global destination or source -/
  dest : Word
  local_ : Word := 0
  len : Nat := 0
  opnd : Word := 0
  expect : Word := 0
  ctr : Option Word := none
  /-- addresses with the alignment each needs -/
  aligns : List (Word × Nat) := []
  /-- local ranges: address, bytes, written -/
  ranges : List (Word × Nat × Bool) := []
  /-- the counter names another site than it must -/
  ctrAway : Bool := false
  /-- the counter is the own site's, and lies in a control window -/
  ctrWindow : Bool := false
  /-- the peer is no device number -/
  noName : Bool := false
  lenOk : Bool := true
deriving DecidableEq, Repr

/-- Two addresses name one device and site. -/
def sameSite (a b : Word) : Bool := gDev a == gDev b && gSite a == gSite b

/-- Remote entries in use (R270). -/
def State.remCore (s : State) (core : Nat) : Nat := (s.ops.filter (fun o => o.core == core)).length
def State.remSite (s : State) (site : Nat) : Nat := (s.ops.filter (fun o => o.site == site)).length
def State.remRoom (s : State) (core : Nat) : Bool :=
  decide (s.remCore core < 512) && decide (s.remSite (coreSite core) < 16384)

/-- The checks at issue, in the order of R49: none when they pass. -/
def State.remChecks (s : State) (c : Ctx) (rs : List RemReq) : Option State :=
  let ok := rs.filter (fun r => r.lenOk)
  let al := ok.filterMap (fun r => (r.aligns.find? (fun a => a.1.toNat % a.2 != 0)).map (fun a => (r.lane, a.1)))
  let chk (r : RemReq) : List (Word × RangeChk) := r.ranges.map (fun a => (a.1, s.checkRange c.t.party a.1 a.2.1 a.2.2))
  let se := ok.filterMap (fun r =>
    match (chk r).find? (fun x => x.2 == .seam) with
    | some x => some (r.lane, x.1)
    | none => if r.ctrAway then r.ctr.map (fun a => (r.lane, a)) else none)
  let pr := ok.filterMap (fun r =>
    match (chk r).find? (fun x => x.2 == .prot) with
    | some x => some (r.lane, x.1)
    | none => if r.ctrWindow then r.ctr.map (fun a => (r.lane, a)) else none)
  let na := ok.filterMap (fun r =>
    if r.noName || (s.lookupName c.t.place.site c.t.ctl.acting.toNat (gDev r.dest) (gSite r.dest)).isNone
    then some (r.lane, r.dest) else none)
  let le := (rs.filter (fun r => !r.lenOk)).map (fun r => (r.lane, (0 : Word)))
  if !al.isEmpty then some (s.trapList c 4 0x01 al)
  else if !se.isEmpty then some (s.trapList c 4 0x02 se)
  else if !pr.isEmpty then some (s.trapList c 4 0x03 pr)
  else if !na.isEmpty then some (s.trapList c 4 0x04 na)
  else if !le.isEmpty then some (s.trapList c 6 0x02 le)
  else
    match ok.findSome? (fun r => (chk r).findSome? (fun x => match x.2 with | .broken o n => some (o, n) | _ => none)) with
    | some (o, n) => some (s.freezeEntry c.t.place.part c.t.place.site o c.t.ctl.acting.toNat n)
    | none => none

/-- A pending mod's PLANE. -/
def planeOf (h : Hint) : Nat := match h.mod with | some m => modPlane m | none => 0

/-- The record of an operation that takes an entry, its destination resolved. The plane is kept as the mod forced it until
the packet is sent; an ordered rput joins the pin of those in flight (R271). -/
def State.newOp (s : State) (c : Ctx) (fn : Nat) (r : RemReq) (words : List (Nat × Word × Word × Word)) (ordered : Bool)
    (dst : Nat × BitVec 32) : State :=
  let site := c.t.place.site
  let tenant := c.t.ctl.acting.toNat
  let (id, s1) := s.fresh
  let pin := if ordered then s.ops.find? (fun o => o.team == c.t.id && o.ordered && o.dsite / 64 == dst.1 / 64) else none
  let force := if planeOf c.hint = 0 then 0 else planeOf c.hint
  let plane := match pin with
    | some o => o.plane
    | none => if ordered then s.planeFor site dst.1 force id else force
  let o : RemOp :=
    { id, team := c.t.id, seq := c.t.seq, site, core := c.t.coreKey, op := c.sh.op, fn, lane := r.lane, tenant,
      user := !c.t.sup, key := (s.domainOf site).getD 0, dest := r.dest, local_ := r.local_, len := r.len,
      opnd := r.opnd, expect := r.expect, ctr := r.ctr, words, dsite := dst.1, inc := dst.2, plane, ordered, phase := .issued,
      data := [], sent := 0, relay := none, relayed := false, carried := [] }
  let s2 := s1.fillName site tenant (gDev r.dest) (gSite r.dest)
  { s2 with ops := s2.ops ++ [o] }

/-- Marks lanes of the instruction as done. -/
def State.markDone (s : State) (tid : Nat) (ls : List Nat) : State :=
  match s.team? tid with
  | some t => s.putTeam { t with did := ls.foldl (fun m l => m ||| (1 <<< l : Mask)) t.did }
  | none => s

/-- The packets of the team's remote instruction that have no entry yet. -/
def State.setUnsent (s : State) (tid : Nat) (l : List Unsent) : State :=
  match s.team? tid with
  | some t => s.putTeam { t with unsent := l }
  | none => s

/-- The operations take entries in order; the team stalls, in one stall, until the last has its entry (R270). -/
def State.takeEach (s : State) (c : Ctx) (fn : Nat) (ordered : Bool) :
    List ((RemReq × List (Nat × Word × Word × Word)) × (Nat × BitVec 32)) → State
  | [] => s.commit c (fun t => { t with seq := t.seq + 1 })
  | ((r, ws), dst) :: rest =>
    if s.remRoom c.t.coreKey then
      ((s.newOp c fn r ws ordered dst).markDone c.t.id (r.lane :: ws.map (fun w => w.1))).takeEach c fn ordered rest
    else (s.setUnsent c.t.id ((((r, ws), dst) :: rest).map (fun x =>
      { lane := x.1.1.lane, site := x.2.1, inc := x.2.2, ctrs := x.1.2.map (fun w => w.2.2.2) }))).stallAt c .remoteEntries

/-- What stands before the team's latest `xfence` is over (R192), then the operations take entries, toward the destinations
that the instruction's checks resolved at its first attempt (R9, R270). -/
def State.takeOps (s : State) (c : Ctx) (fn : Nat) (ordered : Bool)
    (l : List (RemReq × List (Nat × Word × Word × Word))) : State :=
  let name (r : RemReq) : Option (Nat × BitVec 32) :=
    match c.t.unsent.find? (fun u => u.lane == r.lane) with
    | some u => some (u.site, u.inc)
    | none => s.lookupName c.t.place.site c.t.ctl.acting.toNat (gDev r.dest) (gSite r.dest)
  s.afterXfence c.t (fun s => s.takeEach c fn ordered (l.filterMap (fun x => (name x.1).map (fun n => (x, n)))))

/-- A remote operation with one request per lane (R270). -/
def State.runRemote (s : State) (op fn n : Nat) (g : Guard) (kb : Fin 32) (ordered : Bool) (req : Ctx → Nat → RemReq) :
    Host.Outcome State Fault Refusal :=
  s.runOutsideTx { op, sel := .guard g, blk := some (kb, n), mod := .plane } (fun s c =>
    let rs := (c.lanes.filter (fun l => !Mask.has c.t.did l)).map (req c)
    match if c.t.did = 0 ∧ c.t.unsent = [] then s.remChecks c rs else none with
    | some s1 => s1
    | none => s.takeOps c fn ordered (rs.map (fun r => (r, []))))

/-- A notify counter of the destination: its address, its alignment, and whether it names another site. -/
def withCtr (n : Bool) (a : Word) (home : Word) (r : RemReq) : RemReq :=
  if n then { r with ctr := some a, aligns := r.aligns ++ [(a, 8)], ctrAway := !sameSite a home } else r

/-- `rput` (R272). -/
def execRput (g : Guard) (kb : Fin 32) (n o : Bool) (s : State) : Host.Outcome State Fault Refusal :=
  s.runRemote 0xE0 (n.toNat * 2 + o.toNat) (3 + n.toNat) g kb o (fun c l =>
    let len := (c.arg 2 l).toNat
    withCtr n (c.arg 3 l) (c.arg 0 l)
      { lane := l, dest := c.arg 0 l, local_ := c.arg 1 l, len, ranges := [(c.arg 1 l, len, false)],
        lenOk := decide (len ≤ 256) })

/-- `rget` (R273). A local counter in a control window fails protection at issue (R393). -/
def execRget (g : Guard) (kb : Fin 32) (n : Bool) (s : State) : Host.Outcome State Fault Refusal :=
  s.runRemote 0xE1 (n.toNat * 2) (3 + n.toNat) g kb false (fun c l =>
    let len := (c.arg 2 l).toNat
    let own : Word := BitVec.ofNat 64 (c.t.place.ldev * 2 ^ 43 + c.t.place.lsite * 2 ^ 37)
    withCtr n (c.arg 3 l) own
      { lane := l, dest := c.arg 1 l, local_ := c.arg 0 l, len, ranges := [(c.arg 0 l, len, true)],
        ctrWindow := n && region (gOfs (c.arg 3 l)) == .control, lenOk := decide (len ≤ 256) })

/-- `ratom` (R274). -/
def execRatom (g : Guard) (kb : Fin 32) (w32 : Bool) (o : RatomOp) (s : State) : Host.Outcome State Fault Refusal :=
  let code := match o with
    | .op .add => 0
    | .op .and => 1
    | .op .or => 2
    | .op .xor => 3
    | .op .min => 4
    | .op .max => 5
    | .op .minn => 6
    | .op .maxn => 7
    | .op .fadd => 8
    | .swp => 9
    | .cas => 10
  s.runRemote 0xE2 (code + 16 * w32.toNat) 4 g kb false (fun c l =>
    let res := c.arg 3 l
    { lane := l, dest := c.arg 0 l, local_ := res, opnd := c.arg 1 l, expect := c.arg 2 l,
      aligns := (c.arg 0 l, if w32 then 4 else 8) :: (if res = 0 then [] else [(res, 8)]),
      ranges := if res = 0 then [] else [(res, 8, true)] })

/-- Code of a reduction operation (R228). -/
def atomCode : AtomOp → Nat
  | .add => 0
  | .and => 1
  | .or => 2
  | .xor => 3
  | .min => 4
  | .max => 5
  | .minn => 6
  | .maxn => 7
  | .fadd => 8
/-- The operation of a code, for `ratom` and `rred`. -/
def atomOfCode (n : Nat) : RatomOp :=
  match n with
  | 0 => .op .add
  | 1 => .op .and
  | 2 => .op .or
  | 3 => .op .xor
  | 4 => .op .min
  | 5 => .op .max
  | 6 => .op .minn
  | 7 => .op .maxn
  | 8 => .op .fadd
  | 9 => .swp
  | _ => .cas

/-- `rred` (R275). A length of at most 256 that is no multiple of the element's width counts as one beyond its limit: step 8 is
skipped for its lane (R49). DESIGN CHOICE, log 108. -/
def execRred (g : Guard) (kb : Fin 32) (n w32 : Bool) (o : AtomOp) (s : State) : Host.Outcome State Fault Refusal :=
  let w := if w32 then 4 else 8
  s.runRemote 0xE3 (n.toNat * 64 + w32.toNat * 16 + atomCode o) (3 + n.toNat) g kb false (fun c l =>
    let len := (c.arg 2 l).toNat
    withCtr n (c.arg 3 l) (c.arg 0 l)
      { lane := l, dest := c.arg 0 l, local_ := c.arg 1 l, len, aligns := [(c.arg 0 l, w), (c.arg 1 l, w)],
        ranges := [(c.arg 1 l, len, false)], lenOk := decide (len ≤ 256 ∧ len % w = 0) })

/-- peer × 2^43 + place[42:0] (R320). -/
def peerAddr (peer place : Word) : Word := (peer.extractLsb' 0 21) ++ (place.extractLsb' 0 43)

/-- Gathers words for one destination site into packets of at most 32 (R320). -/
def packetsOf (w : RemReq → Nat × Word × Word × Word) : List RemReq → List (RemReq × List (Nat × Word × Word × Word)) →
    List (RemReq × List (Nat × Word × Word × Word))
  | [], acc => acc
  | r :: rest, acc =>
    if acc.any (fun p => sameSite p.1.dest r.dest && decide (p.2.length < 32)) then
      packetsOf w rest (acc.map (fun p =>
        if sameSite p.1.dest r.dest && decide (p.2.length < 32) then (p.1, p.2 ++ [w r]) else p))
    else packetsOf w rest (acc ++ [(r, [w r])])

/-- `xput` (R320). -/
def execXput (g : Guard) (kb : Fin 32) (n : Bool) (s : State) : Host.Outcome State Fault Refusal :=
  s.runOutsideTx { op := 0xE4, sel := .guard g, blk := some (kb, 3 + n.toNat), mod := .plane } (fun s c =>
    let rs := (c.lanes.filter (fun l => !Mask.has c.t.did l)).map (fun l =>
      let d := peerAddr (c.arg 0 l) (c.arg 1 l)
      withCtr n (peerAddr (c.arg 0 l) (c.arg 3 l)) d
        { lane := l, dest := d, opnd := c.arg 2 l, len := 8, aligns := [(d, 8)],
          noName := (c.arg 0 l).extractLsb' 21 43 != 0 })
    match if c.t.did = 0 ∧ c.t.unsent = [] then s.remChecks c rs else none with
    | some s1 => s1
    | none => s.takeOps c n.toNat false (packetsOf (fun r => (r.lane, r.dest, r.opnd, r.ctr.getD 0)) rs []))

/-! ### Packets (R269 to R275) -/

def State.op? (s : State) (id : Nat) : Option RemOp := s.ops.find? (fun o => o.id == id)
def State.putOp (s : State) (o : RemOp) : State := { s with ops := s.ops.map (fun p => if p.id == o.id then o else p) }
def State.dropOp (s : State) (id : Nat) : State := { s with ops := s.ops.filter (fun p => p.id != id) }

/-- Increments of counters, those of one counter merged (R320). -/
def State.bumpAll (s : State) : List Nat → List Nat → State
  | _, [] => s
  | done, c :: r =>
    if done.contains c then s.bumpAll done r
    else (s.increment c (1 + (r.filter (fun x => x == c)).length)).bumpAll (c :: done) r

/-- Bytes of the payload of its packet, or once applied or failed of its answer. -/
def RemOp.size (o : RemOp) : Nat :=
  if o.phase = .failed then 0
  else if o.phase = .applied then (if o.op = 0xE1 ∨ o.op = 0xE2 then o.data.length else 0)
  else o.data.length + 16 * o.words.length

/-- A packet of n bytes leaves the relay buffer that holds it. -/
def State.leaveRelay (s : State) (relay : Option Nat) (n : Nat) : State :=
  match relay with
  | none => s
  | some k => let x := s.site k; s.putSite { x with relay := x.relay - n }
def State.unrelay (s : State) (o : RemOp) : State := s.leaveRelay o.relay o.size

/-- Operations that satisfy f are gone, and their packets leave relay buffers. -/
def State.dropOps (s : State) (f : RemOp → Bool) : State :=
  let s1 := (s.ops.filter f).foldl (fun s o => s.unrelay o) s
  { s1 with ops := s1.ops.filter (fun o => !f o) }

/-- What the delivery context of a packet is kept for: its site, or for an ordered rput its device (R267, R271). -/
def RemOp.pdcDst (o : RemOp) : Nat := if o.ordered then o.dsite / 64 else o.dsite

/-- A packet of the operation, or its acknowledgement or reply, uses its delivery context (R267). -/
def State.usePdc (s : State) (o : RemOp) : State :=
  s.touchPdc o.site o.pdcDst o.ordered (if o.ordered then some (o.team, o.plane) else none)

/-- An operation ends in error: its team owes "remote failed" with a cause (R270). -/
def State.failOp (s : State) (o : RemOp) (cause : Nat) : State :=
  let s1 := ((if cause = 2 then s else s.usePdc o).unrelay o).dropOp o.id
  match s1.team? o.team with
  | none => s1
  | some t => s1.putTeam { t with deferred := t.deferred ++
      [{ w := .remote, cls := 6, code := 0x0B, op := o.op, lane := o.lane, addr := o.dest, pidx := 0, aux := cause }] }

/-- The destination answers with an error and has applied nothing; the answer takes a way of its own (R265, R270). -/
def State.refuse (s : State) (o : RemOp) (cause : Nat) : State :=
  (s.usePdc o).putOp { o with phase := .failed, cause, relayed := false, way := s.wayFor o.dsite o.site 0 o.id }

/-- The op's party at its own site and at its destination. -/
def RemOp.party (o : RemOp) : Party :=
  { site := o.site, ldev := gDev o.local_, lsite := gSite o.local_, tenant := o.tenant, user := o.user }
def RemOp.away (o : RemOp) : Party :=
  { site := o.dsite, ldev := gDev o.dest, lsite := gSite o.dest, tenant := o.tenant, user := o.user, remote := true }

/-- What a run of translation leads to for an operation: a park of the operation, an error, which the destination sends back, or
its pieces. -/
def State.opStop (s : State) (o : RemOp) (site : Nat) (wrt : Bool) (wait : RemPhase) : RunX → State
  | .ok _ => s
  | .bad _ => if wait = .waitDst then s.refuse o 0 else s.failOp o 0
  | .fault a lvl =>
    let (_, s1) := s.pageFault site o.tenant (gOfs a / 65536) wrt false true lvl a (.op o.id)
    s1.putOp { o with phase := wait }
  | .broken ofs r => s.freezeEntry (s.partOf site) site ofs o.tenant r

/-- The packet leaves: its source is read as an engine reads, its way chosen; a pinned stream keeps its plane (R265, R271). -/
def State.sendOp (s : State) (o : RemOp) : State :=
  let reads := o.op == 0xE0 || o.op == 0xE3
  let src := if reads then s.xlateRun o.party .read 3 o.local_ o.len else .ok []
  match src with
  | .ok ps =>
    let (s1, bs) := s.readPieces ps
    let o1 := { o with phase := .sent, data := bs, sent := s.now, way := s.wayFor o.site o.dsite o.plane o.id }
    (s1.usePdc o1).putOp o1
  | r => s.opStop o o.site false .waitSrc r

/-- A counter's check at the destination: its word, an error's cause, or a fault. -/
inductive CtrX where
  | ok (phys : Nat)
  | bad (cause : Nat)
  | fault (a : Word) (lvl : Bool)
  | broken (ofs rule : Nat)
deriving DecidableEq, Repr

def State.ctrAt (s : State) (p : Party) (a : Word) : CtrX :=
  match s.checkWord p a 8 .write with
  | .ok phys repl => if repl then .bad 1 else .ok phys
  | .align => .bad 1
  | .seam => .bad 1
  | .prot => .bad 0
  | .fault l => .fault a l
  | .broken o r => .broken o r

/-- The first check of a list of counters that is not fine. -/
def State.ctrsAt (s : State) (p : Party) : List Word → Except CtrX (List Nat)
  | [] => .ok []
  | a :: r =>
    match s.ctrAt p a with
    | .ok phys => (s.ctrsAt p r).map (fun l => phys :: l)
    | x => .error x

/-- Translates runs of bytes at the destination. -/
def State.runsAt (s : State) (p : Party) (need : Need) :
    List (Word × Nat) → Except RunX (List (List (Nat × Nat × List Nat)))
  | [] => .ok []
  | (a, n) :: r =>
    match s.xlateRun p need 3 a n with
    | .ok ps => (s.runsAt p need r).map (fun l => ps :: l)
    | x => .error x

/-- One element of an atomic or a reduction at its port (R274, R275). -/
def State.applyAtom (s : State) (o : RatomOp) (w32 : Bool) (a : Nat) (repl : List Nat) (b e : Word) : State × Word :=
  let n := if w32 then 4 else 8
  let s1 := (s.settleFetched 0 (writeLines a repl)).txOutside 0 (a / 64)
  let v := BitVec.ofNat 64 (Mem.read s1.mem a n)
  if o = .cas ∧ v ≠ narrow w32 e then (s1, v)
  else (s1.portWriteAll 0 a repl (leBytes n (atomNew o w32 v b e).toNat), v)

/-- Splits bytes into elements of w bytes. -/
def elemsOf (w : Nat) : Nat → List Byte → List Word
  | 0, _ => []
  | n + 1, bs => BitVec.ofNat 64 (leNat (bs.take w)) :: elemsOf w n (bs.drop w)

/-- Two packets of one `xput` to one site. -/
def RemOp.together (o p : RemOp) : Bool :=
  o.op == 0xE4 && p.op == 0xE4 && p.team == o.team && p.seq == o.seq && p.dsite == o.dsite

/-- A later packet of the same `xput` to the site names this counter too, on its way or still without an entry. -/
def State.bumpsLater (s : State) (o : RemOp) (a : Word) : Bool :=
  s.ops.any (fun p => o.together p && decide (o.id < p.id) && p.phase != .applied && p.phase != .failed &&
    p.words.any (fun w => w.2.2.2 == a)) ||
  (s.team? o.team).any (fun t => t.seq == o.seq && t.unsent.any (fun u => u.site == o.dsite && u.ctrs.contains a))

/-- The increments of an applied packet take place; those of one `xput` merge into one for each counter, at the last packet
to the site that names it (R320). -/
def State.bumpOrCarry (s : State) (o : RemOp) (cs : List (Word × Nat)) : State :=
  if o.op ≠ 0xE4 then s.bumpAll [] (cs.map (fun c => c.2))
  else
    let done (p : RemOp) : Bool := o.together p && p.phase == .applied
    let (stay, go) := ((s.ops.filter done).flatMap (fun p => p.carried) ++ cs).partition (fun c => s.bumpsLater o c.1)
    let s1 := { s with ops := s.ops.map (fun p => if done p then { p with carried := if p.id = o.id then stay else [] } else p) }
    s1.bumpAll [] (go.map (fun c => c.2))

/-- The words of a packet of an `xput` that may land next: of those that one place takes, the lowest lane's (R320). -/
def RemOp.mayLand (o : RemOp) : List (Nat × List Nat × Word) :=
  o.places.zipIdx.filterMap (fun x => if (o.places.take x.2).any (fun q => q.1 == x.1.1) then none else some x.1)

/-- One word of a packet of an `xput` lands, whichever of those that may; with the last the packet is applied (R320). -/
def State.landWord (s : State) (o : RemOp) : State :=
  match o.mayLand[Config.freeNat (s.draw 13 o.id) % o.mayLand.length]? with
  | none => (s.putOp { o with phase := .applied, places := [] }).bumpOrCarry o o.counts
  | some x =>
    let s1 := s.writePieces [(x.1, 8, x.2.1)] (leBytes 8 x.2.2.toNat)
    let rest := o.places.erase x
    if rest.isEmpty then (s1.putOp { o with phase := .applied, places := [] }).bumpOrCarry o o.counts
    else s1.putOp { o with places := rest }

/-- The effect of a packet at its destination: everything it names is translated before anything is applied (R270). -/
def State.applyOp (s : State) (o0 : RemOp) : State :=
  let o := { o0 with relayed := false, way := s.wayFor o0.dsite o0.site 0 o0.id }
  let p := o.away
  let runs : List (Word × Nat) :=
    if o.op = 0xE4 then o.words.map (fun w => (w.2.1, 8))
    else if o.op = 0xE2 then [(o.dest, if o.fn / 16 = 1 then 4 else 8)]
    else [(o.dest, o.len)]
  let ctrs : List Word :=
    if o.op = 0xE1 then []
    else if o.op = 0xE4 then (if o.fn % 2 = 1 then o.words.map (fun w => w.2.2.2) else [])
    else o.ctr.toList
  match s.runsAt p (if o.op = 0xE1 then .read else .write) runs with
  | .error x => s.opStop o o.dsite (o.op != 0xE1) .waitDst x
  | .ok ps =>
    match s.ctrsAt p ctrs with
    | .error (.bad cause) => s.refuse o cause
    | .error (.fault a l) => s.opStop o o.dsite true .waitDst (.fault a l)
    | .error (.broken ofs r) => s.opStop o o.dsite true .waitDst (.broken ofs r)
    | .error (.ok _) => s
    | .ok cs =>
      let flat := ps.flatten
      let s1 :=
        if o.op = 0xE0 then (s.writePieces flat o.data).putOp { o with phase := .applied }
        else if o.op = 0xE1 then
          let (s2, bs) := s.readPieces flat
          s2.putOp { o with phase := .applied, data := bs }
        else if o.op = 0xE2 then
          let q := flat.headD (0, 0, [])
          let (s2, v) := s.applyAtom (atomOfCode (o.fn % 16)) (o.fn / 16 == 1) q.1 q.2.2 o.opnd o.expect
          s2.putOp { o with phase := .applied, data := leBytes 8 v.toNat }
        else if o.op = 0xE3 then
          let w := if o.fn / 16 % 2 = 1 then 4 else 8
          let es := elemsOf w (o.len / w) o.data
          let at_ := flat.flatMap (fun q => (List.range (q.2.1 / w)).map (fun i => (q.1 + i * w, q.2.2)))
          ((at_.zip es).foldl (fun s x => (s.applyAtom (atomOfCode (o.fn % 16)) (w == 4) x.1.1 x.1.2 x.2 0).1) s).putOp
            { o with phase := .applied }
        else s.putOp { o with phase := .applied }
      if o.op = 0xE4 then
        ((s.putOp { o with phase := .landing }).usePdc o).landWord
          { o with phase := .landing, counts := ctrs.zip cs,
                   places := (flat.zip o.words).map (fun x => (x.1.1, x.1.2.2, x.2.2.2.1)) }
      else (s1.usePdc o).bumpOrCarry o (ctrs.zip cs)

/-- An earlier ordered rput of the stream, a lower lane's atomic of the same instruction on the same address, or an earlier
packet of the same `xput` to the site has not been applied (R271, R274, R320). -/
def State.orderWaits (s : State) (o : RemOp) : Bool :=
  s.ops.any (fun p => p.team == o.team && decide (p.id < o.id) && p.phase != .applied && p.phase != .failed && p.phase != .waitReply &&
    p.phase != .replied && ((o.ordered && p.ordered && p.dsite / 64 == o.dsite / 64) ||
     (o.op == 0xE2 && p.op == 0xE2 && p.seq == o.seq && p.dest == o.dest) ||
     (o.op == 0xE4 && p.op == 0xE4 && p.seq == o.seq && p.dsite == o.dsite)))

/-- A packet that arrives is applied, or dropped and counted (R266, R269, R334). -/
def State.arriveOp (s : State) (o : RemOp) : State :=
  if !s.live o.dsite then s
  else
    let x := s.site o.dsite
    let gone : RemOp := { o with phase := .dropped, relayed := false }
    if s.domainOf o.dsite ≠ some o.key then (s.putSite { x with keyDrop := x.keyDrop + 1 }).putOp gone
    else if x.inc ≠ o.inc then (s.putSite { x with incDrop := x.incDrop + 1 }).putOp gone
    else if s.orderWaits o then s
    else s.applyOp o

/-- The ends of the way that a packet, or once it is applied or failed its answer, goes: none where it is on none. -/
def RemOp.leg (o : RemOp) : Option (Nat × Nat) :=
  match o.phase with
  | .sent => some (o.site, o.dsite)
  | .applied => some (o.dsite, o.site)
  | .failed => some (o.dsite, o.site)
  | .issued | .dropped | .arrived | .landing | .waitSrc | .waitDst | .waitReply | .replied => none

/-- A packet of n bytes goes into a relay buffer, or out of it at a matching of that device; f notes where it is (R268). -/
def State.relayAct (s : State) (w : Way) (dst n : Nat) (relay : Option Nat) (relayed : Bool) (act : RemAct)
    (f : Option Nat → State → State) : State :=
  match act, relay with
  | .relay via, none =>
    if !relayed && s.mayRelay w dst n via then
      let x := s.site via
      f (some via) (s.putSite { x with relay := x.relay + n })
    else s
  | .forward, some k => if s.live k && s.matchedNow k dst then f none (s.leaveRelay relay n) else s
  | .relay _, some _ | .forward, none | .send, _ | .apply, _ => s

/-- Bytes of a reduction packet's values. -/
def XKind.size : XKind → Nat
  | .up _ _ _ _ v => v.bytes.length
  | .result v r => v.bytes.length + r.length
  | .corr v => v.bytes.length
  | .final v r => v.bytes.length + r.length

/-- A remote packet is sent, or arrives (R270, R271), or passes a relay, as its reply and a reduction packet may (R268). -/
def execRemotePacketApply (op : Nat) (act : RemAct) (s : State) : Host.Outcome State Fault Refusal :=
  match s.op? op with
  | none =>
    (match s.xpkts.find? (fun p => p.id == op) with
     | none => .next s
     | some p => .next (s.relayAct p.way p.dst p.kind.size p.relay p.relayed act (fun r s =>
        { s with xpkts := s.xpkts.map (fun q => if q.id == op then { q with relay := r, relayed := true } else q) })))
  | some o =>
    match act, o.phase with
    | .send, .issued => if s.live o.site then .next (s.sendOp o) else .next s
    | .apply, .sent => if s.mayCross o.way o.site o.dsite o.relay o.relayed then .next (s.arriveOp o) else .next s
    | .apply, .arrived => .next (s.arriveOp o)
    | .apply, .landing => if s.live o.dsite ∧ (s.site o.dsite).inc = o.inc then .next (s.landWord o) else .next s
    | _, _ =>
      match o.leg with
      | none => .next s
      | some leg => .next (s.relayAct o.way leg.2 o.size o.relay o.relayed act (fun r s => s.putOp { o with relay := r, relayed := true }))

/-- The acknowledgement or reply reaches the issuing site: a result is written, a local counter takes its increment,
and the operation is complete (R272 to R275). -/
def State.completeOp (s : State) (o : RemOp) : State :=
  let n := if o.op = 0xE1 then o.len else if o.op = 0xE2 ∧ o.local_ ≠ 0 then 8 else 0
  match s.xlateRun o.party .write 3 o.local_ n with
  | .ok ps =>
    let ctrs := if o.op = 0xE1 then o.ctr.toList else []
    (match s.ctrsAt { o.party with ldev := gDev (o.ctr.getD 0), lsite := gSite (o.ctr.getD 0) } ctrs with
     | .error (.bad cause) => s.failOp o cause
     | .error (.fault a l) => s.opStop o o.site true .waitReply (.fault a l)
     | .error (.broken ofs r) => s.opStop o o.site true .waitReply (.broken ofs r)
     | .error (.ok _) => s
     | .ok cs => (((s.writePieces ps o.data).usePdc o).dropOp o.id).bumpAll [] (o.carried.map (fun c => c.2) ++ cs))
  | r => s.opStop o o.site true .waitReply r

/-- The acknowledgement or reply of an operation, or the answer that it failed, may arrive: its destination works and has been neither reset nor
released since (R364), and what it holds back for later packets of its `xput` waits no more (R320). -/
def State.replies (s : State) (o : RemOp) : Bool :=
  (o.phase == .applied || o.phase == .failed) && s.live o.dsite && (s.site o.dsite).inc == o.inc &&
    s.mayCross o.way o.dsite o.site o.relay o.relayed &&
    o.carried.all (fun c => !s.bumpsLater o c.1)

/-- The answer of an operation arrives, or a result is tried again after a page fault (R270). -/
def execRemoteCompletion (op : Nat) (s : State) : Host.Outcome State Fault Refusal :=
  match s.op? op with
  | none => .next s
  | some o => if s.live o.site ∧ (o.phase = .replied ∨ s.replies o) then
      .next (if o.phase = .failed then s.failOp o o.cause else s.completeOp o)
    else .next s

/-- Delivery of an operation has not succeeded: its packet has not come through, or its destination was reset or released
before it answered (R269, R364). -/
def State.undelivered (s : State) (o : RemOp) : Bool :=
  o.phase == .sent || o.phase == .dropped ||
    ((o.phase == .applied || o.phase == .failed || o.phase == .landing) && (s.site o.dsite).inc != o.inc)

/-- Delivery has not succeeded within 500 µs of the first transmission (R269, R304). -/
def execDeliveryTimeout (ref : DelivRef) (s : State) : Host.Outcome State Fault Refusal :=
  match ref with
  | .op id =>
    (match s.op? id with
     | some o => if s.undelivered o ∧ o.sent + us 500 ≤ s.now ∧ s.live o.site then
        .next (s.failOp o 2) else .next s
     | none => .next s)
  | .team id =>
    (match s.team? id with
     | some t =>
       (match t.parkedIn with
        | some (.delivery _ _ _, since) =>
          if since + us 500 ≤ s.now ∧ s.live t.place.site then .next (s.wakeTeam id (some (.trap 6 0x0B 2 none))) else .next s
        | _ => .next s)
     | none => .next s)

/-- The packet has left no relay buffer, and stands in none: delivery may send it again in its place. -/
def RemOp.resendable (o : RemOp) : Bool := o.phase != .sent || (o.relay.isNone && !o.relayed)

/-- Delivery sends a packet again that has not come through, that its destination dropped, or that it did not acknowledge before it
was reset or released; a site that works sends it, and it takes a new way (R265, R267, R364). However often it is sent, it is applied
at most once. -/
def execDeliveryRetransmit (ref : DelivRef) (s : State) : Host.Outcome State Fault Refusal :=
  match ref with
  | .op id =>
    (match s.op? id with
     | some o =>
       if s.live o.site ∧ o.resendable ∧ s.undelivered o then
         .next (((s.unrelay o).usePdc o).putOp { o with
           phase := .sent, relay := none, relayed := false, way := s.wayFor o.site o.dsite o.plane o.id })
       else .next s
     | none =>
       match s.xpkts.find? (fun p => p.id == id) with
       | some p =>
         if s.live p.src ∧ p.relay.isNone ∧ !p.relayed then
           .next { s.touchPdc p.src p.dst false none with
             xpkts := s.xpkts.map (fun q => if q.id == id then { q with way := s.wayFor p.src p.dst 0 id } else q) }
         else .next s
       | none => .next s)
  | .team id =>
    (match s.team? id with
     | some t =>
       (match t.parkedIn with
        | some (.delivery _ _ b, _) => if s.live t.place.site then .next (s.countDrop t.party b) else .next s
        | _ => .next s)
     | none => .next s)

/-- A delivery context with no packet for 20 µs goes; a packet or an answer that is under way is one (R267). -/
def execPdcTeardown (site pdc : Nat) (s : State) : Host.Outcome State Fault Refusal :=
  let x := s.site site
  match x.pdcs.find? (fun p => p.num == pdc) with
  | some p =>
    let used := s.ops.any (fun o => o.site == site && o.pdcDst == p.dst && o.ordered == p.ordered && o.leg.isSome) ||
      (!p.ordered && s.xpkts.any (fun q => q.src == site && q.dst == p.dst))
    if p.last + us 20 ≤ s.now ∧ !used ∧ s.live site then .next (s.putSite { x with pdcs := x.pdcs.filter (fun q => q.num != pdc) })
    else .next s
  | none => .next s

/-- A rotor slot of 3 µs passes: the site's TIME runs faster or slower by at most 3 ns over it, keeping the bounds between
sites, and never backward: a slower count takes its nanoseconds from time that passes (R268, R335). -/
def execRotorSlot (site : Nat) (adjust : Int) (s : State) : Host.Outcome State Fault Refusal :=
  let x := s.site site
  let ofs := x.timeOfs + adjust
  let near (y : Site) : Bool :=
    let d := (y.timeOfs - ofs).natAbs
    y.key == site || (s.domainOf y.key).isNone || s.domainOf y.key != s.domainOf site ||
      (decide (d ≤ 500) && (y.part != x.part || decide (d ≤ 8)))
  if s.live site ∧ x.rotorAt + us 3 ≤ s.now ∧ -3 ≤ adjust ∧ adjust ≤ 3 ∧ s.sites.all near then
    let s1 := if adjust < 0 then { s with now := s.now + adjust.natAbs * Config.ticksPerNs } else s
    .next (s1.putSite { x with rotor := x.rotor + 1, rotorAt := s.now, timeOfs := ofs })
  else .next s

/-- An optical port is lost (R265, R369). -/
def execPortLost (site port : Nat) (s : State) : Host.Outcome State Fault Refusal :=
  let x := s.site site
  if port < 4 then .next (s.putSite { x with ports := x.ports &&& ~~~(1 <<< port : BitVec 4) }) else .next s
/-- An optical port works again (R265). -/
def execPortRestored (site port : Nat) (s : State) : Host.Outcome State Fault Refusal :=
  let x := s.site site
  if port < 4 then .next (s.putSite { x with ports := x.ports ||| (1 <<< port : BitVec 4) }) else .next s

/-! ### `rfence` and `rname` (R276, R277) -/

def execRfence (g : Guard) (s : State) : Host.Outcome State Fault Refusal :=
  s.runOutsideTx { op := 0xE8, sel := .guard g } (fun s c => s.remoteDrain c)

/-- What `rname` answers for an address (R277). -/
def State.nameWord (s : State) (t : Team) (a : Word) : Word :=
  let site := t.place.site
  let p := if s.portless site then 2 ^ 61 else 0
  match s.lookupName site t.ctl.acting.toNat (gDev a) (gSite a) with
  | none => BitVec.ofNat 64 p
  | some (dst, _) =>
    let own := dst / 64 == site / 64
    let hops := if own then s.hops t.place.part t.place.lsite (s.site dst).lsite else 0
    BitVec.ofNat 64 (2 ^ 63 + (if own then 2 ^ 62 else 0) + p + s.planeFor site dst 0 (gSite a) * 2 ^ 16 + hops % 256 * 2 ^ 8)

def execRname (g : Guard) (d : Dst) (a : Src) (s : State) : Host.Outcome State Fault Refusal :=
  s.runOutsideTx { op := 0xE9, sel := .guard g, srcs := [a], dst := some d, pass := some a } (fun s c =>
    let v := vtab c.t.nlane (fun l => if Mask.has c.act l then s.nameWord c.t (lane (c.val 0) l) else 0)
    let s1 := c.lanes.foldl (fun s l =>
      let x := lane (c.val 0) l
      s.fillName c.t.place.site c.t.ctl.acting.toNat (gDev x) (gSite x)) s
    s1.push c v)

end Sys2Proof.Machine
end

