-- ==== Sys2Proof/Machine/Collectives.lean ====
section
/-! DEFINITION. Deadline reductions: groups and spec words, the tree and its nodes, records, `xopen`, `xred`, `xclose`,
and their events (R321 to R330). Every node judges a deadline by its own site's TIME (R328, R335). -/

namespace Sys2Proof.Machine

/-! ### Spec words and buffers (R324) -/

def specCount (w : Word) : Nat := (w.extractLsb' 32 20).toNat
def specOp (w : Word) : Nat := (w.extractLsb' 4 2).toNat
def specFmt (w : Word) : Nat := (w.extractLsb' 0 4).toNat

def specOk (w : Word) : Bool :=
  let n := specCount w
  let op := specOp w
  let f := specFmt w
  w.extractLsb' 52 12 == 0 && w.extractLsb' 6 26 == 0 && decide (1 ≤ n ∧ n ≤ 65536) && decide (op < 3) && decide (f < 6) &&
    (op == 0 || f == 0 || f == 2 || f == 3) && (decide (f < 4) || n % 32 == 0)

/-- d within its limits (R326). -/
def spanOk (d : Word) : Bool := decide (1000 ≤ d.toNat ∧ d.toNat ≤ 2 ^ 32)

/-- Element size by XFMT. -/
def xSize (f : Nat) : Nat := if f = 0 then 4 else if f < 4 then 8 else 1
/-- Bytes of a buffer. -/
def xBytes (w : Word) : Nat :=
  let n := specCount w
  if 4 ≤ specFmt w then n + n / 32 else n * xSize (specFmt w)

/-! ### Combining two inputs (R325, R330) -/

/-- One binary32 component. -/
def combF (op a b : Nat) : Nat :=
  let x : FV := .decode b32 a
  let y : FV := .decode b32 b
  if x == .nan || y == .nan then canonNaN32
  else if op = 0 then addRne a b
  else
    let c := FV.cmp x y
    -- zeros are equal there: −0 orders below +0
    let le := decide (c < 0) || (c == 0 && (a / 2 ^ 31 == 1 || b / 2 ^ 31 == 0))
    if le == (op == 1) then a else b

/-- One 64-bit integer element. -/
def combI (signed : Bool) (op : Nat) (a b : Word) : Word :=
  if op = 0 then a + b
  else
    let le := if signed then a.sle b else a.ule b
    if le == (op == 1) then a else b

/-- A rounding without saturation stays within the largest element. -/
def mxFits (f : Fmt) (v : FV) : Bool :=
  match v with
  | .fin neg m e => decide (magCode f .rn neg m e ≤ f.maxc)
  | _ => true

/-- The least k from the one given for which every finite value fits. -/
def mxRaise (f : Fmt) (s : Nat) (vs : List FV) : Nat → Nat → Nat
  | 0, k => k
  | fuel + 1, k =>
    if vs.all (fun v => mxFits f (v.blockScale (127 - (s : Int) - k))) then k else mxRaise f s vs fuel (k + 1)

/-- One block of 32 elements: elements, scale, RESCALED, SCALESAT (R330). -/
def mxBlock (f : Fmt) (xs ys : List Nat) (sa sb : Nat) : List Nat × Nat × Bool × Bool :=
  if sa = 0xFF ∨ sb = 0xFF then (List.replicate 32 (f.nanc.getD 0), 0xFF, false, false)
  else
    let s := max sa sb
    let v (c sc : Nat) : FV := (FV.decode f c).blockScale ((sc : Int) - 127)
    let vs := (List.range 32).map (fun i => FV.add .rn (v (xs.getD i 0) sa) (v (ys.getD i 0) sb))
    let k0 := mxRaise f s vs 512 0
    let sat := 254 < s + k0
    let k := if sat then 254 - s else k0
    let scale := s + k
    (vs.map (fun x => (roundSat f .rn (x.blockScale (127 - (scale : Int)))).1), scale, decide (0 < k), decide sat)

def mxFmt (w : Word) : Fmt := if specFmt w = 4 then e4m3 else e5m2

/-- combine (R325): an absent input passes the other through. -/
def combine (w : Word) (x y : XVal) : XVal :=
  let n := specCount w
  let op := specOp w
  let nats (k : Nat) (v : XVal) : List Nat := (elemsOf k (v.bytes.length / k) v.bytes).map (fun e => e.toNat)
  let incl := x.incl ++ y.incl
  if 4 ≤ specFmt w then
    let blocks := (List.range (n / 32)).map (fun b =>
      let part (v : XVal) : List Nat := ((v.bytes.drop (32 * b)).take 32).map (fun c => c.toNat)
      mxBlock (mxFmt w) (part x) (part y) (x.bytes.getD (n + b) 0).toNat (y.bytes.getD (n + b) 0).toNat)
    { bytes := blocks.flatMap (fun b => b.1.map (BitVec.ofNat 8)) ++ blocks.map (fun b => BitVec.ofNat 8 b.2.1), incl,
      rescaled := x.rescaled || y.rescaled || blocks.any (fun b => b.2.2.1),
      scalesat := x.scalesat || y.scalesat || blocks.any (fun b => b.2.2.2) }
  else if specFmt w < 2 then
    { bytes := ((nats 4 x).zip (nats 4 y)).flatMap (fun p => leBytes 4 (combF op p.1 p.2)), incl, rescaled := false,
      scalesat := false }
  else
    { bytes := ((elemsOf 8 n x.bytes).zip (elemsOf 8 n y.bytes)).flatMap (fun p =>
        leBytes 8 (combI (specFmt w == 2) op p.1 p.2).toNat), incl, rescaled := false, scalesat := false }

def combineOpt (w : Word) : Option XVal → Option XVal → Option XVal
  | none, y => y
  | x, none => x
  | some x, some y => some (combine w x y)

/-- The result when every input of the root is absent (R325). -/
def xIdentity (w : Word) : XVal :=
  let n := specCount w
  let f := specFmt w
  let op := specOp w
  let bytes : List Byte :=
    if 4 ≤ f then List.replicate n 0 ++ List.replicate (n / 32) 127
    else
      let e := if op = 0 then 0
        else if f = 0 then (if op = 1 then 0x7F800000 else 0xFF800000)
        else if f = 2 then (if op = 1 then 0x7FFFFFFFFFFFFFFF else 0x8000000000000000)
        else (if op = 1 then 0xFFFFFFFFFFFFFFFF else 0)
      (List.replicate n (leBytes (xSize f) e)).flatten
  { bytes, incl := [], rescaled := false, scalesat := false }

/-- Result elements that are NaN (R327). -/
def xNans (w : Word) (v : XVal) : Nat :=
  let n := specCount w
  let f := specFmt w
  let isNan (c : Nat) : Bool := FV.decode b32 c == .nan
  if 4 ≤ f then
    (List.range (n / 32)).foldl (fun k b =>
      if v.bytes.getD (n + b) 0 = 0xFF then k + 32
      else k + (((v.bytes.drop (32 * b)).take 32).filter (fun c => FV.decode (mxFmt w) c.toNat == .nan)).length) 0
  else if f = 0 then ((elemsOf 4 n v.bytes).filter (fun e => isNan e.toNat)).length
  else if f = 1 then ((elemsOf 8 n v.bytes).filter (fun e => isNan (lo32 e) || isNan (hi32 e))).length
  else 0

/-! ### Deadlines and the tree (R325, R326, R328) -/

/-- L, at least 1. -/
def xLevels (n : Nat) : Nat := if n ≤ 2 then 1 else Nat.log2 (n - 1) + 1

/-- Deadlines as TIME in nanoseconds. -/
def xForwardAt (t : Word) (d h : Nat) : Int := (t.toNat + d + (h - 1) * 8000 : Nat)
def xCloseAt (t : Word) (d h : Nat) : Int := (t.toNat + 2 * d + (h - 1) * 8000 : Nat)
def XInst.lateAt (x : XInst) : Int := (x.t.toNat + 2 * x.d + 8000 * xLevels x.n + 500000 : Nat)

/-- The cycle in which the site's TIME reaches a value is over (R328: an arrival in that cycle is on time). -/
def State.past (s : State) (site : Nat) (ns : Int) : Bool :=
  let x := s.site site
  let tick := (ns - x.timeOfs) * Config.ticksPerNs
  let since := tick - x.resetAt
  let until_ := x.resetAt + since / Config.ticksPerCycle * Config.ticksPerCycle + Config.ticksPerCycle
  decide (until_ ≤ s.now)

/-- Contributors of the subtree of node (h, j) with an index below n. -/
def xSubtree (n h j : Nat) : List Nat := (List.range n).filter (fun i => i / 2 ^ h == j)

/-! ### Counts of a job (R321, R327) -/

def XCount.of (c : XCount) (key tenant job : Nat) (spec t : Word) (d crc : Nat) : Bool :=
  c.key == key && c.tenant == tenant && c.job == job && c.spec == spec && c.t == t && c.d == d && c.crc == crc

def State.xcount (s : State) (key : Nat) (x : XInst) : XCount :=
  (s.xcounts.find? (fun c => c.of key x.tenant x.job x.spec x.t x.d x.crc)).getD
    { key, tenant := x.tenant, job := x.job, spec := x.spec, t := x.t, d := x.d, crc := x.crc, dropped := 0,
      mismatch := false }

/-- Counts one contribution as discarded, for the job of an instance. -/
def State.xdrop (s : State) (key : Nat) (x : XInst) (mismatch : Bool) : State :=
  let c := s.xcount key x
  let c1 := { c with dropped := c.dropped + 1, mismatch := c.mismatch || mismatch }
  { s with xcounts := c1 :: s.xcounts.filter (fun c => !c.of key x.tenant x.job x.spec x.t x.d x.crc) }

/-- An instance as a packet describes it; its number and kind are given when it is obtained. -/
def XPkt.inst (p : XPkt) : XInst :=
  { id := 0, num := 0, isSlot := true, tenant := p.tenant, job := p.job, n := p.n, spec := p.spec, t := p.t, d := p.d,
    crc := p.crc, contributors := p.contributors, nodes := [], members := [], fwdTime := 0, result := none, corr := none,
    final := none }

/-! ### Records (R327) -/

def bitmapBytes (incl : List Nat) : List Byte :=
  (List.range 512).map (fun i =>
    BitVec.ofNat 8 ((List.range 8).foldl (fun b k => if incl.contains (8 * i + k) then b + 2 ^ k else b) 0))

/-- A record. FINAL marks a final record that holds every contributor: the tables of R332 give a final record of three of
four the flags 0x0001. DEDUCED, log 96. -/
def State.xrecord (s : State) (key : Nat) (x : XInst) (v : XVal) (final : Bool) : List Byte :=
  let c := s.xcount key x
  let k := v.incl.length
  leBytes 4 x.n ++ leBytes 4 k ++ leBytes 4 (xNans x.spec v) ++
  leBytes 2 ((if k < x.n then 1 else 0) + (if v.rescaled then 2 else 0) + (if v.scalesat then 4 else 0) +
    (if c.mismatch then 8 else 0) + (if final && decide (x.n ≤ k) then 16 else 0)) ++
  leBytes 2 x.job ++ leBytes 8 x.fwdTime.toNat ++ leBytes 4 c.dropped ++ List.replicate 36 0 ++ bitmapBytes v.incl

/-! ### Instances (R322) -/

def State.inst? (s : State) (site id : Nat) : Option XInst := (s.site site).insts.find? (fun x => x.id == id)
def State.putInst (s : State) (site : Nat) (x : XInst) : State :=
  let y := s.site site
  s.putSite { y with insts := y.insts.map (fun z => if z.id == x.id then x else z) }
def State.instOf (s : State) (site tenant job : Nat) : Option XInst :=
  (s.site site).insts.find? (fun x => x.tenant == tenant && x.job == job)

/-- The site of contributor i, as a site's name table gives it to a tenant. -/
def State.contributorSite (s : State) (site tenant : Nat) (x : XInst) (i : Nat) : Reach :=
  s.reach (s.partyAt site tenant false) (x.contributors.getD i 0)

/-- The root of the tree is held here. -/
def State.isRootSite (s : State) (site : Nat) (x : XInst) : Bool :=
  match s.contributorSite site x.tenant x 0 with
  | .at_ k _ => k == site
  | .unmapped => false

/-- A node that nothing has reached. -/
def freshNode (h j : Nat) : XNode := { h, j, left := none, right := none, forwarded := false, closed := false }

/-- What serves a new instance of a tenant: an adder slot of its share, which one being the site's choice, or an
endpoint reduction on reserved rows; none when neither is to be had (R322). -/
def State.newNumber (s : State) (site tenant : Nat) : Option (Nat × Bool) :=
  let x := s.site site
  let share := match s.tenantDesc site tenant with | some d => d.share | none => 0
  let taken := (x.insts.filter (fun i => i.isSlot)).map (fun i => i.num)
  let free := (List.range 64).filter (fun n => !taken.contains n)
  let mine := (x.insts.filter (fun i => i.isSlot && i.tenant == tenant)).length
  let reserved := match x.part.bind s.part? with | some p => p.reserved | none => 0
  if mine < share ∧ free ≠ [] then some (free.getD (Config.freeNat (s.draw 10 site) % free.length) 0, true)
  else if 0 < reserved then some (Config.freeNat (s.draw 10 site) % 64, false)
  else none

/-- Obtains an instance on a site for a job that has none there. -/
def State.obtain (s : State) (site : Nat) (x : XInst) : Option (State × XInst) :=
  match s.newNumber site x.tenant with
  | none => none
  | some (num, isSlot) =>
    let (id, s1) := s.fresh
    let nodes := if s.isRootSite site x then [freshNode (xLevels x.n) 0] else []
    let x1 := { x with id, num, isSlot, nodes }
    let y := s1.site site
    some (State.putSite { s1 with free := s1.free + 1 } { y with insts := y.insts ++ [x1] }, x1)

/-! ### Sending (R321, R328) -/

/-- A packet goes to the site that a contributor entry names, whose name a tenant looks up and which enters the name cache
(R177, R394); one that cannot be named receives nothing (R329). It uses a delivery context (R267), and
takes the way that R265 chooses, or that a pending PLANE forces. -/
def State.xsend (s : State) (site tenant : Nat) (x : XInst) (i : Nat) (kind : XKind) (force : Nat := 0) : State :=
  match s.contributorSite site tenant x i with
  | .unmapped => s
  | .at_ dst inc =>
    let a := x.contributors.getD i 0
    let p := s.partyAt site tenant false
    let s0 := if gDev a = p.ldev ∧ gSite a = p.lsite then s else s.fillName site tenant (gDev a) (gSite a)
    let (id, s1) := (if dst = site then s0 else s0.touchPdc site dst false none).fresh
    let p : XPkt :=
      { id, src := site, dst, namer := tenant, tenant := x.tenant, key := (s.domainOf site).getD 0, job := x.job, n := x.n, spec := x.spec,
        t := x.t, d := x.d, crc := x.crc, contributors := x.contributors, inc, sent := s.now, kind,
        way := if dst = site then {} else s.wayFor site dst force id }
    { s1 with xpkts := s1.xpkts ++ [p] }

/-- One entry for each site that contributors name. -/
def xSites (cs : List Word) : List Nat :=
  (List.range cs.length).filter (fun i =>
    !(List.range i).any (fun j => sameSite (cs.getD j 0) (cs.getD i 0)))

/-- An output of the root goes to every participant site. -/
def State.xoutput (s : State) (site : Nat) (x : XInst) (kind : XKind) : State :=
  (xSites x.contributors).foldl (fun s i => s.xsend site x.tenant x i kind) s

/-! ### Nodes (R328) -/

def XInst.node? (x : XInst) (h j : Nat) : Option XNode := x.nodes.find? (fun n => n.h == h && n.j == j)
def XInst.putNode (x : XInst) (n : XNode) : XInst :=
  { x with nodes := if (x.node? n.h n.j).isSome then x.nodes.map (fun m => if m.h == n.h && m.j == n.j then n else m)
                    else x.nodes ++ [n] }

/-- A node's value from the inputs it keeps. -/
def XNode.value (w : Word) (n : XNode) : Option XVal := combineOpt w n.left n.right

/-- Every input that can still come is present. -/
def XNode.full (n : XNode) (count : Nat) : Bool :=
  let need (k : Nat) : Bool := decide ((2 * n.j + k) * 2 ^ (n.h - 1) < count)
  (n.left.isSome || !need 0) && (n.right.isSome || !need 1)

/-- Every contributor of the node's subtree is included. -/
def XNode.whole (x : XInst) (n : XNode) : Bool :=
  let have_ := match n.value x.spec with | some v => v.incl | none => []
  (xSubtree x.n n.h n.j).all (fun i => have_.contains i)

/-- The root closes: final result, record 1, and the fill of every correction cell. Record 1's FWDTIME is the TIME at which the root
last forwarded or recomputed, not that of the close. DEDUCED, log 125. -/
def State.closeRoot (s : State) (site id : Nat) (n : XNode) : State :=
  match s.inst? site id with
  | none => s
  | some x =>
    let v := (n.value x.spec).getD (xIdentity x.spec)
    let key := (s.domainOf site).getD 0
    (s.putInst site (x.putNode { n with forwarded := true, closed := true })).xoutput site x
      (.final v (s.xrecord key x v true))

/-- A node forwards, or sends its recomputed value up; the root produces a result. A node whose subtree is whole closes. -/
def State.forwardNode (s : State) (site id h j : Nat) : State :=
  match s.inst? site id with
  | none => s
  | some x =>
    match x.node? h j with
    | none => s
    | some n =>
      if h = xLevels x.n then
        let v := (n.value x.spec).getD (xIdentity x.spec)
        let n1 := { n with forwarded := true }
        let x1 := { x with fwdTime := s.time site }.putNode n1
        let key := (s.domainOf site).getD 0
        let s1 := s.putInst site x1
        let s2 := s1.xoutput site x1 (if n.forwarded then .corr v else .result v (s1.xrecord key x1 v false))
        if n.whole x then s2.closeRoot site id n1 else s2
      else
        let n1 := { n with forwarded := true, closed := n.whole x }
        let s1 := s.putInst site (x.putNode n1)
        match n.value x.spec with
        | none => s1
        | some v => s1.xsend site x.tenant x (j / 2 * 2 ^ (h + 1)) (.up (h + 1) (j / 2) (j % 2 == 1) (!n.forwarded) v)

/-- Forwards a node whose time has passed. -/
def State.dueNode (s : State) (site id h j : Nat) : State :=
  match s.inst? site id with
  | none => s
  | some x =>
    match x.node? h j with
    | none => s
    | some n => if !n.forwarded && s.past site (xForwardAt x.t x.d h) then s.forwardNode site id h j else s

/-- Two instances are of one job. -/
def XInst.sameJob (x y : XInst) : Bool :=
  x.tenant == y.tenant && x.job == y.job && x.spec == y.spec && x.t == y.t && x.d == y.d && x.crc == y.crc

/-- Values that satisfy f are on their way up to node (h, j). -/
def State.upOnWay (s : State) (site : Nat) (x : XInst) (h j : Nat) (f : Bool → Bool) : Bool :=
  s.xpkts.any (fun p => p.dst == site && p.tenant == x.tenant && p.job == x.job &&
    (match p.kind with | .up a b _ first _ => a == h && b == j && f first | _ => false))

/-- A child of node (h, j), at a site that works, holds an input and satisfies f. -/
def State.childThat (s : State) (site : Nat) (x : XInst) (h j : Nat) (f : XNode → Bool) : Bool :=
  s.sites.any (fun y => s.live y.key && s.domainOf y.key == s.domainOf site && y.insts.any (fun z => z.sameJob x &&
    z.nodes.any (fun n => n.h + 1 == h && n.j / 2 == j && (n.left.isSome || n.right.isSome) && f n)))

/-- A value that a child forwards by its deadline has yet to reach the node: the 8 µs between levels are enough for it, so
the node does not forward without it (R325, R328). -/
def State.firstDue (s : State) (site : Nat) (x : XInst) (h j : Nat) : Bool :=
  decide (2 ≤ h) && (s.upOnWay site x h j id || s.childThat site x h j (fun n => !n.forwarded))

/-- A value that a child forwards before it closes has yet to reach the node, which closes after it (R328). -/
def State.lastDue (s : State) (site : Nat) (x : XInst) (h j : Nat) : Bool :=
  decide (2 ≤ h) && (s.upOnWay site x h j (fun _ => true) || s.childThat site x h j (fun n => !n.closed))

/-- An input reaches a node: on time, as a correction, or too late. A contribution is judged by its arrival; a value from a
child is on time when its node forwarded for the first time and the packet was not held on the way, and else a correction when
it arrives after the node's deadline (R323, R328). -/
def State.nodeInput (s : State) (site id h j : Nat) (right first : Bool) (v : XVal) : State :=
  match s.inst? site id with
  | none => s
  | some x =>
    let key := (s.domainOf site).getD 0
    let s0 := if (x.node? h j).isSome then s else s.putInst site (x.putNode (freshNode h j))
    let s1 := if first && decide (2 ≤ h) then s0 else s0.dueNode site id h j
    match s1.inst? site id with
    | none => s1
    | some x1 =>
      match x1.node? h j with
      | none => s1
      | some n =>
        let old := if right then n.right else n.left
        if n.closed || (h == 1 && (s1.past site (xCloseAt x1.t x1.d 1) || old.isSome)) then s1.xdrop key x1 false
        else
          let n1 : XNode := if right then { n with right := some v } else { n with left := some v }
          let s2 := s1.putInst site (x1.putNode n1)
          if n1.forwarded || n1.full x1.n then s2.forwardNode site id h j else s2

/-! ### Outputs at a participant's site (R328) -/

/-- Queues outputs for every participant of an instance. -/
def XInst.queue (x : XInst) (f : XMember → List XOut) : XInst :=
  { x with members := x.members.map (fun (m : XMember) => if m.closed then m else { m with todo := m.todo ++ f m }) }

def outResult (v : XVal) (r : List Byte) (m : XMember) : List XOut :=
  [.write 0 m.result v.bytes, .write 1 m.area r, .fill 2 m.compCell m.area]
def outCorr (v : XVal) (m : XMember) : List XOut := [.write 3 m.corr v.bytes]
def outFinal (v : XVal) (r : List Byte) (m : XMember) : List XOut :=
  [.write 4 m.corr v.bytes, .write 5 (m.area + 0x240) r, .fill 6 m.corrCell (m.area + 0x240), .last]

/-- The stage of an output. -/
def XOut.stage : XOut → Nat
  | .write k _ _ => k
  | .fill k _ _ => k
  | .filling k _ => k
  | .last => 7

/-- Everything that has reached the site, for a participant that opens late: the result with its record and fill, the
latest correction value, and where it is final its record and fill. -/
def XInst.kept (x : XInst) (m : XMember) : List XOut :=
  (match x.result with | some (v, r) => outResult v r m | none => []) ++
  (match x.final, x.corr with
   | some (v, r), _ => outFinal v r m
   | none, some v => outCorr v m
   | none, none => [])

/-- What a packet does at an instance that it agrees with. One that was held counts as arriving when it is applied (R323). -/
def State.xapply (s : State) (site : Nat) (x : XInst) (held : Bool) (k : XKind) : State :=
  match k with
  | .up h j right first v => s.nodeInput site x.id h j right (first && !held) v
  | .result v r => s.putInst site ({ x with result := some (v, r) }.queue (outResult v r))
  | .corr v => s.putInst site ({ x with corr := some v }.queue (outCorr v))
  | .final v r => s.putInst site ({ x with final := some (v, r) }.queue (outFinal v r))

def State.putMember (s : State) (site id : Nat) (m : XMember) : State :=
  match s.inst? site id with
  | none => s
  | some x => s.putInst site { x with members := x.members.map (fun k => if k.index == m.index then m else k) }

/-- A participant cannot go on at its next output: it is parked on a translation fault. -/
def State.outStuck (s : State) (m : XMember) : Bool :=
  m.stuck || (match m.todo with | .filling _ f :: _ => s.fills.any (fun g => g.id == f && g.waiting) | _ => false)

/-- The first stage of the outputs that a packet brings. -/
def XKind.stage : XKind → Nat
  | .up .. => 7
  | .result .. => 0
  | .corr _ => 3
  | .final .. => 4

/-- An output of an earlier stage is still to be made for a participant that can take it: the root writes every result, then
every record, then fills every cell (R328). -/
def State.outAhead (s : State) (site : Nat) (x : XInst) (k : Nat) : Bool :=
  let there (dst : Nat) (f : XInst → Bool) : Bool :=
    s.live dst && s.domainOf dst == s.domainOf site && (s.site dst).insts.any (fun z => z.sameJob x && f z)
  s.sites.any (fun y => there y.key (fun z => z.members.any (fun m =>
    !s.outStuck m && m.todo.any (fun o => decide (o.stage < k))))) ||
  s.xpkts.any (fun p => decide (p.kind.stage < k) && there p.dst (fun z =>
    z.tenant == p.tenant && z.job == p.job && !z.members.isEmpty))

/-- Applies a participant's outputs until one has to wait. -/
def State.pump (s : State) (site id index : Nat) : Nat → State
  | 0 => s
  | fuel + 1 =>
    match s.inst? site id with
    | none => s
    | some x =>
      match x.members.find? (fun m => m.index == index) with
      | none => s
      | some m =>
        if m.stuck || s.outAhead site x (m.todo.headD .last).stage then s
        else match m.todo with
        | [] => s
        | .write _ a bs :: r =>
          let p : Party := { site, ldev := gDev a, lsite := gSite a, tenant := x.tenant, user := m.user }
          (match s.xlateRun p .write (bs.length / 65536 + 2) a bs.length with
           | .ok ps => ((s.writePieces ps bs).putMember site id { m with todo := r }).pump site id index fuel
           | .bad b => ((s.putMember site id { m with todo := r }).event site x.tenant 0x08 b).pump site id index fuel
           | .fault b lvl =>
             let (_, s1) := s.pageFault site x.tenant (gOfs b / 65536) true false true lvl b (.output site id index)
             s1.putMember site id { m with stuck := true }
           | .broken ofs rule => s.freezeEntry (s.partOf site) site ofs x.tenant rule)
        | .fill k c v :: r =>
          let (f, s1) := s.fresh
          let fill : Fill := { id := f, site, tenant := x.tenant, user := m.user, target := c, value := v, kind := 0,
                               evFull := 0x04, evBad := 0x08, part := s.partOf site, waiting := false }
          let s2 := { s1 with fills := s1.fills ++ [fill] }.putMember site id { m with todo := .filling k f :: r }
          (s2.runFill fill).pump site id index fuel
        | .filling _ f :: r =>
          if s.fills.any (fun g => g.id == f) then s
          else (s.putMember site id { m with todo := r }).pump site id index fuel
        | .last :: r => (s.putMember site id { m with todo := r, filled := true }).pump site id index fuel

/-- Applies each participant's outputs as far as they go. -/
def State.pumpEach (s : State) : State :=
  s.sites.foldl (fun s y =>
    if y.insts.isEmpty || !s.live y.key then s
    else y.insts.foldl (fun s x =>
      x.members.foldl (fun s m =>
        if m.todo.isEmpty || m.stuck then s else s.pump y.key x.id m.index (2 * m.todo.length + 1)) s) s) s

/-- Every participant's outputs that can be applied are, one round for each stage. -/
def State.pumpAll (s : State) : State :=
  if s.sites.all (fun y => y.insts.isEmpty) then s else (List.range 8).foldl (fun s _ => s.pumpEach) s

/-! ### Arrival, holding, and the end of an instance (R322, R323) -/

/-- A packet disagrees with the instance it meets. -/
def XPkt.differs (p : XPkt) (x : XInst) : Bool := p.spec != x.spec || p.t != x.t || p.d != x.d || p.crc != x.crc

/-- The time after which a packet is of no use to its node. -/
def XPkt.tooLate (s : State) (p : XPkt) : Bool :=
  match p.kind with
  | .up h _ _ _ _ => s.past p.dst (if h = 1 then xCloseAt p.t p.d 1 else p.inst.lateAt)
  | _ => false

/-- A packet at the site it names; a site that holds no descriptor for its tenant discards it (R172). -/
def State.xland (s : State) (held : Bool) (p : XPkt) : State :=
  if (s.tenantDesc p.dst p.tenant).isNone then s.xdrop p.key p.inst false
  else match s.instOf p.dst p.tenant p.job with
  | some x => if p.differs x then s.xdrop p.key x true else s.xapply p.dst x held p.kind
  | none =>
    if p.tooLate s then s.xdrop p.key p.inst false
    else match s.obtain p.dst p.inst with
      | some (s1, x) => s1.xapply p.dst x held p.kind
      | none =>
        let y := s.site p.dst
        if 256 ≤ (y.held.filter (fun q => q.tenant == p.tenant)).length ∨ s.past p.dst (xCloseAt p.t p.d 1) then
          s.xdrop p.key p.inst false
        else s.putSite { y with held := y.held ++ [p] }

/-- The packets held for a job are applied in arrival order. -/
def State.applyHeld (s : State) (site tenant job : Nat) : State :=
  let y := s.site site
  let (mine, rest) := y.held.partition (fun p => p.tenant == tenant && p.job == job)
  if mine.isEmpty then s else mine.foldl (fun s p => s.xland true p) (s.putSite { y with held := rest })

/-- The packets held for a job are discarded. -/
def State.dropHeld (s : State) (site : Nat) (f : XPkt → Bool) : State :=
  let y := s.site site
  let (gone, rest) := y.held.partition f
  if gone.isEmpty then s else gone.foldl (fun s p => s.xdrop p.key p.inst false) (s.putSite { y with held := rest })

/-- An instance of a site is over: closed by all who opened it, with their correction cells filled or beyond the time of
R329; one that nobody opened keeps its outputs until that time (R322, R328). DEDUCED, log 47. -/
def State.instOver (s : State) (site : Nat) (x : XInst) : Bool :=
  x.members.all (fun m => m.closed) &&
    (s.past site x.lateAt || (!x.members.isEmpty && x.members.all (fun m => m.filled)))

/-- Frees the instances of a site that are over; the packets it holds then find a slot, or pass D2. -/
def State.freeInsts (s : State) (site : Nat) : State :=
  let y := s.site site
  let stay := y.insts.filter (fun x => !s.instOver site x)
  let s1 := if stay.length = y.insts.length then s else s.putSite { y with insts := stay }
  if y.held.isEmpty then s1
  else
    let s2 := s1.dropHeld site (fun p => s1.past site (xCloseAt p.t p.d 1))
    (s2.site site).held.foldl (fun s p =>
      if !(s.site site).held.any (fun q => q.id == p.id) then s
      else if (s.instOf site p.tenant p.job).isSome then s.applyHeld site p.tenant p.job
      else match s.obtain site p.inst with
        | some (s3, _) => s3.applyHeld site p.tenant p.job
        | none => s) s2

def State.freeAllInsts (s : State) : State :=
  s.sites.foldl (fun s y => if (y.insts.isEmpty && y.held.isEmpty) || !s.live y.key then s else s.freeInsts y.key) s

/-- A reduction packet arrives; those of one job between two sites arrive in the order sent (R266, R269, R323, R328). -/
def execReductionPacketArrive (pkt : Nat) (s : State) : Host.Outcome State Fault Refusal :=
  match s.xpkts.find? (fun p => p.id == pkt) with
  | none => .next s
  | some p =>
    let first := !s.xpkts.any (fun q => q.src == p.src && q.dst == p.dst && q.tenant == p.tenant && q.job == p.job &&
      decide (q.id < p.id))
    -- a correction that comes after a deadline meets a node that has forwarded
    let early := match p.kind, s.instOf p.dst p.tenant p.job with
      | .up h j _ false _, some x => !s.past p.dst (xForwardAt x.t x.d h) || !s.firstDue p.dst x h j
      | _, _ => true
    if s.live p.dst && first && early && s.mayCross p.way p.src p.dst p.relay p.relayed then
      let s1 := { s with xpkts := s.xpkts.filter (fun q => q.id != pkt) }
      let y := s1.site p.dst
      if s1.domainOf p.dst ≠ some p.key then .next (s1.putSite { y with keyDrop := y.keyDrop + 1 })
      else if y.inc ≠ p.inc then .next (s1.putSite { y with incDrop := y.incDrop + 1 })
      else .next ((if p.src = p.dst then s1 else s1.touchPdc p.src p.dst false none).xland false p)
    else .next s

/-- A node forwards what it has at its deadline, once what its children forwarded at theirs has come (R328). -/
def execNodeForwardDeadline (site inst h j : Nat) (s : State) : Host.Outcome State Fault Refusal :=
  match s.inst? site inst with
  | none => .next s
  | some x => if s.live site && !s.firstDue site x h j then .next (s.dueNode site inst h j) else .next s

/-- A node closes at its deadline, once no value sent in time is still on its way to it (R328). -/
def execNodeCloseDeadline (site inst h j : Nat) (s : State) : Host.Outcome State Fault Refusal :=
  match s.inst? site inst with
  | none => .next s
  | some x =>
    match x.node? h j with
    | none => .next s
    | some n =>
      if s.live site ∧ !n.closed ∧ s.past site (xCloseAt x.t x.d h) ∧ !s.lastDue site x h j then
        let s1 := s.dueNode site inst h j
        match (s1.inst? site inst).bind (fun y => y.node? h j) with
        | none => .next s1
        | some n1 =>
          if n1.closed then .next s1
          else if h = xLevels x.n then .next (s1.closeRoot site inst n1)
          else
            match s1.inst? site inst with
            | some y => .next (s1.putInst site (y.putNode { n1 with closed := true }))
            | none => .next s1
      else .next s

/-! ### The instructions (R326 to R329) -/

/-- Whether a page of n bytes from a is replicated, and the first one that faults. -/
def State.pagesX (s : State) (p : Party) (a : Word) (n : Nat) : Bool × Option (Word × Bool) :=
  let o := gOfs a
  let starts := if n = 0 then [] else
    (List.range ((o + n - 1) / 65536 - o / 65536 + 1)).map (fun i => if i = 0 then a else
      a + BitVec.ofNat 64 ((o / 65536 + i) * 65536 - o))
  starts.foldl (fun acc q =>
    match xlate s p.site p.core p.tenant p.user .write (gOfs q) with
    | .ok _ _ l => (acc.1 || l.repl, acc.2)
    | .fault l => (acc.1, acc.2.orElse (fun _ => some (q, l)))
    | _ => acc) (false, none)

/-- An own-site range that an `xopen` names: its address, its alignment, its bytes; and what its checks answer. -/
structure Area where
  addr : Word
  align : Nat
  chk : RangeChk
  repl : Bool
  fault : Option (Word × Bool)
deriving DecidableEq, Repr

/-- The checks of own-site ranges, which must be writable and not replicated (R326). -/
def State.areas (s : State) (p : Party) (rs : List (Word × Nat × Nat)) : List Area :=
  rs.map (fun r =>
    let x := s.pagesX p r.1 r.2.2
    { addr := r.1, align := r.2.1, chk := s.checkRange p r.1 r.2.2 true, repl := x.1, fault := x.2 })

/-- The trap of step 8 of R49 that ranges meet, as class, code and address. -/
def areaTrap (as : List Area) : Option (Nat × Word) :=
  match as.find? (fun x => x.addr.toNat % x.align != 0) with
  | some x => some (0x01, x.addr)
  | none =>
    match as.find? (fun x => x.chk == .seam) with
    | some x => some (0x02, x.addr)
    | none => (as.find? (fun x => x.chk == .prot || x.repl)).map (fun x => (0x03, x.addr))

/-- The first broken table entry that ranges meet: offset and rule. -/
def areaBroken (as : List Area) : Option (Nat × Nat) :=
  as.findSome? (fun x => match x.chk with | .broken o n => some (o, n) | _ => none)

/-- Bytes of the own site as an engine reads them, once the checks have passed. -/
def State.engineBytes (s : State) (c : Ctx) (a : Word) (n : Nat) : State × List Byte :=
  match s.xlateRun c.t.party .read (n / 65536 + 2) a n with
  | .ok ps => s.readPieces ps
  | _ => (s, [])

/-- The handle word (R326). -/
def handleWord (job num index : Nat) : Word := BitVec.ofNat 64 (job * 2 ^ 18 + num * 2 ^ 12 + index)

/-- A team joins an instance; it receives at once what has reached the site already (R328). -/
def State.joinInst (s : State) (c : Ctx) (x : XInst) (index : Nat) : State :=
  let m : XMember :=
    { team := c.t.id, index, user := !c.t.sup, result := c.arg1 5, corr := c.arg1 6, area := c.arg1 7, compCell := c.arg1 8,
      corrCell := c.arg1 9, closed := false, filled := false, todo := [], stuck := false }
  let site := c.t.place.site
  let s1 := s.putInst site { x with members := x.members ++ [{ m with todo := x.kept m }] }
  let h : Handle := { site, inst := x.id, job := x.job, index, contributed := false, failed := false }
  s1.commit c (fun t =>
    ({ t with handles := t.handles ++ [h] } : Team).pushAll c.sh c.act
      (vtab t.nlane (fun _ => handleWord x.job x.num index)) c.pass)

/-- A translation fault of an `xopen` or an `xred`: it replays after service (R175). -/
def State.areaFault (s : State) (c : Ctx) (write : Bool) (f : Word × Bool) : State :=
  s.parkFault c.t c.t.ctl.acting.toNat (gOfs f.1 / 65536) write false f.2 f.1

/-- Word at offset o of a descriptor. -/
def descWord (b : List Byte) (o : Nat) : Word := BitVec.ofNat 64 (leNat ((b.drop o).take 8))

/-- The instance that an `xopen` with a descriptor's bytes asks for. -/
def Ctx.xinst (c : Ctx) (n : Nat) (raw : List Byte) : XInst :=
  { id := 0, num := 0, isSlot := true, tenant := c.t.ctl.acting.toNat, job := leNat ((raw.drop 2).take 2), n,
    spec := c.arg1 1, t := c.arg1 2, d := (c.arg1 3).toNat, crc := Config.crc32 raw,
    contributors := (List.range n).map (fun k => descWord raw (64 + 8 * k)), nodes := [], members := [], fwdTime := 0,
    result := none, corr := none, final := none }

/-- The descriptor breaks R321, or its entry i does not name the own device and site. -/
def Ctx.badGroup (c : Ctx) (x : XInst) (raw : List Byte) : Bool :=
  let i := (c.arg1 4).toNat
  let own (a : Word) : Bool := gDev a == c.t.place.ldev && gSite a == c.t.place.lsite
  ((raw.drop 4).take 60).any (fun b => b != 0) || x.contributors.any (fun a => gOfs a != 0) || decide (x.n ≤ i) ||
    !own (x.contributors.getD i 0)

/-- The instance of the job on this site differs, or holds index i already. -/
def XInst.clash (y x : XInst) (i : Nat) : Bool :=
  y.spec != x.spec || y.t != x.t || y.d != x.d || y.contributors != x.contributors || y.members.any (fun m => m.index == i)

/-- `xopen` past its checks: the instance on its site, or a slot for it; the team parks until one frees, for 1 ms at most
(R322). -/
def State.xopenSlot (s : State) (c : Ctx) (x : XInst) : State :=
  let site := c.t.place.site
  let i := (c.arg1 4).toNat
  match s.instOf site x.tenant x.job with
  | some y => s.joinInst c y i
  | none =>
    match s.obtain site x with
    | some (s1, y) =>
      let s2 := s1.applyHeld site x.tenant x.job
      (match s2.inst? site y.id with
       | some z => s2.joinInst c z i
       | none => s2)
    | none =>
      if c.wake = some .expired then
        (s.dropHeld site (fun p => p.tenant == x.tenant && p.job == x.job)).trapAll c 6 0x0F
      else s.stallAt c (.reductionSlot x.tenant x.job)

/-- `xopen` with its whole descriptor read: the group, the instance, and only then a translation fault of its areas
(R49). -/
def State.xopenGroup (s : State) (c : Ctx) (as : List Area) (n : Nat) (raw : List Byte) : State :=
  let x := c.xinst n raw
  if c.badGroup x raw then s.trapAll c 6 0x0D
  else if (s.instOf c.t.place.site x.tenant x.job).any (fun y => y.clash x (c.arg1 4).toNat) then s.trapAll c 6 0x0E
  else match areaBroken as, as.findSome? (fun a => a.fault) with
    | some (o, r), _ => s.freezeEntry c.t.place.part c.t.place.site o c.t.ctl.acting.toNat r
    | none, some f => s.areaFault c true f
    | none, none => s.xopenSlot c x

/-- `xopen` reads its descriptor (R321), whose own faults come before what the bytes decide. -/
def State.xopenRead (s : State) (c : Ctx) (as : List Area) : State :=
  let p := c.t.party
  let part := c.t.place.part
  let tenant := c.t.ctl.acting.toNat
  let (desc, rest) := as.splitAt 1
  let ok := specOk (c.arg1 1) && spanOk (c.arg1 3)
  match areaBroken desc, desc.findSome? (fun a => a.fault) with
  | some (o, r), _ => if ok then s.freezeEntry part c.t.place.site o tenant r else s.trapAll c 6 0x0C
  | none, some f => if ok then s.areaFault c true f else s.trapAll c 6 0x0C
  | none, none =>
    let (s1, head) := s.engineBytes c (c.arg1 0) 64
    let n := leNat (head.take 2)
    let nOk := decide (1 ≤ n ∧ n ≤ 4096)
    let tail := if nOk then s1.areas p [(c.arg1 0 + 64, 8, 8 * n)] else []
    match areaTrap tail with
    | some (code, a) => s1.trapList c 4 code [(c.first, a)]
    | none =>
      if !ok then s1.trapAll c 6 0x0C
      else if !nOk then s1.trapAll c 6 0x0D
      else match areaBroken tail, tail.findSome? (fun a => a.fault) with
        | some (o, r), _ => s1.freezeEntry part c.t.place.site o tenant r
        | none, some f => s1.areaFault c true f
        | none, none =>
          let (s2, more) := s1.engineBytes c (c.arg1 0 + 64) (8 * n)
          s2.xopenGroup c rest n (head ++ more)

/-- The descriptor's first 64 bytes and the areas that an `xopen` names, each with its alignment and length (R326). -/
def Ctx.xareas (c : Ctx) : List (Word × Nat × Nat) :=
  let spec := c.arg1 1
  let al := if specFmt spec < 6 then xSize (specFmt spec) else 1
  let len := if specOk spec then xBytes spec else 1
  [(c.arg1 0, 64, 64), (c.arg1 5, al, len), (c.arg1 6, al, len), (c.arg1 7, 64, 1152), (c.arg1 8, 16, 16), (c.arg1 9, 16, 16)]

/-- `xopen` (R326). -/
def execXopen (g : Guard) (kb : Fin 32) (s : State) : Host.Outcome State Fault Refusal :=
  s.runOutsideTx { op := 0xE5, sel := .guard g, blk := some (kb, 10), dst := some .drift } (fun s c =>
    match c.diverges [1, 2, 3, 4] with
    | some ls => s.trapList c 1 0x08 ls
    | none =>
      let as := s.areas c.t.party c.xareas
      match areaTrap as with
      | some (code, a) => s.trapList c 4 code [(c.first, a)]
      | none => s.afterXfence c.t (fun s => (s.settleStores c.t.id).xopenRead c as))

/-- The team's handle that a word names. -/
def State.handleOf (s : State) (t : Team) (v : Word) : Option Handle :=
  t.handles.find? (fun h =>
    match s.inst? h.site h.inst with
    | some x => v == handleWord x.job x.num h.index
    | none => h.failed && v.toNat / 2 ^ 18 == h.job && v.toNat % 2 ^ 12 == h.index)

/-- The site of contributor i's level-1 node cannot be named by the acting tenant: the contribution's issue traps (R177, R325,
R394). The lane and address marked are the first active lane and the contributor entry: DESIGN CHOICE, log 127. -/
def State.leafUnnamed (s : State) (site tenant : Nat) (x : XInst) (i : Nat) : Bool :=
  match s.contributorSite site tenant x (i / 2 * 2) with
  | .unmapped => true
  | .at_ _ _ => false

/-- A contribution whose checks have passed reads its source, every earlier access of the team over, and sends it (R328).
Of R199's accesses to unnamed buffers it waits for more than the rule asks. DEDUCED, log 97. -/
def State.contribute (s : State) (c : Ctx) (h : Handle) (x : XInst) : State :=
  s.afterAll c.t (fun s1 =>
    match s1.xlateRun c.t.party .read (xBytes x.spec / 65536 + 2) (c.arg1 1) (xBytes x.spec) with
    | .fault b l => s1.areaFault c false (b, l)
    | .bad b => s1.trapList c 4 0x03 [(c.first, b)]
    | .broken o r => s1.freezeEntry c.t.place.part c.t.place.site o c.t.ctl.acting.toNat r
    | .ok ps =>
      let (s2, bytes) := s1.readPieces ps
      let i := h.index
      let v : XVal := { bytes, incl := [i], rescaled := false, scalesat := false }
      let s3 := s2.xsend h.site c.t.ctl.acting.toNat x (i / 2 * 2) (.up 1 (i / 2) (i % 2 == 1) true v) (planeOf c.hint)
      s3.commit c (fun t => { t with
        handles := t.handles.map (fun k => if k == h then { k with contributed := true } else k) }))

/-- `xred` (R328). Its source is aligned to its element size, as R326 has it of the buffers of `xopen`: DEDUCED, log 124. -/
def execXred (g : Guard) (kb : Fin 32) (s : State) : Host.Outcome State Fault Refusal :=
  s.runOutsideTx { op := 0xE6, sel := .guard g, blk := some (kb, 2), mod := .plane } (fun s c =>
    match c.diverges [0] with
    | some ls => s.trapList c 1 0x08 ls
    | none =>
      match s.handleOf c.t (c.arg1 0) with
      | none => s.trapAll c 6 0x10
      | some h =>
        match if h.failed then none else s.inst? h.site h.inst with
        | none => s.trapAll c 6 0x10
        | some x =>
          let a := c.arg1 1
          let k := s.checkRange c.t.party a (xBytes x.spec) false
          if a.toNat % xSize (specFmt x.spec) ≠ 0 then s.trapList c 4 0x01 [(c.first, a)]
          else if k = .seam then s.trapList c 4 0x02 [(c.first, a)]
          else if k = .prot then s.trapList c 4 0x03 [(c.first, a)]
          else if s.leafUnnamed h.site c.t.ctl.acting.toNat x h.index then
            s.trapList c 4 0x04 [(c.first, x.contributors.getD (h.index / 2 * 2) 0)]
          else if h.contributed then s.trapAll c 6 0x11
          else match k with
            | .broken o r => s.freezeEntry c.t.place.part c.t.place.site o c.t.ctl.acting.toNat r
            | _ => s.contribute c h x)

/-- `xclose` (R329). -/
def execXclose (g : Guard) (a : Src) (s : State) : Host.Outcome State Fault Refusal :=
  s.runOutsideTx { op := 0xE7, sel := .guard g, srcs := [a] } (fun s c =>
    let d := voteOf c (c.val 0)
    if !d.isEmpty then s.trapList c 1 0x08 d
    else match s.handleOf c.t (lane (c.val 0) c.first) with
      | none => s.trapAll c 6 0x10
      | some h =>
        if s.partDone h then
          (s.closePart h).commit c (fun t => { t with handles := t.handles.filter (fun k => k != h) })
        else s.parkAt c (.reductionClose h.inst h.index))

/-- An `xopen` has waited 1 ms for a slot (R322). -/
def execNoReductionSlotExpiry (team : Nat) (s : State) : Host.Outcome State Fault Refusal :=
  match s.team? team with
  | some t =>
    match t.parkedIn with
    | some (.reductionSlot _ _, since) =>
      if since + us 1000 ≤ s.now ∧ s.live t.place.site then .next (s.wakeTeam team (some .expired)) else .next s
    | _ => .next s
  | none => .next s

/-- The close of a part may take "remote failed": its own correction cell is not filled in time (R329). -/
def State.closeLate (s : State) (h : Handle) (x : XInst) : Bool :=
  s.past h.site x.lateAt && s.live h.site && !h.failed && (s.member? h).any (fun m => !m.filled)

/-- A close whose correction cell was not filled in time takes "remote failed" with cause 2; the trap closes the part
(R329). -/
def execXcloseRemoteFailed (team : Nat) (s : State) : Host.Outcome State Fault Refusal :=
  match s.team? team with
  | none => .next s
  | some t =>
    match t.parkedIn with
    | some (.reductionClose inst index, _) =>
      (match t.handles.find? (fun h => h.inst == inst && h.index == index) with
       | none => .next s
       | some h =>
         if (s.inst? h.site inst).any (s.closeLate h) then
           let t1 := { t with handles := t.handles.map (fun k => if k == h then { k with failed := true } else k) }
           .next (((s.putTeam t1).closePart h).wakeTeam team (some (.trap 6 0x0B 2 none)))
         else .next s)
    | _ => .next s

end Sys2Proof.Machine
end

