-- ==== Sys2Proof/Machine/Matrix.lean ====
section
/-! DEFINITION. Row 0xC: the matrix unit, its holder, the sequencer queue and the ten matrix instructions (R138 to
R162), with the matrix events. -/

namespace Sys2Proof.Machine

/-! ### Fields of a queued word (R149) -/

def MEntry.m (e : MEntry) : Nat := 8 * 2 ^ (e.word.toNat / 2 ^ 18 % 4)
def MEntry.n (e : MEntry) : Nat := 16 * (e.word.toNat / 2 ^ 12 % 64 + 1)
def MEntry.tile (e : MEntry) : Nat := e.word.toNat / 2 ^ 4 % 8

/-- The instruction names a tile. -/
def MEntry.hasTile (e : MEntry) : Bool := e.op != 0xC0 && e.op != 0xC5

def elemSizeOf : TKind → Nat
  | .f32 => 4
  | .i32 => 4
  | .cf32 => 16
/-- Slots that a tile spans (R142). -/
def spanOf (m n : Nat) (k : TKind) : Nat := (m * n * elemSizeOf k + 32767) / 32768

def kindOfCode (c : Nat) : TKind := if c = 0 then .f32 else if c = 3 then .cf32 else .i32
def codeOfKind : TKind → Nat
  | .f32 => 0
  | .i32 => 1
  | .cf32 => 3

/-! ### Slots and elements -/

def Matrix.slot (x : Matrix) (i : Nat) : Slot := x.slots.getD i {}
def Matrix.setSlot (x : Matrix) (i : Nat) (f : Slot → Slot) : Matrix :=
  { x with slots := setAt {} x.slots i (f (x.slot i)) }
def Slot.sum (w : Slot) (m : Nat) : Word := w.rowsum.getD m 0
/-- Replaces the row sums of rows 0 to n − 1. -/
def Slot.withSums (w : Slot) (n : Nat) (f : Nat → Word) : Slot :=
  { w with rowsum := (List.range 32).map (fun i => if i < n then f i else w.sum i) }

/-- Sets KIND in every slot of a tile and clears SAT, ROWSUM and STEP (R143, R155). -/
def Matrix.initTile (x : Matrix) (tile span : Nat) (k : TKind) : Matrix :=
  let y := (List.range span).foldl (fun (x : Matrix) i => x.setSlot (tile + i) (fun w => { w with kind := k })) x
  y.setSlot tile (fun w => { w with sat := false, rowsum := [], step := 0 })

/-- Sets every element of a tile to +0 (R155). -/
def Matrix.zeroTile (x : Matrix) (tile m n : Nat) (k : TKind) : Matrix :=
  let y := x.initTile tile (spanOf m n k) k
  { y with acc := Mem.clear y.acc (tile * 32768) (tile * 32768 + m * n * elemSizeOf k) }

def Matrix.word32 (x : Matrix) (o : Nat) : Nat := Mem.read x.acc o 4
def Matrix.setWord32 (x : Matrix) (o v : Nat) : Matrix := { x with acc := Mem.write x.acc o 4 v }

/-! ### Holding the unit (R138, R139, R344, R345) -/

/-- The save area of a tenant for one core. -/
def State.saveBase (s : State) (site tenant idx : Nat) : Option Nat :=
  (s.tenantDesc site tenant).map (fun d => siteBase site + d.save + idx * 0x200000)

/-- A column record's bytes, and back. -/
def colBytes (r : ColRec) : List Byte :=
  leBytes 4 r.mult.toNat ++ [r.shift, r.zout, 0, 0] ++ leBytes 4 r.bias.toNat ++ [0, 0, 0, 0]
def colOfBytes (col : Nat) (bs : List Byte) : ColRec :=
  { col, mult := BitVec.ofNat 32 (leNat (bs.take 4)), shift := bs.getD 4 0, zout := bs.getD 5 0,
    bias := BitVec.ofNat 32 (leNat ((bs.drop 8).take 4)) }

/-- Tiles, row sums and column records go to the save area of their tenant, and the unit is cleared (R139, R344). -/
def State.thawMatrix (s : State) (core : Nat) : State :=
  let c := s.core core
  let x := c.mx
  match x.tenant with
  | none => s
  | some old =>
    let mem := match s.saveBase (coreSite core) old (coreIdx core) with
      | none => s.mem
      | some b =>
        let m0 := Mem.clear s.mem (b + 0x120000) (b + 0x168000)
        let m1 := x.acc.foldl (fun m (e : Host.Cell) => Mem.set m (b + 0x120000 + e.1) e.2) m0
        let m2 := (List.range 8).foldl (fun m i =>
          (List.range 32).foldl (fun m r =>
            Mem.setWord m (b + 0x160000 + (i * 32 + r) * 8) ((x.slot i).sum r)) m) m1
        x.cols.foldl (fun m (r : ColRec) => Mem.setBytes m (b + 0x164000 + 16 * r.col) (colBytes r)) m2
    let y : Matrix := { holder := x.holder, queue := x.queue,
                        out := { tenant := old, slots := x.slots, cols := x.cols.map (fun r => r.col) } ::
                          x.out.filter (fun o => o.tenant != old) }
    State.putCore { s with mem := mem } { c with mx := y }

/-- Tiles that had thawed reload when their tenant next takes the unit (R345). -/
def State.reloadMatrix (s : State) (core tenant : Nat) : State :=
  let c := s.core core
  let x := c.mx
  match x.out.find? (fun o => o.tenant == tenant), s.saveBase (coreSite core) tenant (coreIdx core) with
  | some o, some b =>
    let acc := (s.mem.filter (fun (e : Host.Cell) => decide (b + 0x120000 ≤ e.1 ∧ e.1 < b + 0x160000))).map
      (fun (e : Host.Cell) => (e.1 - (b + 0x120000), e.2))
    let slots := o.slots.zipIdx.map (fun (w : Slot × Nat) =>
      { w.1 with rowsum := (List.range 32).map (fun r => Mem.word s.mem (b + 0x160000 + (w.2 * 32 + r) * 8)) })
    let cols := o.cols.map (fun i => colOfBytes i (Mem.bytes s.mem (b + 0x164000 + 16 * i) 16))
    s.putCore { c with mx := { x with acc, slots, cols, out := x.out.filter (fun p => p.tenant != tenant) } }
  | _, _ => s

/-- A team becomes the holder: another tenant's matrix state thaws first; a record of a slice end comes back (R138,
R139, R162). -/
def State.grantMatrix (s : State) (t : Team) : State :=
  let core := t.coreKey
  let home := t.ctl.home.toNat
  let s1 :=
    if (s.core core).mx.tenant = some home then s
    else (s.thawMatrix core).reloadMatrix core home
  let c := s1.core core
  let s2 := s1.putCore { c with mx := { c.mx with holder := some t.id, tenant := some home,
                                                  queue := t.savedMx.getD [] } }
  match s2.team? t.id with
  | some u => s2.putTeam { u with savedMx := none }
  | none => s2

/-- Teams that wait for the unit of a core: parked for it, or back from a slice end with a record to run. -/
def State.matrixWaiters (s : State) (core : Nat) : List (Team × Nat) :=
  s.teams.filterMap (fun t =>
    if t.coreKey = core then
      match t.status with
      | .parked .matrixUnit since => some (t, since)
      | .parked _ since => if t.savedMx.isSome then some (t, since) else none
      | .running => if t.savedMx.isSome then some (t, t.resumedAt) else none
      | .retiring => if t.savedMx.isSome then some (t, t.resumedAt) else none
      | _ => none
    else none)

/-- The unit in the hands of this team, if it can have it. -/
def State.takeMatrix (s : State) (c : Ctx) : Option State :=
  let core := c.t.coreKey
  match (s.core core).mx.holder with
  | some h => if h = c.t.id then some s else none
  | none => if (s.matrixWaiters core).all (fun w => w.1.id == c.t.id) then some (s.grantMatrix c.t) else none

/-- Waiters in the order they take the unit: highest priority (0 first), then longest. -/
def firstWaiter : List (Team × Nat) → Option (Team × Nat)
  | [] => none
  | w :: r =>
    match firstWaiter r with
    | none => some w
    | some v =>
      if v.1.hdr.priority < w.1.hdr.priority ∨ (v.1.hdr.priority = w.1.hdr.priority ∧ v.2 < w.2) then some v else some w

/-- A free unit goes to the waiting team of highest priority (R138). -/
def execMatrixUnitHandover (core : Nat) (s : State) : Host.Outcome State Fault Refusal :=
  if (s.core core).mx.holder.isSome ∨ !s.live (coreSite core) then .next s
  else
    match firstWaiter (s.matrixWaiters core) with
    | none => .next s
    | some (t, _) =>
      let s1 := s.grantMatrix t
      (match t.status with
       | .parked .matrixUnit _ => .next (s1.wakeTeam t.id none)
       | _ => .next s1)

/-- Parked 10 ms for the unit: "matrix unit held" (R138). -/
def execMatrixUnitWaitExpiry (team : Nat) (s : State) : Host.Outcome State Fault Refusal :=
  match s.team? team with
  | some t =>
    match t.status with
    | .parked .matrixUnit since =>
      if since + us 10000 ≤ s.now ∧ s.live t.place.site then .next (s.wakeTeam team (some (.trap 5 0x09 0 none))) else .next s
    | _ => .next s
  | none => .next s

/-- The scrub checks a core's rime rows; a mismatch is a fault of group 0x02, KIND 2 (R153, R367). The sequencer's unit
records it: DESIGN CHOICE, log 85. -/
def execRimeScrub (core : Nat) (badRow : Option Nat) (s : State) : Host.Outcome State Fault Refusal :=
  match badRow with
  | none => .next s
  | some row =>
    let site := coreSite core
    let idx := coreIdx core
    if row < 4096 ∧ s.live site then
      let d := 2 * 2 ^ 91 + 2 * 2 ^ 88 + (s.site site).lsite * 2 ^ 82 + idx / 64 * 2 ^ 80 + idx % 64 * 2 ^ 74 +
        row * 2 ^ 59 + (s.core core).mx.tenant.getD 0 * 2 ^ 43
      .next (s.freezePart (s.partOf site) site (256 + idx) (BitVec.ofNat 96 d))
    else .next s

/-! ### The state that the queue will leave (R149) -/

structure Proj where
  kinds : List TKind
  cols : List Nat
  /-- format word, K_res, N_res -/
  rl : Option (Nat × Nat × Nat)
deriving DecidableEq, Repr

def Matrix.project (x : Matrix) : Proj :=
  x.queue.foldl (fun (p : Proj) e =>
    let put (k : TKind) : List TKind := (List.range (spanOf e.m e.n k)).foldl (fun l i => l.set (e.tile + i) k) p.kinds
    if e.op = 0xC0 then { p with rl := some (e.num 3, e.num 2, e.n) }
    else if e.op = 0xC5 then { p with cols := p.cols ++ List.range e.n }
    else if (e.op = 0xC1 ∨ e.op = 0xC2) ∧ e.fl % 2 = 0 then { p with kinds := put (kindOfAcc (fwAcc (e.num 4))) }
    else if e.op = 0xC4 ∨ e.op = 0xC6 then { p with kinds := put (kindOfCode (e.fl % 4)) }
    else if e.op = 0xC7 ∧ e.fl % 4 = 0 then { p with kinds := put (p.kinds.getD (e.num 0) .f32) }
    else p)
  { kinds := x.slots.map (fun w => w.kind), cols := x.cols.map (fun r => r.col),
    rl := x.rl.map (fun r => (r.fmt.toNat, r.kres, r.nres)) }

/-! ### Checks at issue -/

/-- A check that fails: class, code and marked lanes; none marks every active lane. -/
structure MBad where
  cls : Nat
  code : Nat
  lanes : Option (List (Nat × Word)) := none
deriving DecidableEq, Repr

/-- The first failing check of a list. -/
def firstBad : List (Option MBad) → Option MBad
  | [] => none
  | some b :: _ => some b
  | none :: r => firstBad r

def badIf (b : Bool) (cls code : Nat) : Option MBad := if b then some { cls, code } else none

/-- Votes: the format word first, then the other arguments (R48, R49 step 5). -/
def voteBad (c : Ctx) (fmt : Option Nat) (args : List Nat) : Option MBad :=
  let f := match fmt with | some i => c.diverges [i] | none => none
  match f with
  | some ls => some { cls := 3, code := 0x01, lanes := some ls }
  | none => match c.diverges args with
    | some ls => some { cls := 1, code := 0x08, lanes := some ls }
    | none => none

/-- Alignment of an address and its steps, marked at the address (R146). -/
def alignBad (c : Ctx) (al : Nat) (a : Word) (vs : List Word) : Option MBad :=
  if (a :: vs).any (fun v => v.toNat % al != 0) then some { cls := 4, code := 0x01, lanes := some [(c.first, a)] } else none

/-- The pages that n bytes from a lie on: kind, and the physical bytes on it; strong, and anywhere, for a page that does not
translate. -/
def State.pagesOf (s : State) (p : Party) (a : Word) (n : Nat) : List (PageKind × Span) :=
  let o := gOfs a
  (List.range ((o + n - 1) / 65536 - o / 65536 + 1)).map (fun i =>
    let lo := max o ((o / 65536 + i) * 65536)
    match xlate s p.site p.core p.tenant p.user .read lo with
    | .ok phys k _ => (k, (phys, phys + (min (o + n) ((o / 65536 + i + 1) * 65536) - lo)))
    | _ => (.strong, allSpan))
def State.kindsOf (s : State) (p : Party) (a : Word) (n : Nat) : List PageKind := (s.pagesOf p a n).map (fun x => x.1)

/-- What the check of one operand's range answers: a failed check, a broken entry met on the way, and for a range that is
read, whether some page of it keeps reads in order, and its physical bytes. -/
structure RangeRes where
  bad : Option MBad := none
  broken : Option (Nat × Nat) := none
  keep : Bool := false
  spans : List Span := []
deriving DecidableEq, Repr

/-- The whole range of an operand, lowest to highest byte: rows by a stride, steps by an increment, both read as signed.
DESIGN CHOICE, log 101. -/
def State.rangeBad (s : State) (c : Ctx) (a : Word) (rows : Nat) (stride : Word) (steps : Nat) (inc : Word) (n : Nat)
    (write : Bool) : RangeRes :=
  if rows = 0 ∨ steps = 0 ∨ n = 0 then {}
  else
    let r := ((rows - 1 : Nat) : Int) * stride.toInt
    let j := ((steps - 1 : Nat) : Int) * inc.toInt
    let lo := min 0 r + min 0 j
    let hi := max 0 r + max 0 j
    let b := a + BitVec.ofInt 64 lo
    let len := (hi - lo).toNat + n
    match s.checkRange c.t.party b len write with
    | .ok =>
      if write then {}
      else
        let ps := s.pagesOf c.t.party b len
        { keep := ps.any (fun x => x.1 != .unordered), spans := ps.map (fun x => x.2) }
    | .seam => { bad := some { cls := 4, code := 0x02, lanes := some [(c.first, a)] } }
    | .prot => { bad := some { cls := 4, code := 0x03, lanes := some [(c.first, a)] } }
    | .broken o r => { broken := some (o, r) }

/-- Raises a failed check. -/
def State.raiseBad (s : State) (c : Ctx) (b : MBad) : State :=
  match b.lanes with
  | some ls => s.trapList c b.cls b.code ls
  | none => s.trapAll c b.cls b.code

/-- What a queued instruction brings: its entry, its checks against the projected state, its format word. -/
structure MIssue where
  word : Code
  args : List Word
  votes : Option MBad := none
  checks : Proj → List (Option MBad) := fun _ => []
  /-- address ranges -/
  ranges : State → List RangeRes := fun _ => []
  fmt : Option Nat := none

/-- The first failing range check: every seam comes before every protection (R49). -/
def firstRange (rs : List RangeRes) : Option MBad :=
  let bs := rs.filterMap (fun r => r.bad)
  (bs.find? (fun b => b.code == 0x02)).or bs.head?

/-- Issues a matrix instruction: deferred trap, votes, holder, checks, a place in the queue; a fifth stalls (R138, R149,
R150, R152). -/
def State.issueMatrix (s : State) (c : Ctx) (q : MIssue) : State :=
  match s.raiseDeferred c.t c.sh.op c.act (fun d => d.w.isMatrix) with
  | some s1 => s1
  | none =>
    match q.votes with
    | some b => s.raiseBad c b
    | none =>
      match s.takeMatrix c with
      | none => s.parkAt c .matrixUnit
      | some s1 =>
        let core := c.t.coreKey
        let p := (s1.core core).mx.project
        let rs := q.ranges s1
        match (firstBad (q.checks p)).or (firstRange rs) with
        | some b => s.raiseBad c b
        | none =>
          match rs.findSome? (fun r => r.broken) with
          | some (o, r) => s.freezeEntry c.t.place.part c.t.place.site o c.t.ctl.acting.toNat r
          | none =>
            let x := (s1.core core).mx
            if 4 ≤ (x.queue.filter (fun e => !e.again)).length then s1.stall
            else
              let s2 := s1.settleAtoms c.t.id
              let k := s2.core core
              let e : MEntry := { seq := c.t.seq, keep := rs.any (fun r => r.keep), spans := rs.flatMap (fun r => r.spans),
                                  old := none, word := q.word, args := q.args,
                                  tenant := c.t.ctl.acting.toNat, user := !c.t.sup, prog := 0, stuck := false, again := false }
              (s2.putCore { k with mx := { k.mx with queue := k.mx.queue ++ [e], moved := s2.now } }).commit c (fun t =>
                let t1 := { t with seq := t.seq + 1 }
                match q.fmt with
                | some w => t1.withCtl { t1.ctl with fmt := BitVec.ofNat 32 w }
                | none => t1)

/-- The shape of row 0xC: no hint, no push. -/
def shapeX (op : Nat) (g : Guard) (kb : Fin 32) (n : Nat) : Shape := { op, sel := .guard g, blk := some (kb, n) }

/-- Block arguments as read at issue: the lowest active lane's. -/
def blockArgs (c : Ctx) (n : Nat) : List Word := (List.range n).map (fun i => c.arg1 i)

def boundsBad (b : Bool) : Option MBad := badIf b 1 0x06
def formatBad (b : Bool) : Option MBad := badIf b 1 0x07

/-- `rload` (R153). -/
def execRload (g : Guard) (n : BitVec 6) (kb : Fin 32) (s : State) : Host.Outcome State Fault Refusal :=
  s.runOutsideTx (shapeX 0xC0 g kb 4) (fun s c =>
    let w := (c.arg1 3).toNat
    let b := fwB w
    let cl := fmtClass b
    let kres := (c.arg1 2).toNat
    let nres := 16 * (n.toNat + 1)
    let bytes := kres * elemBits b / 8 + (if trailing w b then kres / 32 else 0)
    s.issueMatrix c
      { word := wordX 0xC0 (encGuard g) 0 n kb 0 0, args := blockArgs c 4, fmt := some w,
        votes := voteBad c (some 3) [1, 2],
        checks := fun _ =>
          [formatBad (!fmtWordOk w),
           boundsBad (kres == 0 || kres % kStep cl != 0 || decide (262144 < kres * nres * cells cl)),
           alignBad c (natAlign b) (c.arg1 0) [c.arg1 1]],
        ranges := fun s => [s.rangeBad c (c.arg1 0) nres (c.arg1 1) 1 0 bytes false] })

/-- The checks and the entry of `mloop` and `mloop.sp` (R154). With no rload in place K_res and N_res are 0 (R139). The
alignment of A is checked at a count of 0 too: DESIGN CHOICE, log 83. -/
def State.mloopIssue (s : State) (c : Ctx) (sparse : Bool) (word : Code) (m n tile : Nat) (acc : Bool) : State :=
  let w := (c.arg1 4).toNat
  let f := fwA w
  let k := kStep (fmtClass f)
  let steps := (c.arg1 3).toNat
  let count := steps % 2 ^ 16
  let first := steps / 2 ^ 16 % 2 ^ 16
  let kind := kindOfAcc (fwAcc w)
  let rs := c.arg1 5
  let out := fwRsum w && rs != 0
  s.issueMatrix c
    { word, args := blockArgs c 6, fmt := some w, votes := voteBad c (some 4) [1, 2, 3],
      checks := fun p =>
        let kres := match p.rl with | some r => r.2.1 | none => 0
        let nres := match p.rl with | some r => r.2.2 | none => 0
        let differs := match p.rl with
          | some r => fwA r.1 != fwA w || fwB r.1 != fwB w || fwBSgn r.1 != fwBSgn w || fwScale r.1 != fwScale w
          | none => false
        [formatBad (!fmtWordOk w), formatBad ((fwSparse w == 1) != sparse), formatBad differs,
         formatBad (acc && p.kinds.getD tile .f32 != kind),
         boundsBad (decide (2 ^ 32 ≤ steps) || first % k != 0),
         boundsBad (decide (kres < first + count * k)), boundsBad (decide (nres < n)),
         boundsBad (decide (8 < tile + spanOf m n kind)),
         alignBad c (natAlign f) (c.arg1 0) [c.arg1 1, c.arg1 2],
         if out then alignBad c 8 rs [] else none],
      ranges := fun s =>
        [s.rangeBad c (c.arg1 0) m (c.arg1 1) count (c.arg1 2) (rowBytes w sparse) false,
         if out then s.rangeBad c rs 1 0 1 0 (8 * m) true else {}] }

def rowsOf : MRows → Nat
  | .m8 => 8
  | .m16 => 16
  | .m32 => 32

/-- `mloop` (R154). -/
def execMloop (g : Guard) (m : MRows) (n : BitVec 6) (kb : Fin 32) (t : Fin 8) (acc : Bool) (s : State) :
    Host.Outcome State Fault Refusal :=
  s.runOutsideTx (shapeX 0xC1 g kb 6) (fun s c =>
    s.mloopIssue c false (wordX 0xC1 (encGuard g) (encMRows m) n kb t ((0 : BitVec 3) ++ encBool acc))
      (rowsOf m) (16 * (n.toNat + 1)) t.val acc)
/-- `mloop.sp` (R148, R154). -/
def execMloopSp (g : Guard) (m : MRows) (n : BitVec 6) (kb : Fin 32) (t : Fin 8) (acc : Bool) (s : State) :
    Host.Outcome State Fault Refusal :=
  s.runOutsideTx (shapeX 0xC2 g kb 6) (fun s c =>
    s.mloopIssue c true (wordX 0xC2 (encGuard g) (encMRows m) n kb t ((0 : BitVec 3) ++ encBool acc))
      (rowsOf m) (16 * (n.toNat + 1)) t.val acc)

/-- `mdrain` (R158). -/
def execMdrain (g : Guard) (m : MRows) (n : BitVec 6) (kb : Fin 32) (t : Fin 8) (sg : Bool) (s : State) :
    Host.Outcome State Fault Refusal :=
  s.runOutsideTx (shapeX 0xC3 g kb 4) (fun s c =>
    let w := (c.arg1 2).toNat
    let range := (c.arg1 3).toNat
    let first := range % 2 ^ 16
    let count := range / 2 ^ 16 % 2 ^ 16
    let cols := 16 * (n.toNat + 1)
    let kind := kindOfAcc (fwAcc w)
    let bytes := (count * elemBits (fwD w) + 7) / 8
    s.issueMatrix c
      { word := wordX 0xC3 (encGuard g) (encMRows m) n kb t ((0 : BitVec 3) ++ encBool sg), args := blockArgs c 4,
        fmt := some w, votes := voteBad c (some 2) [1, 3],
        checks := fun p =>
          [formatBad (!fmtWordOk w), formatBad (!drainOk w), formatBad (p.kinds.getD t.val .f32 != kind),
           boundsBad (decide (2 ^ 32 ≤ range ∨ cols < first + count)),
           boundsBad (decide (8 < t.val + spanOf (rowsOf m) cols kind)),
           boundsBad (fwReq w && (List.range count).any (fun i => !p.cols.contains (first + i))),
           alignBad c (natAlign (fwD w)) (c.arg1 0) [c.arg1 1]],
        ranges := fun s => [s.rangeBad c (c.arg1 0) (rowsOf m) (c.arg1 1) 1 0 bytes true] })

/-- `mzero` (R155). -/
def execMzero (g : Guard) (m : MRows) (n : BitVec 6) (t : Fin 8) (k : TKind) (s : State) :
    Host.Outcome State Fault Refusal :=
  s.runOutsideTx { op := 0xC4, sel := .guard g } (fun s c =>
    s.issueMatrix c
      { word := wordX 0xC4 (encGuard g) (encMRows m) n 0 t ((0 : BitVec 2) ++ encTKind k), args := [],
        checks := fun _ => [boundsBad (decide (8 < t.val + spanOf (rowsOf m) (16 * (n.toNat + 1)) k))] })

/-- `mcol` (R157). -/
def execMcol (g : Guard) (n : BitVec 6) (kb : Fin 32) (s : State) : Host.Outcome State Fault Refusal :=
  s.runOutsideTx (shapeX 0xC5 g kb 1) (fun s c =>
    s.issueMatrix c
      { word := wordX 0xC5 (encGuard g) 0 n kb 0 0, args := blockArgs c 1,
        checks := fun _ => [alignBad c 16 (c.arg1 0) []],
        ranges := fun s => [s.rangeBad c (c.arg1 0) 1 0 1 0 (256 * (n.toNat + 1)) false] })

/-- `mload` (R156). -/
def execMload (g : Guard) (m : MRows) (n : BitVec 6) (kb : Fin 32) (t : Fin 8) (k : TKind) (s : State) :
    Host.Outcome State Fault Refusal :=
  s.runOutsideTx (shapeX 0xC6 g kb 2) (fun s c =>
    let cols := 16 * (n.toNat + 1)
    s.issueMatrix c
      { word := wordX 0xC6 (encGuard g) (encMRows m) n kb t ((0 : BitVec 2) ++ encTKind k), args := blockArgs c 2,
        votes := voteBad c none [1],
        checks := fun _ => [boundsBad (decide (8 < t.val + spanOf (rowsOf m) cols k)),
                            alignBad c (elemSizeOf k) (c.arg1 0) [c.arg1 1]],
        ranges := fun s => [s.rangeBad c (c.arg1 0) (rowsOf m) (c.arg1 1) 1 0 (cols * elemSizeOf k) false] })

/-- `mxfer` (R159). -/
def execMxfer (g : Guard) (m : MRows) (n : BitVec 6) (kb : Fin 32) (t : Fin 8) (o : XferOp) (s : State) :
    Host.Outcome State Fault Refusal :=
  s.runOutsideTx (shapeX 0xC7 g kb 1) (fun s c =>
    let src := (c.arg1 0).toNat
    s.issueMatrix c
      { word := wordX 0xC7 (encGuard g) (encMRows m) n kb t ((0 : BitVec 2) ++ encXfer o), args := blockArgs c 1,
        votes := voteBad c none [0],
        checks := fun p =>
          let k := p.kinds.getD src .f32
          let sp := spanOf (rowsOf m) (16 * (n.toNat + 1)) k
          [boundsBad (decide (7 < src)),
           formatBad (o != .mov && (p.kinds.getD t.val .f32 != k || (o == .adds && k != .i32))),
           boundsBad (decide (8 < src + sp) || decide (8 < t.val + sp))] })

/-- The status of a tile (R160). -/
def Matrix.status (x : Matrix) (tile : Nat) : Word :=
  let w := x.slot tile
  let q := x.queue.filter (fun e => !e.again)
  BitVec.ofNat 64 (q.length * 2 ^ 21 + (if w.fault then 2 ^ 20 else 0) + codeOfKind w.kind * 2 ^ 18 +
    (if w.sat then 2 ^ 17 else 0) + (if q.any (fun e => e.hasTile && e.tile == tile) then 2 ^ 16 else 0) + w.step % 65536)

/-- `mprog` (R160). -/
def execMprog (g : Guard) (t : Fin 8) (clr : Bool) (s : State) : Host.Outcome State Fault Refusal :=
  s.runOutsideTx { op := 0xC8, sel := .guard g, dst := some .drift } (fun s c =>
    match s.raiseDeferred c.t 0xC8 c.act (fun d => d.w.isMatrix) with
    | some s1 => s1
    | none =>
      match s.takeMatrix c with
      | none => s.parkAt c .matrixUnit
      | some s1 =>
        let k := s1.core c.t.coreKey
        let v := k.mx.status t.val
        let s2 := if clr then s1.putCore { k with mx := k.mx.setSlot t.val (fun w => { w with sat := false }) } else s1
        s2.push c (vtab c.t.nlane (fun _ => v)))

/-- Queued instructions that an `mwait` waits for; one that names every instruction waits for an rload that a resume still
repeats too. DEDUCED, log 102. -/
def Matrix.waitedFor (x : Matrix) (tile : Option Nat) : List MEntry :=
  x.queue.filter (fun e => match tile with | some i => !e.again && e.hasTile && e.tile == i | none => true)

/-- `mwait`: the stores of the instructions it waits for take their place here; those to pages that keep a write after
earlier reads stall it for reads of other queued instructions (R151, R161, R186). -/
def execMwait (g : Guard) (t : Fin 8) (rel all : Bool) (s : State) : Host.Outcome State Fault Refusal :=
  s.runOutsideTx { op := 0xC9, sel := .guard g, wf := wfMwait t all } (fun s c =>
    match s.raiseDeferred c.t 0xC9 c.act (fun d => d.w.isMatrix) with
    | some s1 => s1
    | none =>
      match s.takeMatrix c with
      | none => s.parkAt c .matrixUnit
      | some s1 =>
        let which := if all || rel then none else some t.val
        let due (w : MWrite) : Bool := match which with | some i => w.tile == i | none => true
        if !((s1.core c.t.coreKey).mx.waitedFor which).isEmpty then s1.parkAt c (.matrixDone which)
        else if c.t.mwr.any (fun w => due w && s1.mxAhead c.t w.kind) then s1.stall
        else
          let s2 := s1.placeWrites c.t.id due
          if rel then (s2.releaseMatrix c.t).commit c id else s2.commit c id)

/-! ### The sequencer (R150 to R154) -/

/-- What one unit of the head entry leads to. -/
inductive MUnit where
  /-- the state after it, the entry's new progress, complete -/
  | go (s : State) (prog : Nat) (done : Bool)
  | stop (s : State) (r : RunX) (prog : Nat) (wrt : Bool)
deriving DecidableEq, Repr

def MEntry.party (t : Team) (e : MEntry) : Party := { t.party with tenant := e.tenant, user := e.user }

/-- What the team did before a matrix read and must be over when it reads: its loads and atomics that a page kind, the line
or their acquire keeps before it, and before a read of a strong page its strong stores (R151, R186, R188, R197). -/
def State.mxBefore (s : State) (t : Team) (e : MEntry) (kinds : List PageKind) (lines : List Nat) : State :=
  let s1 := s.forceAll t.coreKey ((t.pend.filter (fun p => decide (p.seq < e.seq) && p.lanes.any (fun a =>
    lines.contains (a.addr / 64) || lines.any (fun l => spanHas p.acquire (l * 64)) ||
      kinds.any (fun k => keptAfter p.reads a.kind k)))).map (fun p => Item.pend t.id p.id))
  if kinds.contains .strong then s1.settleEntries t.id (fun f => f.kind == .strong && decide (f.seq < e.seq)) else s1

/-- A byte as a matrix read takes it: what an earlier queued instruction put out, the team's own undrained byte, or
memory's (R150, R151, R169). -/
def State.mxByte (s : State) (core tid a : Nat) : Byte :=
  ((s.team? tid).bind (fun t => t.mwrByte a)).getD (s.forwardByte core tid a)

/-- Reads bytes as loads of the team at the instruction's place in program order (R151): of memory as it stands, or as it stood
when another party's write came to a line that the team had fetched from behind the instruction. -/
def State.mxRead (s : State) (t : Team) (e : MEntry) (a : Word) (n : Nat) : RunX × State × List Byte :=
  match s.xlateRun (e.party t) .read (n / 65536 + 2) a n with
  | .ok ps =>
    match e.old with
    | some m =>
      let byte (a : Nat) : Byte := ((s.team? t.id).bind (fun u => u.mwrByte a)).getD (Mem.get m a)
      (.ok ps, s, ps.flatMap (fun p => (List.range p.2.1).map (fun i => byte (p.1 + i))))
    | none =>
    let lines := ps.flatMap (fun p => linesOf p.1 p.2.1)
    let s0 := s.mxBefore t e (s.kindsOf (e.party t) a n) lines
    let s1 := lines.foldl (fun s l => s.txRead t.id l) s0
    (.ok ps, s1, ps.flatMap (fun p => (List.range p.2.1).map (fun i => s1.mxByte t.coreKey t.id (p.1 + i))))
  | r => (r, s, [])

/-- Puts bytes out, line by line, each by the kind of its page: they are stores of the team at the `mwait` to come (R151). -/
def State.mxWrite (s : State) (t : Team) (e : MEntry) (a : Word) (bs : List Byte) : RunX × State :=
  match s.xlateRun (e.party t) .write (bs.length / 65536 + 2) a bs.length with
  | .ok ps =>
    let kinds := s.kindsOf (e.party t) a bs.length
    let ws := (ps.foldl (fun (acc : List MWrite × List Byte) p =>
      let part := acc.2.take p.2.1
      (acc.1 ++ (linesOf p.1 p.2.1).map (fun l =>
        let lo := max p.1 (l * 64)
        let kind := kinds.getD ((gOfs a % 65536 + (bs.length - acc.2.length) + (lo - p.1)) / 65536) .strong
        { tile := e.tile, addr := lo, kind, repl := p.2.2,
          bytes := (part.drop (lo - p.1)).take (min (p.1 + p.2.1) (l * 64 + 64) - lo) : MWrite }), acc.2.drop p.2.1))
      ([], bs)).1
    (match s.team? t.id with
     | some u => (.ok ps, s.putTeam { u with mwr := u.mwr ++ ws })
     | none => (.ok ps, s))
  | r => (r, s)

/-- Reads a list of runs; stops at the first that cannot be read. -/
def State.mxReadAll (s : State) (t : Team) (e : MEntry) (n : Nat) : List Word → RunX × State × List (List Byte)
  | [] => (.ok [], s, [])
  | a :: r =>
    match s.mxRead t e a n with
    | (.ok _, s1, bs) =>
      (match s1.mxReadAll t e n r with
       | (.ok _, s2, rest) => (.ok [], s2, bs :: rest)
       | x => x)
    | (x, s1, _) => (x, s1, [])

def State.setMx (s : State) (core : Nat) (f : Matrix → Matrix) : State :=
  let c := s.core core
  s.putCore { c with mx := f c.mx }

/-- Adds one group value to the element at an offset (R90 to R92). -/
def accAdd (acc : Nat) (x : Matrix) (tile o : Nat) (v : FV × FV) : Matrix :=
  if acc = 0 then x.setWord32 o (accF32 (x.word32 o) v.1)
  else if acc = 3 then
    let re := accPair (x.word32 o) (x.word32 (o + 4)) v.1
    let im := accPair (x.word32 (o + 8)) (x.word32 (o + 12)) v.2
    (((x.setWord32 o re.1).setWord32 (o + 4) re.2).setWord32 (o + 8) im.1).setWord32 (o + 12) im.2
  else
    let (c, b) := accI32 (acc == 2) (x.word32 o) (FV.over 0 v.1)
    let y := x.setWord32 o c
    if b then y.setSlot tile (fun w => { w with sat := true }) else y

/-- The groups of one element, in ascending K. -/
def accGroups (w : Nat) (tile o gsz : Nat) : Nat → List Elem → List Elem → Matrix → Matrix
  | 0, _, _, x => x
  | n + 1, as_, bs, x =>
    let ga := as_.take gsz
    let gb := bs.take gsz
    let win := window (fmtClass (fwA w))
    let v := if fwAcc w = 3 then groupComplex win ga gb
      else (groupReal (isIntFmt (fwA w)) (isIntFmt (fwB w)) win ga gb, FV.fin false 0 0)
    accGroups w tile o gsz n (as_.drop gsz) (bs.drop gsz) (accAdd (fwAcc w) x tile o v)

/-- One step of `mloop` added to the tile (R154). -/
def stepTile (e : MEntry) (w : Nat) (rows : List (List Elem)) (r : RLoad) (k0 : Nat) (x : Matrix) : Matrix :=
  let cl := fmtClass (fwA w)
  let g := groupOf cl
  let k := kStep cl
  let size := elemSizeOf (kindOfAcc (fwAcc w))
  let cols := (List.range e.n).map (fun n =>
    ((elemValues (fwB w) (fwBSgn w) (r.codes.getD n []) (r.scales.getD n [])).drop k0).take k)
  rows.zipIdx.foldl (fun x (row : List Elem × Nat) =>
    cols.zipIdx.foldl (fun x (col : List Elem × Nat) =>
      accGroups w e.tile (e.tile * 32768 + (row.2 * e.n + col.2) * size) g (k / g) row.1 col.1 x) x) x

/-- The exact sum of a row's integers. -/
def rowSum (r : List Elem) : Word := BitVec.ofInt 64 (r.foldl (fun (v : Int) e => v + FV.over 0 e.re) 0)

/-- One unit of `mloop`: a step, or the end with its row sums (R154). -/
def State.mloopUnit (s : State) (t : Team) (e : MEntry) : MUnit :=
  let core := t.coreKey
  let w := e.num 4
  let sparse := e.op == 0xC2
  let count := e.num 3 % 2 ^ 16
  let first := e.num 3 / 2 ^ 16 % 2 ^ 16
  let kind := kindOfAcc (fwAcc w)
  let out := fwRsum w && e.a 5 != 0
  let start (x : Matrix) : Matrix :=
    if e.prog = 0 then
      (if e.fl % 2 = 0 then x.zeroTile e.tile e.m e.n kind else x).setSlot e.tile (fun v => { v with step := 0 })
    else x
  if e.prog < count then
    let as_ := (List.range e.m).map (fun m =>
      e.a 0 + BitVec.ofNat 64 m * e.a 1 + BitVec.ofNat 64 e.prog * e.a 2)
    match s.mxReadAll t e (rowBytes w sparse) as_ with
    | (.ok _, s1, bs) =>
      let rows := bs.map (rowValues w sparse)
      let k := kStep (fmtClass (fwA w))
      let s2 := s1.setMx core (fun x =>
        let y := match x.rl with
          | some r => stepTile e w rows r (first + e.prog * k) (start x)
          | none => start x
        y.setSlot e.tile (fun v =>
          let v1 := { v with step := e.prog + 1 }
          if fwRsum w then v1.withSums e.m (fun i => v.sum i + rowSum (rows.getD i [])) else v1))
      .go s2 (e.prog + 1) (e.prog + 1 == count && !out)
    | (r, s1, _) => .stop (s1.setMx core start) r e.prog false
  else
    let s1 := s.setMx core start
    if out then
      let v := ((s1.core core).mx.slot e.tile)
      match s1.mxWrite t e (e.a 5) ((List.range e.m).flatMap (fun i => leBytes 8 (v.sum i).toNat)) with
      | (.ok _, s2) => .go s2 e.prog true
      | (r, s2) => .stop s2 r e.prog true
    else .go s1 e.prog true

/-- `rload` whole (R153). -/
def State.rloadUnit (s : State) (t : Team) (e : MEntry) : MUnit :=
  let w := e.num 3
  let b := fwB w
  let kres := e.num 2
  let cb := kres * elemBits b / 8
  let n := cb + (if trailing w b then kres / 32 else 0)
  match s.mxReadAll t e n ((List.range e.n).map (fun i => e.a 0 + BitVec.ofNat 64 i * e.a 1)) with
  | (.ok _, s1, bs) =>
    let r : RLoad :=
      { tenant := e.tenant, user := e.user, src := e.a 0, stride := e.a 1, kres, nres := e.n, fmt := BitVec.ofNat 32 w,
        codes := bs.map (fun x => unpackCodes (x.take cb) (elemBits b) kres),
        scales := bs.map (fun x => (x.drop cb).map (fun y => y.toNat)) }
    .go (s1.setMx t.coreKey (fun x => { x with rl := some r })) 0 true
  | (r, s1, _) => .stop s1 r 0 false

/-- One row of `mload` (R156). -/
def State.mloadUnit (s : State) (t : Team) (e : MEntry) : MUnit :=
  let kind := kindOfCode (e.fl % 4)
  let n := e.n * elemSizeOf kind
  match s.mxRead t e (e.a 0 + BitVec.ofNat 64 e.prog * e.a 1) n with
  | (.ok _, s1, bs) =>
    .go (s1.setMx t.coreKey (fun x =>
      let y := if e.prog = 0 then x.initTile e.tile (spanOf e.m e.n kind) kind else x
      { y with acc := Mem.setBytes y.acc (e.tile * 32768 + e.prog * n) bs })) (e.prog + 1) (e.prog + 1 == e.m)
  | (r, s1, _) => .stop s1 r e.prog false

/-- `mcol` whole (R157). -/
def State.mcolUnit (s : State) (t : Team) (e : MEntry) : MUnit :=
  match s.mxRead t e (e.a 0) (16 * e.n) with
  | (.ok _, s1, bs) =>
    let recs := (List.range e.n).map (fun i => colOfBytes i ((bs.drop (16 * i)).take 16))
    .go (s1.setMx t.coreKey (fun x => { x with cols := recs ++ x.cols.filter (fun r => decide (e.n ≤ r.col)) })) 0 true
  | (r, s1, _) => .stop s1 r 0 false

/-- The output codes of row m of a drain (R158). -/
def drainCodes (x : Matrix) (e : MEntry) : List Nat :=
  let w := e.num 2
  let first := e.num 3 % 2 ^ 16
  let count := e.num 3 / 2 ^ 16 % 2 ^ 16
  let size := elemSizeOf (kindOfAcc (fwAcc w))
  let off (n : Nat) : Nat := e.tile * 32768 + (e.prog * e.n + n) * size
  let int (n : Nat) : Int := (BitVec.ofNat 32 (x.word32 (off n))).toInt
  if fwAcc w = 3 then
    (List.range count).map (fun i =>
      let o := off (first + i)
      let comp (p : Nat) : Nat := satF (FV.add .rn (.decode b32 (x.word32 p)) (.decode b32 (x.word32 (p + 4))))
      comp o + 2 ^ 32 * comp (o + 8))
  else
    match drainFmt (fwD w) (e.fl % 2 == 1) with
    | none => (List.range count).map (fun i => x.word32 (off (first + i)))
    | some f =>
      rnef f (fun n c =>
        if fwReq w then
          let r := (x.cols.find? (fun r => r.col == n)).getD { col := n, mult := 0, shift := 0, zout := 0, bias := 0 }
          FV.add .rn (requant (int n) w ((x.slot e.tile).sum e.prog) r) c
        else FV.add .rn (.decode b32 (x.word32 (off n))) c) first count (.fin false 0 0)

/-- One row of `mdrain` (R158). -/
def State.mdrainUnit (s : State) (t : Team) (e : MEntry) : MUnit :=
  let codes := drainCodes (s.core t.coreKey).mx e
  match s.mxWrite t e (e.a 0 + BitVec.ofNat 64 e.prog * e.a 1) (packCodes codes (elemBits (fwD (e.num 2)))) with
  | (.ok _, s1) => .go s1 (e.prog + 1) (e.prog + 1 == e.m)
  | (r, s1) => .stop s1 r e.prog true

/-- `mxfer` on the tiles (R159). -/
def xferTile (e : MEntry) (x : Matrix) : Matrix :=
  let src := e.num 0
  let k := (x.slot src).kind
  let n := e.m * e.n * elemSizeOf k
  let so := src * 32768
  let d := e.tile * 32768
  let bs := Mem.bytes x.acc so n
  let ss := x.slot src
  if e.fl % 4 = 0 then
    let y := (List.range (spanOf e.m e.n k)).foldl (fun (x : Matrix) i =>
      x.setSlot (e.tile + i) (fun w => { w with kind := k })) { x with acc := Mem.setBytes x.acc d bs }
    y.setSlot e.tile (fun w => { w with sat := ss.sat, rowsum := ss.rowsum })
  else
    let size := elemSizeOf k
    let word (o : Nat) : Nat := leNat ((bs.drop o).take 4)
    let y := (List.range (e.m * e.n)).foldl (fun x i =>
      let o := i * size
      match k with
      | .f32 => accAdd 0 x e.tile (d + o) (.decode b32 (word o), .fin false 0 0)
      | .i32 => accAdd (if e.fl % 4 = 2 then 2 else 1) x e.tile (d + o)
          (ofInt (BitVec.ofNat 32 (word o)).toInt 0, .fin false 0 0)
      | .cf32 =>
        accAdd 3 (accAdd 3 x e.tile (d + o) (.decode b32 (word o), .decode b32 (word (o + 8)))) e.tile (d + o)
          (.decode b32 (word (o + 4)), .decode b32 (word (o + 12)))) x
    y.setSlot e.tile (fun w =>
      { (w.withSums 32 (fun i => w.sum i + ss.sum i)) with sat := w.sat || (e.fl % 4 == 2 && ss.sat) })

/-- One unit of an entry. -/
def State.mxUnit (s : State) (t : Team) (e : MEntry) : MUnit :=
  match e.op with
  | 0xC0 => s.rloadUnit t e
  | 0xC1 => s.mloopUnit t e
  | 0xC2 => s.mloopUnit t e
  | 0xC3 => s.mdrainUnit t e
  | 0xC4 => .go (s.setMx t.coreKey (fun x => x.zeroTile e.tile e.m e.n (kindOfCode (e.fl % 4)))) 0 true
  | 0xC5 => s.mcolUnit t e
  | 0xC6 => s.mloadUnit t e
  | _ => .go (s.setMx t.coreKey (xferTile e)) 0 true

/-- The head entry after a unit. -/
def Matrix.head (x : Matrix) (f : MEntry → Option MEntry) : Matrix :=
  match x.queue with
  | [] => x
  | e :: r => { x with queue := (f e).toList ++ r }

/-- Parks the holder when it runs while its head entry waits for a page (R152). -/
def State.parkOnHead (s : State) (tid : Nat) : State :=
  match s.team? tid with
  | none => s
  | some t =>
    match t.status, (s.matrixAll t).head? with
    | .running, some e => if e.stuck then s.park t .matrixFault else s
    | _, _ => s

/-- The sequencer of a core makes one unit of progress on its head entry (R150, R152). -/
def execMatrixSequencerProgress (core : Nat) (s : State) : Host.Outcome State Fault Refusal :=
  let x := (s.core core).mx
  match x.queue, x.holder.bind (fun h => s.team? h) with
  | e :: _, some t =>
    if e.stuck ∨ !s.live (coreSite core) then .next s
    else
      match s.mxUnit t e with
      | .go s1 prog done =>
        let s2 := s1.setMx core (fun x => x.head (fun e => if done then none else some { e with prog }))
        .next (s2.setMx core (fun x => { x with moved := s.now }))
      | .stop s1 r prog wrt =>
        match r with
        | .ok _ => .next s1
        | .fault a l =>
          let (_, s2) := s1.pageFault (coreSite core) e.tenant (gOfs a / 65536) wrt false false l a (.sequencer core)
          .next ((s2.setMx core (fun x => x.head (fun e => some { e with prog, stuck := true }))).parkOnHead t.id)
        | .broken o n => .next (s1.freezeEntry t.place.part (coreSite core) o e.tenant n)
        | .bad a =>
          let s2 := s1.setMx core (fun x =>
            let y := { x with queue := [] }
            if e.hasTile then y.setSlot e.tile (fun w => { w with fault := true }) else y)
          match s2.team? t.id with
          | none => .next s2
          | some u => .next (s2.putTeam { u with deferred := u.deferred ++
              [{ w := .matrix (if e.hasTile then some e.tile else none), cls := 4, code := 0x03, op := e.op, lane := 0, addr := a, pidx := prog, aux := 0 }] })
  | _, _ => .next s

end Sys2Proof.Machine
end

