-- ==== Sys2Proof/Machine/Launch.lean ====
section
/-! DEFINITION. From a host's write to an eligible launch: kernel headers and launch records (R24 to R29), host queues
(R278 to R281), acceptance and the journal (R282 to R285), and the teams of an eligible launch (R14, R286). -/

namespace Sys2Proof.Machine

/-! ### Headers and records (R24 to R26) -/

def byteAt (b : List Byte) (i : Nat) : Nat := (b.getD i 0).toNat
def numAt (b : List Byte) (i n : Nat) : Nat := leNat ((b.drop i).take n)
def wordAt (b : List Byte) (i : Nat) : Word := BitVec.ofNat 64 (numAt b i 8)

/-- The first offset from lo on, below hi, that holds a byte other than 0. -/
def firstNonZero (b : List Byte) (lo hi : Nat) : Option Nat :=
  ((List.range hi).filter (fun i => lo ≤ i)).find? (fun i => byteAt b i != 0)

/-- The fields of a header's 64 bytes. -/
def parseHeader (addr : Word) (b : List Byte) : Header :=
  let f := byteAt b 0x0D
  { addr, entry := wordAt b 0, lanes := numAt b 8 2, kregs := byteAt b 0x0A, qdepth := byteAt b 0x0B,
    priority := byteAt b 0x0C, spawnable := f % 2 = 1, usesTx := f / 2 % 2 = 1, gang := f / 4 % 2 = 1,
    supervisor := f / 8 % 2 = 1, bintimer := numAt b 0x0E 2, scratch := numAt b 0x10 4, gangteams := numAt b 0x14 2,
    gangspan := byteAt b 0x16 }

/-- The first offending byte of a header (R24, R25, R288): sup says that the source may start supervisor headers,
gang gives the teams and sites that a gang must state. -/
def headerBad (addr : Word) (b : List Byte) (sup : Bool) (gang : Option (Nat × Nat)) : Option Nat :=
  let h := parseHeader addr b
  if (addr + h.entry).toNat % 4 ≠ 0 then some 0x00
  else if h.lanes = 0 ∨ 1024 < h.lanes then some 0x08
  else if 32 < h.kregs then some 0x0A
  else if 32 < h.qdepth then some 0x0B
  else if 3 < h.priority then some 0x0C
  else if 16 ≤ byteAt b 0x0D ∨ (h.supervisor ∧ !sup) then some 0x0D
  else if h.gang != (h.gangteams != 0) then some 0x14
  else if h.gang && (match gang with | some g => h.gangteams != g.1 | none => false) then some 0x14
  else if h.gang != (h.gangspan != 0) ∨ 64 < h.gangspan then some 0x16
  else if h.gang && (match gang with | some g => h.gangspan != g.2 | none => false) then some 0x16
  else firstNonZero b 0x17 0x40

/-- Register rows of a team (R15). -/
def Header.rows (h : Header) : Nat :=
  let up4 (n : Nat) : Nat := (n + 3) / 4 * 4
  (h.lanes + 31) / 32 * (16 + up4 h.kregs + up4 h.qdepth)
/-- Scratch bytes of a team, in granules of 256 (R24). -/
def Header.scratchBytes (h : Header) : Nat := (h.scratch + 255) / 256 * 256

/-- The header fits an empty core (R18). -/
def Header.fits (h : Header) (reserved : Nat) : Bool :=
  decide (h.rows + reserved ≤ Config.rowsPerCore) && decide (h.scratch ≤ Config.scratchPerCore)

/-- Teams of this header that an empty core holds at once. -/
def Header.perCore (h : Header) (reserved : Nat) : Nat :=
  let byRows := (Config.rowsPerCore - reserved) / h.rows
  let byScratch := if h.scratchBytes = 0 then Config.slotsPerCore else Config.scratchPerCore / h.scratchBytes
  min Config.slotsPerCore (min byRows byScratch)

/-- The fields of a record's 64 bytes (R26). -/
def parseRecord (b : List Byte) : LRecord :=
  { header := wordAt b 0, teamspc := numAt b 8 2, clustersps := byteAt b 0x0A, sites := byteAt b 0x0B,
    firstsite := numAt b 0x0C 4, args := wordAt b 0x10,
    deps := [wordAt b 0x18, wordAt b 0x20, wordAt b 0x28, wordAt b 0x30], comp := wordAt b 0x38 }

/-- The first offending byte of a record, its header address aside. -/
def recordBad (r : LRecord) : Option Nat :=
  if r.teamspc = 0 then some 0x08
  else if r.clustersps = 0 ∨ 4 < r.clustersps then some 0x0A
  else if r.sites = 0 ∨ 64 < r.sites then some 0x0B
  else match (List.range 4).find? (fun i => (r.deps.getD i 0).toNat % 16 != 0) with
    | some i => some (0x18 + 8 * i)
    | none => if r.comp.toNat % 16 ≠ 0 then some 0x38 else none

/-- The status word of a launch (R27). -/
def statusWord (code : Nat) (which : Nat := 0) (offset : Nat := 0) : Word :=
  BitVec.ofNat 64 (which * 2 ^ 16 + offset * 2 ^ 8 + code)

/-- What a read of a tenant's bytes leads to. -/
inductive TenantRead where
  | ok (s : State) (b : List Byte)
  | unreadable
  | broken (site ofs rule : Nat)
deriving DecidableEq, Repr

/-- n bytes that a tenant may read, anywhere in its domain (R26); a table entry that breaks a rule is no answer (R172).
A mapped site that does not answer (frozen, in reset, of another incarnation or domain) cannot be read: DESIGN CHOICE,
log 94. -/
def State.readTenant (s : State) (p : Party) (a : Word) (n : Nat) : TenantRead :=
  match s.reach p a with
  | .unmapped => .unreadable
  | .at_ k inc =>
    if k ≠ p.site && !s.accepts p.site k inc then .unreadable
    else match s.checkWord (p.away k a) a 64 .read with
      | .ok phys _ => let (s1, b) := s.readPieces [(phys, n, [])]; .ok s1 b
      | .broken o r => .broken k o r
      | _ => .unreadable

/-! ### Completion (R27, R29) -/

/-- The scheduler's fill of a completion cell. -/
def State.complete (s : State) (part tenant : Nat) (sup : Bool) (cell value : Word) : State :=
  match s.part? part with
  | none => s
  | some p =>
    if cell = 0 then s
    else
      let (id, s1) := s.fresh
      { s1 with fills := s1.fills ++
        [{ id, site := s.partHome p, tenant, user := !sup, target := cell, value, kind := 0, evFull := 0x01,
           evBad := 0x06, part, waiting := false }] }

/-! ### Acceptance (R26, R282) -/

/-- What the two passes of checks answer. -/
inductive Verdict where
  | malformed (which offset : Nat)
  | unplaceable
  | fine (h : Header)
  /-- the header's table entry breaks a rule -/
  | broken (site ofs rule : Nat)
deriving DecidableEq, Repr

/-- The sites that a record names. -/
def launchSites (p : Partition) (r : LRecord) : List Nat := (p.sites.drop r.firstsite).take r.sites

/-- A cluster holds its share of a launch when its cores that are not fenced are empty: for a gang all the teams together, else one
(R288, R368). -/
def State.holds (s : State) (p : Partition) (h : Header) (r : LRecord) (site cluster : Nat) : Bool :=
  let cores := (List.range Config.coresPerCluster).filter (fun n => !(s.site site).fenced.contains (cluster * 64 + n))
  decide ((if h.gang then r.teamspc else 1) ≤ h.perCore p.reserved * cores.length)
/-- The clusters of a site that hold it. -/
def State.clustersFor (s : State) (p : Partition) (h : Header) (r : LRecord) (site : Nat) : List Nat :=
  (List.range Config.clustersPerSite).filter (s.holds p h r site)

/-- Checks a record and its header. -/
def State.checkLaunch (s : State) (p : Partition) (i : Intake) : State × Verdict :=
  let r := parseRecord i.bytes
  let party := s.partyAt (s.partHome p) i.tenant (!i.sup)
  if i.bad then (s, .malformed 0 0x00)
  else match s.readTenant party r.header 64 with
    | .unreadable => (s, .malformed 0 0x00)
    | .broken k o n => (s, .broken k o n)
    | .ok s1 b =>
      match recordBad r with
      | some o => (s1, .malformed 0 o)
      | none =>
        match headerBad r.header b i.sup (some (r.teamspc * r.clustersps * r.sites, r.sites)) with
        | some o => (s1, .malformed 1 o)
        | none =>
          let h := parseHeader r.header b
          if p.sites.length < r.firstsite + r.sites then (s1, .unplaceable)
          else if !h.fits p.reserved then (s1, .unplaceable)
          else if h.gang && (launchSites p r).any (fun k => decide ((s.clustersFor p h r k).length < r.clustersps)) then
            (s1, .unplaceable)
          else (s1, .fine h)

/-- Takes a record in: it leaves its queue, and its status is filled at once, or it enters the journal and its dependence
cells are examined (R27, R282, R283). A broken table entry freezes the partition, and the record stays (R172). -/
def State.accept (s : State) (part : Nat) (i : Intake) (take : State → State) : State :=
  match s.part? part with
  | none => s
  | some p =>
    let r := parseRecord i.bytes
    match s.checkLaunch p i with
    | (s1, .broken k o n) => s1.freezeEntry (s1.partOf k) k o i.tenant n
    | (s1, .malformed w o) => (take s1).complete part i.tenant i.sup r.comp (statusWord 1 w o)
    | (s1, .unplaceable) => (take s1).complete part i.tenant i.sup r.comp (statusWord 2)
    | (s0, .fine h) =>
      let s1 := take s0
      match s1.part? part with
      | none => s1
      | some q =>
        let e : JEntry :=
          { launch := q.nextLaunch, tenant := i.tenant, lrec := r, hdr := h,
            state := if r.deps.all (fun d => d == 0) then JState.eligible else JState.waiting,
            replicas := q.replicas, depsFull := [], bad := false, clusters := [], nextTeam := [], exported := [], fails := 0,
            backoff := none, granted := [], committed := false }
        let s2 := s1.putPart { q with nextLaunch := q.nextLaunch + 1, journal := q.journal ++ [e] }
        (List.range 4).foldl (fun s c => s.examineDep part e.launch c) s2

/-! ### Host queues (R278 to R281) -/

def HostQueue.on (q : HostQueue) : Bool := q.cfg.getLsbD 31
def HostQueue.sup (q : HostQueue) : Bool := q.cfg.getLsbD 30
def HostQueue.log2n (q : HostQueue) : Nat := (q.cfg.extractLsb' 26 4).toNat
def HostQueue.legal (q : HostQueue) : Bool := decide (4 ≤ q.log2n) && decide (q.log2n ≤ 12)
def HostQueue.n (q : HostQueue) : Nat := 2 ^ q.log2n

def State.hq (s : State) (site q : Nat) : HostQueue := (s.site site).hq.getD q {}
def State.putHq (s : State) (site i : Nat) (q : HostQueue) : State :=
  let x := s.site site
  s.putSite { x with hq := setAt {} x.hq i q }

/-- seq(i) (R279). -/
def HostQueue.seq (q : HostQueue) (i : Nat) : Nat := i / q.n % 255 + 1
/-- Physical address of entry i. -/
def HostQueue.entryAt (q : HostQueue) (site i : Nat) : Nat :=
  siteBase site + (q.cfg.extractLsb' 0 25).toNat * 4096 + i % q.n * 128

/-- Reads a chunk of entry i, when its sequence byte matches; a transaction that has written there aborts first (R238). -/
def State.chunk (s : State) (site : Nat) (q : HostQueue) (i c : Nat) : State × Option (List Byte) :=
  let (s1, b) := s.readPieces [(q.entryAt site i + 64 * c, 64, [])]
  (s1, if byteAt b 0 = q.seq i then some b else none)
/-- A chunk that has not been read yet. -/
def State.chunkUnless (s : State) (site : Nat) (q : HostQueue) (i c : Nat) (got : Option (List Byte)) : State × Option (List Byte) :=
  match got with
  | some b => (s, some b)
  | none => s.chunk site q i c

/-- Both chunks are in: the record goes to be accepted. -/
def State.takeEntry (s : State) (site qn : Nat) (c0 c1 : List Byte) : State :=
  let q := s.hq site qn
  match (s.site site).part.bind s.part? with
  | none => s
  | some p =>
    let bad := (firstNonZero c0 1 8).isSome || (firstNonZero c1 1 8).isSome || (firstNonZero c1 16 64).isSome
    let i : Intake :=
      { bytes := c0.drop 8 ++ (c1.drop 8).take 8, tenant := q.tenant, sup := q.sup, bad, src := some (site, qn),
        since := s.now }
    State.putPart s { p with intake := p.intake ++ [i] }

/-- Fetches the entry at the head, when there is one and none of the queue is under way, at a site that works (R280, R281,
R385). -/
def State.fetchEntry (s : State) (site qn : Nat) : State :=
  let q := s.hq site qn
  let busy := match (s.site site).part.bind s.part? with
    | none => true
    | some p => p.intake.any (fun i => i.src == some (site, qn))
  if !s.live site || !q.on || !q.legal || q.head == q.tail || q.refetch.isSome || busy then s
  else
    let i := q.head.toNat
    let (s1, c0) := s.chunk site q i 0
    let (s2, c1) := s1.chunk site q i 1
    match c0, c1 with
    | some a, some b => s2.takeEntry site qn a b
    | a, b => s2.putHq site qn { q with
        refetch := some { entry := i, retries := 0, next := s.now + 250 * Config.ticksPerNs, got0 := a, got1 := b } }

/-- The head moves past an entry that is over, and the next one is fetched, at a site that works (R385). -/
def State.passHead (s : State) (site qn : Nat) : State :=
  let q := s.hq site qn
  if !s.live site then s
  else (s.putHq site qn { q with head := q.head + 1, refetch := none }).fetchEntry site qn

/-- A notify of the host (R280); tenant names whose queue it is. -/
def State.notify (s : State) (site : Nat) (v : Word) (tenant : Nat) : State :=
  let qn := (v.extractLsb' 32 16).toNat
  let q := s.hq site qn
  let t := v.extractLsb' 0 32
  if !hostPort site ∨ 16 ≤ qn ∨ v.extractLsb' 48 16 ≠ 0 ∨ !q.on ∨ !q.legal ∨ q.n < (t - q.head).toNat then s
  else (s.putHq site qn { q with tail := t, tenant }).fetchEntry site qn

/-- A chunk is fetched again, until it matches or 64 more fetches have failed (R281). -/
def State.refetch (s : State) (site qn : Nat) : State :=
  let q := s.hq site qn
  match q.refetch with
  | none => s
  | some r =>
    if s.now < r.next then s
    else
      let (s1, a) := s.chunkUnless site q r.entry 0 r.got0
      let (s2, b) := s1.chunkUnless site q r.entry 1 r.got1
      match a, b with
      | some x, some y => (s2.putHq site qn { q with refetch := none }).takeEntry site qn x y
      | _, _ =>
        if r.retries + 1 < 64 then
          s2.putHq site qn { q with
            refetch := some { r with retries := r.retries + 1, next := r.next + 250 * Config.ticksPerNs, got0 := a,
                                     got1 := b } }
        else
          -- torn
          let torn := (q.torn.extractLsb' 32 32 + 1) ++ BitVec.ofNat 32 r.entry
          let s3 := s2.putHq site qn { q with torn := torn, refetch := none }
          let s4 := match b with
            | some y => s3.complete (s3.partOf site) q.tenant q.sup (wordAt y 8) (statusWord 3)
            | none => s3
          s4.passHead site qn

/-- The host writes a notify (R280). A frozen site holds it until its release (R364); one in reset or without power drops it
(R388). -/
def execHostNotify (site : Nat) (value : Word) (tenant : Nat) (s : State) : Host.Outcome State Fault Refusal :=
  let x := s.site site
  if s.live site then .next (s.notify site value tenant)
  else if x.frozen ∧ x.mgmt.powered ∧ !x.mgmt.inReset then .next (s.putSite { x with heldNotes := x.heldNotes ++ [(value, tenant)] })
  else .next s

/-- A chunk is fetched again (R281). -/
def execChunkRefetch (site q : Nat) (s : State) : Host.Outcome State Fault Refusal :=
  if s.live site then .next (s.refetch site q) else .next s

/-- The first record that waits is accepted, malformed or unplaceable (R282). -/
def execLaunchAccept (part : Nat) (s : State) : Host.Outcome State Fault Refusal :=
  match s.part? part with
  | none => .next s
  | some p =>
    match p.intake with
    | [] => .next s
    | i :: rest =>
      if p.works ∧ s.live (s.partHome p) then
        .next (s.accept part i (fun s =>
          let s1 := match s.part? part with | some q => s.putPart { q with intake := rest } | none => s
          match i.src with
          | some (k, q) => s1.passHead k q
          | none => s1))
      else .next s

/-- A record leaves the device launch queue (R293). -/
def execDeviceLaunchQueueDrain (part : Nat) (s : State) : Host.Outcome State Fault Refusal :=
  match s.part? part with
  | none => .next s
  | some p =>
    match p.dlq with
    | [] => .next s
    | r :: rest =>
      if p.works ∧ s.live (s.partHome p) then
        .next (s.accept part
          { bytes := r.bytes, tenant := r.tenant, sup := r.sup, bad := false, src := none, since := s.now }
          (fun s => match s.part? part with
            | some q => s.putPart { q with dlq := rest, dlqMoved := s.now }
            | none => s))
      else .next s

/-! ### The teams of an eligible launch (R14, R285, R286) -/

/-- Picks n of the values left, each choice a free value. -/
def pickFree (seed : Nat) : Nat → List Nat → List Nat
  | 0, _ => []
  | n + 1, l =>
    if l.isEmpty then []
    else
      let x := l.getD (Config.freeNat (seed + n) % l.length) 0
      x :: pickFree seed n (l.filter (fun y => y != x))

/-- A team that waits for admission. -/
def waitingTeam (id site part lsite cluster number launch now tenant : Nat) (h : Header) (args : Word) : Team :=
  { id, status := .waiting now false none, hdr := h,
    place := { site, part, lsite, cluster, team := number, launch },
    regs := { s := args :: List.replicate 7 0 },
    ctl := { home := BitVec.ofNat 16 tenant, acting := BitVec.ofNat 16 tenant, live := Mask.low h.lanes } }

/-- The teams of an eligible launch begin to wait; the scheduler chooses their clusters. -/
def State.openLaunch (s : State) (p : Partition) (e : JEntry) : State :=
  let chosen := (launchSites p e.lrec).flatMap (fun k =>
    (pickFree (s.draw 12 ((e.launch * 2 ^ 28 + k) * 4)) e.lrec.clustersps (s.clustersFor p e.hdr e.lrec k)).map (fun c => (k, c)))
  let seats := chosen.flatMap (fun kc => (List.range e.lrec.teamspc).map (fun n => (kc.1, kc.2, n)))
  let teams := seats.zipIdx.map (fun x =>
    waitingTeam (s.uid + x.2) x.1.1 p.id (s.site x.1.1).lsite x.1.2.1 x.1.2.2 e.launch s.now e.tenant e.hdr e.lrec.args)
  let e1 := { e with clusters := chosen, nextTeam := chosen.map (fun kc => (kc.1 * 4 + kc.2, e.lrec.teamspc)) }
  let s1 := { s with teams := s.teams ++ teams, uid := s.uid + teams.length }
  s1.putPart { p with journal := p.journal.map (fun f => if f.launch == e.launch then e1 else f) }


/-- The partition of a launch and its journal entry. -/
def State.journal? (s : State) (part launch : Nat) : Option (Partition × JEntry) :=
  match s.part? part with
  | none => none
  | some p => (p.journal.find? (fun e => e.launch == launch)).map (fun e => (p, e))

def State.putJournal (s : State) (part : Nat) (e : JEntry) : State :=
  match s.part? part with
  | none => s
  | some p => s.putPart { p with journal := p.journal.map (fun f => if f.launch == e.launch then e else f) }

/-- Every non-zero dependence cell has been seen full. -/
def JEntry.ready (e : JEntry) : Bool := e.lrec.deps.zipIdx.all (fun d => d.1 == 0 || e.depsFull.contains d.2)

/-- A launch can still start: every site that it names belongs to its partition and has power, and its clusters, or enough of them
when none is chosen yet, hold their share. -/
def State.canStart (s : State) (p : Partition) (e : JEntry) : Bool :=
  (launchSites p e.lrec).all (fun k => (s.site k).part == some p.id && (s.site k).mgmt.powered &&
    (e.clusters ≠ [] || decide (e.lrec.clustersps ≤ (s.clustersFor p e.hdr e.lrec k).length))) &&
  e.clusters.all (fun kc => s.holds p e.hdr e.lrec kc.1 kc.2)

/-- One entry of a partition that works: a waiting one fails or becomes eligible, and an eligible one opens (R283). An eligible one
that lost a site, or on whose clusters too much is fenced, can never be done, and fails (R284). DEDUCED, log 113. -/
def State.openEntry (s : State) (part : Nat) (e : JEntry) : State :=
  if e.state = .waiting ∧ e.bad then s.failLaunch part e.launch
  else
    let e1 := if e.state = .waiting ∧ e.ready then { e with state := .eligible } else e
    match s.part? part with
    | none => s
    | some q =>
      if e1.state ≠ .eligible then s
      else if !s.canStart q e1 then s.failLaunch part e.launch
      else if e1.clusters = [] then s.openLaunch q e1
      else s

/-- Entries change their state, and eligible launches open, while both replicas of the journal stand (R283). -/
def State.openLaunches (s : State) : State :=
  s.parts.foldl (fun s p => if p.works then p.journal.foldl (fun s e => s.openEntry p.id e) s else s) s

end Sys2Proof.Machine
end

