-- ==== Sys2Proof/Machine/Schedule.lean ====
section
/-! DEFINITION. Row 0xD's spawn, launch and yield, and the scheduler's steps: room on a core (R15, R18, R287),
admission and aging (R285, R286), gangs (R288 to R290), spawn bins (R291, R292), the device launch queue (R293). -/

namespace Sys2Proof.Machine

/-! ### Room on a core (R15, R18, R286, R287, R339, R344) -/

/-- The team holds a slot, its rows and its scratch. -/
def Team.resident (t : Team) : Bool :=
  match t.status with
  | .running => true
  | .reserved _ => true
  | .parked .. => true
  | .retiring => true
  | .waiting .. => false
  | .halted .. => false
  | .exported .. => false
  | .retired => false

def Team.isHalted (t : Team) : Bool := match t.status with | .halted .. => true | _ => false
def Team.isWaiting (t : Team) : Bool := match t.status with | .waiting .. => true | _ => false
def Team.isAged (t : Team) : Bool := match t.status with | .waiting _ a _ => a | _ => false
def Team.target (t : Team) : Option Nat := match t.status with | .waiting _ _ c => c | _ => none
def Team.isReserved (t : Team) : Bool := match t.status with | .reserved _ => true | _ => false
def Team.isParked (t : Team) : Bool := match t.status with | .parked .. => true | _ => false

/-- Where row i of an allocation stands in the register file. -/
def Team.rowAt (u : Team) (i : Nat) : Nat := u.place.rowBase + i - u.place.rowSkip

/-- The rows of an allocation that stand in the register file. -/
def Team.inPlace (u : Team) : List Nat :=
  (List.range u.hdr.rows).filter (fun i => !u.place.thawed.any (fun x => x.1 == i))

/-- The runs of rows that a team holds in the register file, as (first, count): a resident team's, and what has not thawed of
a halted team's (R287, R344). -/
def Team.rowRuns (u : Team) : List (Nat × Nat) :=
  if u.resident || (u.isHalted && u.place.thawed.isEmpty) then [(u.place.rowBase, u.hdr.rows)]
  else if u.isHalted then u.inPlace.map (fun i => (u.rowAt i, 1))
  else []

/-- The same, with the rows that a team cannot have because its own tenant's save area is in use there: where another of its
tenant's teams has thawed, whose rows come back from the save area (R344, R345). The rows of a team that was written out
for its children are free for them (R293). -/
def Team.keptFrom (u t : Team) : List (Nat × Nat) :=
  u.rowRuns ++ (if u.isHalted && u.ctl.home == t.ctl.home && !u.aheadOfEquals then u.place.thawed.map (fun x => (x.2, 1)) else [])

/-- Teams that stand on a core, the one asked about left out. -/
def State.onCore (s : State) (core except : Nat) : List Team :=
  s.teams.filter (fun u => u.coreKey == core && u.id != except && (u.resident || u.isHalted))

/-- Places where n units below hi meet none of the runs: 0 and the ends of runs. -/
def freePlaces (hi n : Nat) (runs : List (Nat × Nat)) : List Nat :=
  (0 :: runs.map (fun r => r.1 + r.2)).filter (fun b => decide (b + n ≤ hi) && runs.all (fun r => !overlaps b n r.1 r.2))

/-- The lowest place of n units below hi that meets none of the runs. -/
def firstFit (hi n : Nat) (runs : List (Nat × Nat)) : Option Nat :=
  (freePlaces hi n runs).foldl (fun m b => match m with
    | none => some b
    | some x => some (min x b)) none

/-- Rows of the partition's teams on each core. -/
def State.rowLimit (s : State) (part : Nat) : Nat :=
  Config.rowsPerCore - (match s.part? part with | some p => p.reserved | none => 0)

/-- What a team's allocation cannot have: a resident team's, and what its own tenant's halted teams left. What another
tenant's halted team left counts as free (R287, R344). -/
def Team.denies (u t : Team) : Bool := u.resident || u.ctl.home == t.ctl.home

/-- A place among runs: one that is free of everything, else one that is free of what a thaw cannot clear. -/
def fitTwice (hi n : Nat) (all denied : List (Nat × Nat)) : Option Nat :=
  (firstFit hi n all).orElse (fun _ => firstFit hi n denied)

/-- Rows in place of a halted team that cannot thaw, because the save area holds those of another team of its tenant at their
indices (R293, R344). -/
def State.stuckRows (s : State) (u : Team) : List (Nat × Nat) :=
  if u.isHalted then
    (u.inPlace.map u.rowAt).filterMap (fun r =>
      if (s.onCore u.coreKey u.id).any (fun v => v.isHalted && v.ctl.home == u.ctl.home && v.place.thawed.any (fun x => x.2 == r))
      then some (r, 1) else none)
  else []

/-- What an allocation of a team on a core must keep clear of, thaws made for it. -/
def State.denied (s : State) (t : Team) (here : List Team) : List (Nat × Nat) :=
  here.flatMap (fun u => if u.denies t then u.keptFrom t else s.stuckRows u)

def State.findRows (s : State) (core : Nat) (t : Team) : Option Nat :=
  let here := s.onCore core t.id
  fitTwice (s.rowLimit t.place.part) t.hdr.rows (here.flatMap (fun u => u.keptFrom t)) (s.denied t here)

/-- Where a team's scratch bytes stand. -/
def Team.scratchRun (u : Team) : Nat × Nat := (u.place.scratchBase, u.hdr.scratchBytes)

/-- Scratch: as rows. Offsets that a tenant's own team will come back to stay its own (R345). -/
def State.findScratch (s : State) (core : Nat) (t : Team) : Option Nat :=
  let here := s.onCore core t.id
  fitTwice Config.scratchPerCore t.hdr.scratchBytes
    ((here.filter (fun u => u.denies t || !u.place.scratchThawed)).map Team.scratchRun)
    ((here.filter (fun u => u.denies t)).map Team.scratchRun)

/-- Free slots. The slot of a halted team is kept from its own tenant: its record stands in the save area (R344). -/
def State.freeSlots (s : State) (core : Nat) (t : Team) : List Nat :=
  (List.range Config.slotsPerCore).filter (fun i =>
    (s.onCore core t.id).all (fun u => u.place.slot != i || (!u.resident && u.ctl.home != t.ctl.home)))

/-- It is the tenant's slice on a site (R340). -/
def State.sliceOf (s : State) (site : Nat) (home : BitVec 16) : Bool :=
  match (s.site site).slice with
  | none => true
  | some t => t == home

/-- Rows of a halted team that stand in one of the runs. -/
def Team.rowsIn (u : Team) (runs : List (Nat × Nat)) : List Nat :=
  u.inPlace.filter (fun i => runs.any (fun b => decide (b.1 ≤ u.rowAt i) && decide (u.rowAt i < b.1 + b.2)))

/-- Its scratch bytes stand in the run. -/
def Team.scratchIn (u : Team) (run : Nat × Nat) : Bool :=
  !u.place.scratchThawed && overlaps u.place.scratchBase u.hdr.scratchBytes run.1 run.2

/-- The thaw in progress on a core: halted teams have rows or scratch there that it has still to write out. It goes on though the
slice that it was begun in ends (R346). -/
def State.thawing (s : State) (core : Nat) : Option Thaw :=
  (s.core core).thaw.bind (fun h =>
    if (s.onCore core h.team).any (fun u => h.owners.contains u.id && u.isHalted && (!(u.rowsIn h.rows).isEmpty || u.scratchIn h.scratch))
    then some h else none)

/-- The thaw on a core, begun or over, whose room a team still waits to take in its tenant's slice. -/
def State.thawOn (s : State) (core : Nat) : Option Thaw :=
  (s.core core).thaw.bind (fun h => (s.team? h.team).bind (fun t =>
    if (t.isWaiting && s.sliceOf (coreSite core) t.ctl.home) ||
       (t.isHalted && t.coreKey == core && s.sliceOf (coreSite core) t.ctl.home) ||
       (match t.status with | .exported _ => true | _ => false)
    then some h else none))

/-- Thawing and allocation are serialised per core: while rows thaw for one team, and until it has taken them in its slice, no other
takes a place there (R346). -/
def State.thawsForOther (s : State) (core team : Nat) : Bool :=
  match (s.thawing core).orElse (fun _ => s.thawOn core) with
  | some h => h.team != team
  | none => false

/-! ### Moving rows (R287) -/

/-- The runs that a rising list of numbers makes. -/
def runsIn (l : List Nat) : List (Nat × Nat) :=
  (l.foldl (fun acc i => match acc with
    | (a, n) :: r => if a + n = i then (a, n + 1) :: r else (i, 1) :: acc
    | [] => [(i, 1)]) []).reverse

/-- Rows that a move may shift: those of parked and halted teams, what stands in place of them keeping its shape. -/
def Team.movable (u : Team) : Bool := u.isParked || (u.isHalted && !u.inPlace.isEmpty)
def Team.shape (u : Team) : List (Nat × Nat) := runsIn (u.inPlace.map (fun i => i - u.inPlace.headD 0))

/-- A shape as it stands from row b on. -/
def shapeAt (b : Nat) (shape : List (Nat × Nat)) : List (Nat × Nat) := shape.map (fun h => (b + h.1, h.2))
/-- Places where a shape below hi meets none of the runs: 0, and where a run of it begins at the end of one. -/
def shapePlaces (hi : Nat) (shape runs : List (Nat × Nat)) : List Nat :=
  (0 :: runs.flatMap (fun r => shape.map (fun h => r.1 + r.2 - h.1))).filter (fun b =>
    (shapeAt b shape).all (fun h => decide (h.1 + h.2 ≤ hi) && runs.all (fun r => !overlaps h.1 h.2 r.1 r.2)))

/-- Places shapes, each named by a team, one after another around what stands; every order of places is tried. -/
def packRows (hi : Nat) : List (Nat × List (Nat × Nat)) → List (Nat × Nat) → Option (List (Nat × Nat))
  | [], _ => some []
  | (id, shape) :: r, runs =>
    (shapePlaces hi shape runs).findSome? (fun b => (packRows hi r (shapeAt b shape ++ runs)).map (fun l => (id, b) :: l))

/-- A place for n rows of a team on a core, with a place for every team that a move may shift. With `clear`, what other
tenants' halted teams left counts as free (R287). -/
def State.packing (s : State) (core : Nat) (t : Team) (n : Nat) (clear : Bool) : Option (List (Nat × Nat)) :=
  let all := s.onCore core t.id
  let here := all.filter (fun u => !clear || u.denies t)
  packRows (s.rowLimit t.place.part) ((t.id, [(0, n)]) :: (here.filter Team.movable).map (fun u => (u.id, u.shape)))
    ((here.filter (fun u => !u.movable)).flatMap Team.rowRuns ++
      (if clear then s.denied t (all.filter (fun u => !u.denies t)) else []) ++
      (here.filter Team.movable).flatMap (fun u => (u.keptFrom t).drop u.rowRuns.length))

/-- How a team can be placed on a core: slot, rows, scratch, and where teams whose rows move for it go. -/
structure Placing where
  slot : Nat
  row : Nat
  scratch : Nat
  moves : List (Nat × Nat)
deriving DecidableEq, Repr

/-- Rows for a team: a free run, or for an aged team one that moves join (R286, R287). -/
def State.placeRows (s : State) (core : Nat) (t : Team) : Option (Nat × List (Nat × Nat)) :=
  match s.findRows core t with
  | some r => some (r, [])
  | none =>
    if t.isAged then
      ((s.packing core t t.hdr.rows false).orElse (fun _ => s.packing core t t.hdr.rows true)).bind (fun l => match l with
        | (_, r) :: moves => some (r, moves)
        | [] => none)
    else none

/-- Slot, rows and scratch for a team on a core. Which free slot is the scheduler's choice. -/
def State.room (s : State) (core : Nat) (t : Team) : Option Placing :=
  let slots := s.freeSlots core t
  if s.thawsForOther core t.id then none
  else match slots, s.placeRows core t, s.findScratch core t with
    | [], _, _ => none
    | _, some (row, moves), some scratch =>
      some { slot := slots.getD (Config.freeNat (s.draw 6 core) % slots.length) 0, row, scratch, moves }
    | _, _, _ => none

def State.moveRows (s : State) (l : List (Nat × Nat)) : State :=
  { s with teams := s.teams.map (fun u =>
      match l.find? (fun m => m.1 == u.id) with
      | some m => { u with place := { u.place with rowBase := m.2, rowSkip := u.inPlace.headD 0 } }
      | none => u) }

/-! ### Thaws (R344 to R346) -/

/-- Halted teams of other tenants whose rows, where they do not move, or scratch must thaw first. -/
def State.inTheWay (s : State) (core : Nat) (t : Team) (rows : List (Nat × Nat)) (scratch : Nat × Nat) (moved : List Nat) :
    List Team :=
  (s.onCore core t.id).filter (fun u => u.isHalted && !u.denies t &&
    ((!moved.contains u.id && !(u.rowsIn rows).isEmpty) || u.scratchIn scratch))

/-- The runs of rows that a placing needs. -/
def State.runsOf (s : State) (t : Team) (p : Placing) : List (Nat × Nat) :=
  (p.row, t.hdr.rows) :: p.moves.flatMap (fun m => match s.team? m.1 with | some u => shapeAt m.2 u.shape | none => [])

/-- A thaw begins for a team, or goes on: these teams are to be written out. -/
def State.startThaw (s : State) (core : Nat) (t : Team) (rows : List (Nat × Nat)) (scratch : Nat × Nat) (out : List Team) : State :=
  let since := match s.thawing core with | some h => h.since | none => s.now
  s.putCore { s.core core with thaw := some { team := t.id, rows, scratch, since, owners := out.map (fun u => u.id) } }

/-- A team that has been written out owes the thaw on its core no more; one that owes nothing to anyone and whose team has lost its
slice is over. -/
def State.thawStep (s : State) (core : Nat) : State :=
  match (s.core core).thaw with
  | none => s
  | some h =>
    let owes (u : Team) : Bool := u.isHalted && (!(u.rowsIn h.rows).isEmpty || u.scratchIn h.scratch)
    let h1 := { h with owners := h.owners.filter (fun i => (s.onCore core h.team).any (fun u => u.id == i && owes u)) }
    s.putCore { s.core core with thaw := if h1.owners.isEmpty && (s.thawOn core).isNone then none else some h1 }

/-- The thaw of a team on a core is over. -/
def State.endThaw (s : State) (core team : Nat) : State :=
  match (s.core core).thaw with
  | some h => if h.team = team then s.putCore { s.core core with thaw := none } else s
  | none => s

/-- The scheduler may place teams on this core: the site works, and the core is not fenced (R368). -/
def State.coreOpen (s : State) (core : Nat) : Bool :=
  let x := s.site (coreSite core)
  s.live x.key && !x.fenced.contains (coreIdx core) &&
    (match x.part.bind s.part? with | some p => p.state == .running | none => false)

/-! ### Order (R285, R286, R293) -/

/-- Lexicographic order of keys. -/
def lexBefore : List Nat → List Nat → Bool
  | x :: r, y :: q => decide (x < y) || (x == y && lexBefore r q)
  | _, _ => false

/-- a comes before b in the order of R285; a team back from a `launch` park comes before its equals. -/
def Team.earlier (a b : Team) : Bool :=
  let ka := [a.hdr.priority, if a.aheadOfEquals then 0 else 1, a.place.launch, a.place.team]
  let kb := [b.hdr.priority, if b.aheadOfEquals then 0 else 1, b.place.launch, b.place.team]
  lexBefore ka kb

/-- Waiting teams of a site's cluster. -/
def State.waitingAt (s : State) (site cluster : Nat) : List Team :=
  s.teams.filter (fun u => u.isWaiting && u.place.site == site && u.place.cluster == cluster)

/-- a is offered free resources before b: an aged team comes before all that are not (R286, R289, R295). -/
def Team.ahead (a b : Team) : Bool := (a.isAged && !b.isAged) || (a.isAged == b.isAged && a.earlier b)

/-- A gang whose teams stand on more than one site (R290). -/
def State.spans (s : State) (t : Team) : Bool :=
  t.hdr.gang && (match s.journal? t.place.part t.place.launch with
    | some (_, e) => decide (1 < e.lrec.sites)
    | none => false)

/-- The site that the coordinator of a spanning gang asks next. -/
def JEntry.asks (e : JEntry) (p : Partition) : Option Nat :=
  if e.backoff.isSome then none
  else ((p.sites.drop e.lrec.firstsite).take e.lrec.sites).find? (fun k => !e.granted.contains k)

/-- A waiting team that takes places only when its site is asked, and is not asked now: a team of a spanning gang whose
coordinator is at another site, or backs off (R290). -/
def State.unasked (s : State) (t : Team) : Bool :=
  s.spans t && (match s.journal? t.place.part t.place.launch with
    | some (p, e) => e.asks p != some t.place.site
    | none => false)

/-- A core that an aged team has named takes no later team (R286). -/
def State.coreHeld (s : State) (core : Nat) (t : Team) : Bool :=
  s.teams.any (fun u => u.id != t.id && u.isAged && u.target == some core && u.ahead t && !s.unasked u)

def clusterCores (site cluster : Nat) : List Nat := (List.range 64).map (fun n => site * 256 + cluster * 64 + n)

/-- The core can take a waiting team now, as far as slices, fences and holds go. -/
def State.coreTakes (s : State) (core : Nat) (t : Team) : Bool :=
  s.sliceOf (coreSite core) t.ctl.home && s.coreOpen core && (s.site (coreSite core)).part == some t.place.part &&
    !s.coreHeld core t

/-- The cluster has room for a waiting team now. -/
def State.hasRoom (s : State) (t : Team) : Bool :=
  (clusterCores t.place.site t.place.cluster).any (fun c => s.coreTakes c t && (s.room c t).isSome)

/-- No other waiting team of the cluster that comes first could be admitted instead; a gang that is not aged, and a spanning
gang that is not asked here, let others pass (R286, R289, R290). -/
def State.mayPass (s : State) (t : Team) : Bool :=
  (s.waitingAt t.place.site t.place.cluster).all (fun u =>
    u.id == t.id || !u.ahead t || (u.hdr.gang && !u.isAged) || s.unasked u || !s.hasRoom u)

/-! ### Starting a team (R16, R354) -/

/-- TVBDEF of a tenant on a site (R354). -/
def State.tvbOf (s : State) (site tenant : Nat) : Word :=
  match s.tenantDesc site tenant with
  | some d => (s.site site).tvbdef.getD d.idx 0
  | none => 0

/-- A team as it starts, in its place. -/
def State.started (s : State) (t : Team) (core slot row scr : Nat) (st : TStatus) : Team :=
  let h := t.hdr
  let zero : LaneVec := List.replicate h.lanes 0
  { t with
    status := st, lastIssue := (s.core core).slots, aheadOfEquals := false,
    place := { t.place with
      core := core % 64, slot, rowBase := row, scratchBase := scr, thawed := [], rowSkip := 0, scratchThawed := false,
      ldev := s.ownDev t.place.site t.ctl.home.toNat },
    regs := { drift := emptyDrift h.lanes, k := List.replicate h.kregs zero, q := List.replicate 8 {},
              s := t.regs.s, p := List.replicate 7 0 },
    ctl := { pc := h.addr + h.entry, live := t.ctl.live, cur := t.ctl.live,
             priv := if h.supervisor then 1 else 0, tvb := s.tvbOf t.place.site t.ctl.home.toNat, home := t.ctl.home,
             acting := t.ctl.home } }

/-- The first team of a launch that is admitted makes it running (R283). -/
def State.launchRuns (s : State) (part launch : Nat) : State :=
  match s.journal? part launch with
  | some (_, e) => if e.state = .eligible then s.putJournal part { e with state := .running } else s
  | none => s

/-- Where the side buffer of a slot stands (R351). -/
def sideBase (core slot : Nat) : Nat := siteBase (coreSite core) + frameOfs (coreIdx core / 64) (core % 64) slot

/-- Places a team on a core, or reserves its place for a gang: the rows that stand in its way move, and its slot's side
buffer reads 0 (R16, R287). -/
def State.placeTeam (s : State) (t : Team) (core : Nat) (p : Placing) (st : TStatus) : State :=
  let b := sideBase core p.slot
  let s1 := State.moveRows { s with mem := Mem.clear s.mem b (b + 0x2000) } p.moves
  (s1.putTeam (s1.started t core p.slot p.row p.scratch st)).endThaw core t.id

/-- Takes a place for a team, or begins the thaw that it needs first (R344, R346). -/
def State.takePlace (s : State) (t : Team) (core : Nat) (p : Placing) (st : TStatus) : State :=
  let runs := s.runsOf t p
  let scratch := (p.scratch, t.hdr.scratchBytes)
  let out := s.inTheWay core t runs scratch (p.moves.map (fun m => m.1))
  if out.isEmpty then s.placeTeam t core p st else s.startThaw core t runs scratch out

/-- The teams of a gang run, all in one step (R288). -/
def State.startGang (s : State) (part launch : Nat) : State :=
  let run (t : Team) : Team :=
    if t.place.part == part && t.place.launch == launch && t.isReserved then
      { t with status := .running, lastIssue := (s.core t.coreKey).slots } else t
  let s1 : State := { s with teams := s.teams.map run }
  s1.launchRuns part launch

/-- Teams of a launch that satisfy f. -/
def State.launchTeams (s : State) (part launch : Nat) (f : Team → Bool) : List Team :=
  s.teams.filter (fun t => t.place.part == part && t.place.launch == launch && f t)

/-- Since when a team has waited for its place. -/
def TStatus.waitSince : TStatus → Option Nat
  | .waiting since _ _ => some since
  | .reserved since => some since
  | _ => none

/-- A launch whose entry is eligible starts only while both replicas of the journal stand (R283). -/
def State.journalOpen (s : State) (part launch : Nat) : Bool :=
  match s.journal? part launch with
  | some (p, e) => e.state != .eligible || p.works
  | none => true

/-- The rows a halted team comes back to: its own when none has thawed, else any free run (R345). -/
def State.resumeRows (s : State) (t : Team) : Option Nat :=
  if t.place.thawed.isEmpty then some t.place.rowBase else s.findRows t.coreKey t

/-- Its slot is free, no resident team holds its scratch offsets, and no thaw for another team is in progress (R345,
R346). -/
def State.resumeRoom (s : State) (t : Team) : Bool :=
  let here := (s.onCore t.coreKey t.id).filter Team.resident
  !s.thawsForOther t.coreKey t.id && here.all (fun u => u.place.slot != t.place.slot) &&
    here.all (fun u => !overlaps t.place.scratchBase t.hdr.scratchBytes u.place.scratchBase u.hdr.scratchBytes)

/-- A team that is out may come back now. -/
def State.mayResume (s : State) (t : Team) : Bool :=
  s.sliceOf t.place.site t.ctl.home && s.coreOpen t.coreKey && s.resumeRoom t && (s.resumeRows t).isSome

/-- A team back from a `launch` park on this core comes before every waiting team of its priority or a later one (R293). -/
def State.returns (s : State) (core : Nat) (t : Team) : Bool :=
  s.teams.any (fun u => u.isHalted && u.aheadOfEquals && u.parkedIn.isNone && u.coreKey == core &&
    decide (u.hdr.priority ≤ t.hdr.priority) && s.mayResume u)

/-- A waiting team is admitted to a core with room; an aged one may have rows moved for it (R286, R287). A team of a
gang within one site takes its reservation, and the last one starts the gang (R289). -/
def execTeamAdmit (team core : Nat) (s : State) : Host.Outcome State Fault Refusal :=
  match s.team? team with
  | none => .next s
  | some t =>
    match t.status with
    | .waiting since _ _ =>
      if s.spans t ∨ coreSite core ≠ t.place.site ∨ coreIdx core / 64 ≠ t.place.cluster ∨ !s.coreTakes core t ∨
          !s.journalOpen t.place.part t.place.launch ∨ !s.mayPass t ∨ s.returns core t then .next s
      else match s.room core t with
        | none => .next s
        | some p =>
          let s1 := s.takePlace t core p (if t.hdr.gang then .reserved since else .running)
          if !(s1.launchTeams t.place.part t.place.launch (fun u => u.id == team && !u.isWaiting)).isEmpty then
            (if !t.hdr.gang then .next (s1.launchRuns t.place.part t.place.launch)
             else if (s1.launchTeams t.place.part t.place.launch Team.isWaiting).isEmpty then
               .next (s1.startGang t.place.part t.place.launch)
             else .next s1)
          else .next s1
    | _ => .next s

/-- Rows that a team lacks on a core: the least number that it would have to do without, moves and thaws allowed (R286). -/
def State.lacking (s : State) (core : Nat) (t : Team) : Nat :=
  ((List.range t.hdr.rows).find? (fun k => (s.packing core t (t.hdr.rows - k) true).isSome)).getD t.hdr.rows

/-- The first of a list of teams in the order of R285. -/
def earliest (l : List Team) : Option Team :=
  l.foldl (fun (m : Option Team) u => match m with
    | none => some u
    | some v => if u.earlier v then some u else some v) none

/-- The target of an aged team (R286): the core with the fewest rows lacking, the lowest of equals, that no other
aged team has named; when none is left, the first aged team's. -/
def State.chooseTarget (s : State) (t : Team) : Option Nat :=
  let cores := (clusterCores t.place.site t.place.cluster).filter (fun c => !(s.site t.place.site).fenced.contains (coreIdx c))
  let aged := (s.waitingAt t.place.site t.place.cluster).filter (fun u => u.isAged && u.id != t.id)
  match cores.filter (fun c => aged.all (fun u => u.target != some c)) with
  | [] => (earliest aged).bind Team.target
  | c :: r => some (r.foldl (fun b d => if s.lacking d t < s.lacking b t then d else b) c)

/-- A team has waited 20 µs and is not aged yet. -/
def State.ageDue (s : State) (t : Team) : Bool :=
  match t.status with
  | .waiting since false _ => decide (since + us 20 ≤ s.now)
  | _ => false

/-- After 20 µs of waiting a team is aged; of those that are due in a cluster the first in order names its target first
(R286). -/
def execTeamAged (team : Nat) (s : State) : Host.Outcome State Fault Refusal :=
  match s.team? team with
  | none => .next s
  | some t =>
    match t.status with
    | .waiting since false _ =>
      let others := (s.waitingAt t.place.site t.place.cluster).filter (fun u => u.id != t.id && s.ageDue u)
      if s.ageDue t ∧ s.live t.place.site ∧ others.all (fun u => !u.earlier t) then
        .next (s.putTeam { t with status := .waiting since true (s.chooseTarget t) })
      else .next s
    | _ => .next s

/-! ### Gangs that span sites (R288, R290) -/

/-- Reserves places for the waiting teams of a list, one after another, in the order of R285 and as far as there is room
(R289). -/
def State.reserveAll (s : State) : List Nat → State
  | [] => s
  | id :: r =>
    match s.team? id with
    | none => s.reserveAll r
    | some t =>
      let cores := (clusterCores t.place.site t.place.cluster).filter (fun c => s.coreTakes c t && !s.returns c t)
      match t.status.waitSince, if s.mayPass t then cores.findSome? (fun c => (s.room c t).map (fun p => (c, p))) else none with
      | some since, some (c, p) => (s.takePlace t c p (.reserved since)).reserveAll r
      | _, _ => s.reserveAll r

/-- A reserved team waits again, as long as it has waited. -/
def Team.unreserve (t : Team) : Team :=
  match t.status with
  | .reserved since => { t with status := .waiting since false none }
  | _ => t

/-- A gang gives up what it has reserved and backs off for a time drawn from 0 to 2^min(n, 10) µs. -/
def State.releaseGang (s : State) (part launch : Nat) : State :=
  match s.journal? part launch with
  | none => s
  | some (_, e) =>
    let fails := e.fails + 1
    let wait := Config.freeNat (s.draw 7 launch) % (us (2 ^ min fails 10) + 1)
    let s1 := s.putJournal part { e with fails, granted := [], backoff := some (s.now + wait) }
    { s1 with teams := s1.teams.map (fun t => if t.place.part == part && t.place.launch == launch then t.unreserve else t) }

/-- Launches of spanning gangs, other than this one, that hold reservations on a site which the share of this one there needs:
with what such a gang holds given up, alone or together with the others', a team that has no room would have it. -/
def State.rivals (s : State) (part launch site : Nat) : List Nat :=
  let want := s.launchTeams part launch (fun t => t.isWaiting && t.place.site == site)
  let hold := ((s.teams.filter (fun t => t.isReserved && t.place.part == part && t.place.site == site &&
    t.place.launch != launch && decide (1 < t.hdr.gangspan))).map (fun t => t.place.launch)).eraseDups
  let less (ls : List Nat) : State := { s with teams := s.teams.map (fun t =>
    if t.place.part == part && ls.contains t.place.launch then t.unreserve else t) }
  let helps (ls : List Nat) : Bool := want.any (fun u => !s.hasRoom u && (less ls).hasRoom u)
  match hold.filter (fun l => helps [l]) with
  | [] => if helps hold then hold else []
  | ls => ls

/-- The coordinator asks the next site to reserve its share (R290). -/
def execGangReserve (part launch : Nat) (s : State) : Host.Outcome State Fault Refusal :=
  match s.journal? part launch with
  | none => .next s
  | some (p, e) =>
    let sites := (p.sites.drop e.lrec.firstsite).take e.lrec.sites
    match sites.find? (fun k => !e.granted.contains k) with
    | none => .next s
    | some k =>
      if !e.hdr.gang ∨ e.lrec.sites ≤ 1 ∨ e.state ≠ .eligible ∨ e.clusters = [] ∨ e.committed ∨ e.backoff.isSome ∨
          !p.works ∨ !s.live k ∨ !s.sliceOf k (BitVec.ofNat 16 e.tenant) then .next s
      else
        let want (s : State) : List Nat :=
          (s.launchTeams part launch (fun t => t.isWaiting && t.place.site == k)).map (fun t => t.id)
        let s1 := s.reserveAll (want s)
        if (want s1).isEmpty then
          .next (s1.putJournal part { e with granted := e.granted ++ [k] })
        else
          match s1.rivals part launch k with
          | [] => .next s1
          | rs =>
            let s2 := if 8 ≤ e.fails then (rs.filter (fun l => launch < l)).foldl (fun s l => s.releaseGang part l) s1 else s1
            if 8 ≤ e.fails ∧ rs.all (fun l => launch < l) then .next s2 else .next (s2.releaseGang part launch)

/-- Every site has granted, and every team holds its place: the gang is admitted (R288, R290). -/
def execGangCommit (part launch : Nat) (s : State) : Host.Outcome State Fault Refusal :=
  match s.journal? part launch with
  | none => .next s
  | some (p, e) =>
    let sites := (p.sites.drop e.lrec.firstsite).take e.lrec.sites
    if e.hdr.gang ∧ 1 < e.lrec.sites ∧ !e.committed ∧ e.state = .eligible ∧ sites.all (fun k => e.granted.contains k) ∧
        p.works ∧ (s.launchTeams part launch Team.isWaiting).isEmpty then
      .next ((s.putJournal part { e with committed := true }).startGang part launch)
    else .next s

/-- The back-off of a gang is over (R290). -/
def execGangBackoffExpiry (part launch : Nat) (s : State) : Host.Outcome State Fault Refusal :=
  match s.journal? part launch with
  | none => .next s
  | some (_, e) =>
    match e.backoff with
    | some t => if t ≤ s.now then .next (s.putJournal part { e with backoff := none }) else .next s
    | none => .next s

/-! ### Spawn bins (R291, R292, R317) -/

/-- Creates the team of a bin and empties it. -/
def State.flushBin (s : State) (site : Nat) (b : Bin) : State :=
  let x := s.site site
  let s1 := s.putSite { x with bins := x.bins.filter (fun c => c.order != b.order) }
  match s1.journal? b.part b.launch with
  | none => s1
  | some (_, e) =>
    let key := site * 4 + b.cluster
    let number := ((e.nextTeam.find? (fun n => n.1 == key)).map (fun n => n.2)).getD e.lrec.teamspc
    let rest := e.nextTeam.filter (fun n => n.1 != key)
    let s2 := s1.putJournal b.part { e with nextTeam := rest ++ [(key, number + 1)] }
    let (id, s3) := s2.fresh
    let t := waitingTeam id site b.part x.lsite b.cluster number b.launch s.now b.tenant b.hdr b.argblk
    let arg (i : Nat) : LaneVec := vtab b.hdr.lanes (fun l => (b.recs.getD l []).getD i 0)
    let t1 := { t with
      place := { t.place with args := [arg 0, arg 1, arg 2, arg 3] },
      ctl := { t.ctl with live := Mask.low b.recs.length } }
    { s3 with teams := s3.teams ++ [t1] }

/-- The time at which a bin's timer is over. -/
def Bin.due (b : Bin) : Nat :=
  b.opened + (if b.hdr.bintimer = 0 then 64 else b.hdr.bintimer) * 64 * Config.ticksPerNs

/-- One lane record goes to its bin; none when every bin holds another entry. -/
def State.placeRecord (s : State) (t : Team) (h : Header) (argblk : Word) (r : List Word) : Option State :=
  let site := t.place.site
  let x := s.site site
  let mine (b : Bin) : Bool :=
    b.cluster == t.place.cluster && b.tenant == t.ctl.home.toNat && b.part == t.place.part &&
      b.launch == t.place.launch && b.hdr.addr == h.addr && decide (b.recs.length < b.hdr.lanes)
  match x.bins.find? mine with
  | some b =>
    let b1 := { b with recs := b.recs ++ [r] }
    if b1.recs.length = b1.hdr.lanes then some (s.flushBin site b1)
    else some (s.putSite { x with bins := x.bins.map (fun c => if c.order == b.order then b1 else c) })
  | none =>
    match (List.range 16).find? (fun n => x.bins.all (fun b => b.cluster != t.place.cluster || b.num != n)) with
    | none => none
    | some num =>
      let (order, s1) := s.fresh
      let b : Bin :=
        { num, cluster := t.place.cluster, tenant := t.ctl.home.toNat, part := t.place.part, launch := t.place.launch,
          hdr := h, argblk, opened := s.now, order, recs := [r] }
      if h.lanes = 1 then some (s1.flushBin site b) else some (s1.putSite { x with bins := x.bins ++ [b] })

/-- Argument block address of a team's launch. -/
def State.argBlock (s : State) (t : Team) : Word :=
  match s.journal? t.place.part t.place.launch with
  | some (_, e) => e.lrec.args
  | none => 0

/-- The team's `spawn` has these lanes left to place. -/
def State.setSpawning (s : State) (tid : Nat) (l : List (Nat × Header)) : State :=
  match s.team? tid with
  | some t => s.putTeam { t with spawning := l }
  | none => s

/-- Places the records of the lanes, ascending; a lane that finds no bin parks the team, which goes on there (R291). -/
def State.placeRecords (s : State) (c : Ctx) (argblk : Word) : List (Nat × Header) → State
  | [] => s.commit c id
  | (l, h) :: r =>
    match s.placeRecord c.t h argblk ((List.range 4).map (fun i => c.arg (i + 1) l)) with
    | none => (s.setSpawning c.t.id ((l, h) :: r)).parkAt c (.bins h.addr)
    | some s1 => (s1.laneDone c.t.id l).placeRecords c argblk r

/-- The home tenant governs spawn and launch (R394). -/
def Ctx.asHome (c : Ctx) : Ctx := { c with t := { c.t with ctl := { c.t.ctl with acting := c.t.ctl.home } } }

/-- The lanes' 64-byte records with the checks of their addresses. -/
def State.recordsAt (s : State) (c : Ctx) (a : Nat → Word) : List (Nat × Word × CtrChk) :=
  c.lanes.map (fun l => (l, a l, s.checkWord c.asHome.t.party (a l) 64 .read))

/-- Records that passed their checks are read after everything earlier of the team; a transaction that holds a record's line
aborts before it is read (R200, R235). -/
def State.readRecords (s : State) (c : Ctx) (rs : List (Nat × Word × CtrChk)) (f : State → List (Nat × List Byte) → State) :
    State :=
  s.afterAll c.t (fun s =>
    let s1 := rs.foldl (fun s r => s.txRead 0 (r.2.2.phys / 64)) s
    f s1 (rs.map (fun r => (r.1, Mem.bytes s1.mem r.2.2.phys 64))))

/-- The lanes' records, once the checks of all their addresses pass. -/
def State.withRecords (s : State) (c : Ctx) (a : Nat → Word) (f : State → List (Nat × List Byte) → State) : State :=
  let rs := s.recordsAt c a
  match s.wordTraps c.asHome false rs with
  | some s1 => s1
  | none => s.readRecords c rs f

/-- `spawn` (R291, R317). The headers that can be read are judged before a translation fault of another is raised (R49). After a
park on full bins it goes on with the headers it has read and checked. -/
def execSpawn (g : Guard) (kb : Fin 32) (s : State) : Host.Outcome State Fault Refusal :=
  s.runOutsideTx { op := 0xDA, sel := .guard g, blk := some (kb, 5) } (fun s c =>
    if c.t.spawning ≠ [] then s.placeRecords c (s.argBlock c.t) c.t.spawning
    else
      let at_ := s.recordsAt c (c.arg 0)
      let found := at_.filter (fun r => !r.2.2.faults)
      match s.wordTraps c.asHome false found with
      | some s1 => s1
      | none => s.readRecords c found (fun s1 rs =>
      let reserved := match s1.part? c.t.place.part with | some p => p.reserved | none => 0
      let hs := rs.map (fun r => (r.1, c.arg 0 r.1, r.2))
      let bad := hs.filter (fun x =>
        let h := parseHeader x.2.1 x.2.2
        (headerBad x.2.1 x.2.2 true none).isSome || !h.spawnable || h.gang || (h.supervisor && !c.t.sup) ||
          !h.fits reserved)
      if !bad.isEmpty then s1.trapList c 5 0x07 (bad.map (fun x => (x.1, x.2.1)))
      else match s1.wordTraps c.asHome false at_ with
      | some s2 => s2
      | none => s1.placeRecords c (s1.argBlock c.t) (hs.map (fun x => (x.1, parseHeader x.2.1 x.2.2)))))

/-- A bin's timer is over; of several, the one whose first record came first flushes first (R291). The bin is named by
cluster × 16 + number. -/
def execBinTimerExpiry (site bin : Nat) (s : State) : Host.Outcome State Fault Refusal :=
  let x := s.site site
  match x.bins.find? (fun b => b.cluster * 16 + b.num == bin) with
  | none => .next s
  | some b =>
    let first := x.bins.all (fun c => decide (b.due < c.due) || (b.due == c.due && decide (b.order ≤ c.order)))
    if b.due ≤ s.now ∧ first ∧ s.live site then .next (s.flushBin site b) else .next s

/-! ### The device launch queue (R293, R318) -/

/-- The queue has room for n records. -/
def State.dlqRoom (s : State) (part n : Nat) : Bool :=
  match s.part? part with | some p => decide (p.dlq.length + n ≤ 1024) | none => false

/-- Puts a record into the queue. -/
def State.enqueue (s : State) (t : Team) (bytes : List Byte) : State :=
  match s.part? t.place.part with
  | some p => s.putPart { p with dlq := p.dlq ++ [{ bytes, tenant := t.ctl.home.toNat, sup := t.sup }] }
  | none => s

/-- `launch`: the records of all its lanes enter the queue together, or the team parks and none does (R9, R293, R318).
DEDUCED, log 93. -/
def execLaunch (g : Guard) (a : Src) (s : State) : Host.Outcome State Fault Refusal :=
  s.runOutsideTx { op := 0xDB, sel := .guard g, srcs := [a] } (fun s c =>
    s.withRecords c (fun l => lane (c.val 0) l) (fun s rs =>
      if s.dlqRoom c.t.place.part rs.length then (rs.foldl (fun s r => s.enqueue c.t r.2) s).commit c id
      else s.parkAt c (.launchQueue rs.length)))

/-- Places records while the queue has room; answers the lanes placed. -/
def State.tryLanes (s : State) (c : Ctx) : List (Nat × List Byte) → Mask → State × Mask
  | [], m => (s, m)
  | (l, b) :: r, m =>
    if s.dlqRoom c.t.place.part 1 then (s.enqueue c.t b).tryLanes c r (m ||| (1 <<< l : Mask)) else (s, m)

/-- `launcht` (R318). -/
def execLauncht (g : Guard) (p : Fin 7) (a : Src) (s : State) : Host.Outcome State Fault Refusal :=
  s.runOutsideTx { op := 0xDC, sel := .guard g, srcs := [a] } (fun s c =>
    s.withRecords c (fun l => lane (c.val 0) l) (fun s rs =>
      let (s1, m) := s.tryLanes c rs 0
      s1.commit c (fun t => t.writeP p.val c.act m)))

/-- No record has left the queue for 1 ms while a `launch` is parked, its rows written out or not: "launch stalled"
(R293). -/
def execLaunchStalledExpiry (team : Nat) (s : State) : Host.Outcome State Fault Refusal :=
  match s.team? team with
  | some t =>
    match t.parkedIn with
    | some (.launchQueue _, since) =>
      let moved := match s.part? t.place.part with | some p => p.dlqMoved | none => 0
      if max since moved + us 1000 ≤ s.now ∧ s.live t.place.site then
        .next (s.wakeTeam team (some (.trap 5 0x08 0 none)))
      else .next s
    | _ => .next s
  | none => .next s

end Sys2Proof.Machine
end

