-- ==== Sys2Proof/Machine/Slices.lean ====
section
/-! DEFINITION. Slice ends and context: slot records and rows (R342, R361), halts and saves (R340, R341), thawing and
resuming (R343 to R346), `yield`, and `ctxs`, `ctxr` and `pidx` (R360 to R363). -/

namespace Sys2Proof.Machine

/-! ### Rows of a team (R15, R344, R362) -/

def Team.rowPasses (t : Team) : Nat := (t.hdr.lanes + 31) / 32
def up4 (n : Nat) : Nat := (n + 3) / 4 * 4

/-- The entries of all queues in the order of their rows: queue 0's places first. -/
def Regs.flatQueues (r : Regs) : List LaneVec :=
  r.q.flatMap (fun q => (q.items ++ List.replicate (q.depth - q.items.length) []).take q.depth)

/-- Register number r of the allocation: drift, then `k`, then queue places. -/
def Team.regVec (t : Team) (r : Nat) : LaneVec :=
  if r < 16 then t.d r
  else if r < 16 + up4 t.hdr.kregs then t.k (r - 16)
  else t.regs.flatQueues.getD (r - 16 - up4 t.hdr.kregs) []

/-- Row i of the allocation: one register, 32 lanes. -/
def Team.rowBytes (t : Team) (i : Nat) : List Byte :=
  let v := t.regVec (i / t.rowPasses)
  let p := i % t.rowPasses
  (List.range 32).flatMap (fun j => leBytes 8 (lane v (p * 32 + j)).toNat)

/-- The registers that rows hold, queue depths and occupancies given. -/
def Team.withRows (t : Team) (depth occ : Nat → Nat) (row : Nat → List Byte) : Team :=
  let vec (r : Nat) : LaneVec := vtab t.nlane (fun l => wordAt (row (r * t.rowPasses + l / 32)) (8 * (l % 32)))
  let base (i : Nat) : Nat := 16 + up4 t.hdr.kregs + (List.range i).foldl (fun n j => n + depth j) 0
  { t with regs := { t.regs with
      drift := (List.range 16).map vec,
      k := (List.range t.hdr.kregs).map (fun i => vec (16 + i)),
      q := (List.range 8).map (fun i =>
        { depth := depth i, items := (List.range (occ i)).map (fun j => vec (base i + j)) : Queue }) } }

/-! ### Slot records (R342, R361) -/

def Mask.bytes (m : Mask) : List Byte := leBytes 128 m.toNat
def word8 (w : Word) : List Byte := leBytes 8 w.toNat

/-- FLAGS of a slot record. -/
def slotFlags (t : Team) (full matrix : Bool) : Nat :=
  t.ctl.priv + (if full then 4 else 0) +
  (if full then hintBits t.ctl.hint * 2 ^ 4 + t.ctl.stack.length * 2 ^ 8 else 0) +
  (match t.long with | some g => if full then 2 ^ 13 + g.op * 2 ^ 16 else 0 | none => 0) +
  (if matrix then 2 ^ 24 else 0) + (if t.forkOpen then 2 ^ 25 else 0)

/-- The runs of a slot record, as (offset, bytes). -/
def State.slotRuns (s : State) (t : Team) (full : Bool) : List (Nat × List Byte) :=
  let c := t.ctl
  let mx := t.savedMx.getD []
  let own := (mx.filter (fun e => !e.again)).take 4
  let always :=
    [(0x0000, word8 c.pc), (0x0008, leBytes 8 (slotFlags t full t.savedMx.isSome)), (0x0010, word8 c.tvb),
     (0x0018, leBytes 8 c.fmt.toNat), (0x0020, word8 (packBytes (fun i => (t.queue i).items.length))),
     (0x0028, word8 (packBytes (fun i => (t.queue i).depth))), (0x0030, word8 t.tx.stat), (0x0038, word8 t.tx.heldpc),
     (0x0068, word8 (t.forkCtr.getD 0)), (0x0070, leBytes 8 t.forkCount)] ++
    (List.range 8).map (fun i => (0x0100 + 8 * i, word8 (t.s i))) ++
    [(0x0200, Mask.bytes c.live)] ++
    (List.range 7).map (fun i => (0x0380 + 128 * i, Mask.bytes (t.p i))) ++
    (mx.filter (fun e => e.again)).flatMap (fun e =>
      [(0x1100, word8 (e.a 0) ++ word8 (e.a 1) ++ word8 (e.a 2) ++ leBytes 8 e.n ++ word8 (e.a 3))]) ++
    own.zipIdx.map (fun x =>
      (0x1140 + 64 * x.2, leBytes 8 x.1.word.toNat ++ (List.range 6).flatMap (fun i => word8 (x.1.a i)) ++ leBytes 8 x.1.prog))
  let more :=
    [(0x0040, word8 (s.pidxOf t)), (0x0048, word8 (match t.long with | some g => g.run | none => 0)),
     (0x0050, leBytes 8 (c.hint.imm.getD 0).toNat), (0x0058, leBytes 8 (c.hint.immh.getD 0).toNat),
     (0x0060, leBytes 8 (c.hint.mod.getD 0).toNat), (0x0280, Mask.bytes c.cur), (0x0300, Mask.bytes c.brk)] ++
    c.stack.reverse.zipIdx.map (fun x =>
      (0x0700 + 160 * x.2, Mask.bytes x.1.image ++
        leBytes 8 ((if x.1.isLoop then 1 else 0) + (if x.1.inElse then 2 else 0)) ++ word8 x.1.target ++ word8 x.1.body)) ++
    (match t.long with
     | some g => [(0x2000, g.staged.flatMap word8)]
     | none => [])
  if full then always ++ more else always

/-- Where the slot record of a team stands in its save area. -/
def State.slotRecord (s : State) (t : Team) : Option Nat :=
  (s.saveBase t.place.site t.ctl.home.toNat (t.place.cluster * 64 + t.place.core)).map
    (fun b => b + 0x100000 + t.place.slot * 0x4000)

/-- Writes a slot record of 16 KiB at b. -/
def State.writeSlot (s : State) (t : Team) (full : Bool) (b : Nat) : State :=
  { s with mem := writeRuns (Mem.clear s.mem b (b + 0x4000)) b (s.slotRuns t full) }

/-- A code address without the bits a pc cannot hold (R30). DEDUCED, log 71. -/
def aligned4 (w : Word) : Word := w &&& ~~~3

/-- The team as the slot record at b describes it. -/
def State.readSlot (s : State) (t : Team) (b : Nat) : Team :=
  let w (o : Nat) : Word := Mem.word s.mem (b + o)
  let m (o : Nat) : Mask := BitVec.ofNat 1024 (Mem.read s.mem (b + o) 128)
  let fl := (w 0x0008).toNat
  let full := fl / 4 % 2 = 1
  let hintOf (bit o : Nat) : Option (BitVec 24) := if fl / 2 ^ bit % 2 = 1 then some ((w o).extractLsb' 0 24) else none
  let live := m 0x0200
  let level (i : Nat) : Level :=
    let o := 0x0700 + 160 * i
    let k := w (o + 128)
    { image := m o, isLoop := k.getLsbD 0, inElse := k.getLsbD 1, target := aligned4 (w (o + 136)),
      body := aligned4 (w (o + 144)) }
  let stat := w 0x0030
  let old := (t.savedMx.getD []).filter (fun e => !e.again)
  -- the party of the rload is the one that it acted for (R394); the record does not name it
  let kept := (t.savedMx.getD []).find? (fun e => e.again)
  let again : List MEntry :=
    if w 0x1110 = 0 then []
    else
      let n := (w 0x1118).toNat / 16 - 1
      [{ seq := (kept.map (fun e => e.seq)).getD 0, keep := (kept.map (fun e => e.keep)).getD false, spans := [], old := none,
         word := wordX 0xC0 (encGuard .always) 0 (BitVec.ofNat 6 n) 0 0 0,
         args := [w 0x1100, w 0x1108, w 0x1110, w 0x1120],
         tenant := (kept.map (fun e => e.tenant)).getD t.ctl.home.toNat, user := (kept.map (fun e => e.user)).getD !t.sup,
         prog := 0, stuck := false, again := true }]
  let queued : List MEntry := old.zipIdx.map (fun (x : MEntry × Nat) =>
    let o := 0x1140 + 64 * x.2
    { x.1 with
      word := (w o).extractLsb' 0 32, args := (List.range 6).map (fun i => w (o + 8 + 8 * i)),
      prog := (w (o + 56)).toNat, stuck := false })
  { t with
    ctl := { t.ctl with
      pc := aligned4 (w 0x0000), priv := fl % 4, tvb := w 0x0010 &&& ~~~0x7FF, fmt := (w 0x0018).extractLsb' 0 32, live,
      cur := if full then m 0x0280 else live, brk := if full then m 0x0300 else 0,
      stack := if full then ((List.range (fl / 2 ^ 8 % 32)).map level).reverse else [],
      hint := if full then { imm := hintOf 4 0x0050, immh := hintOf 5 0x0058, mod := hintOf 6 0x0060 } else {} },
    regs := { t.regs with
      s := (List.range 8).map (fun i => w (0x0100 + 8 * i)), p := (List.range 7).map (fun i => m (0x0380 + 128 * i)) },
    tx := { t.tx with
      ts := stat.extractLsb' 16 48, held := stat.getLsbD 10, code := stat.extractLsb' 0 8, heldpc := w 0x0038 },
    long := if full ∧ fl / 2 ^ 13 % 2 = 1 then
        some { op := fl / 2 ^ 16 % 256, staged := vtab t.nlane (fun l => w (0x2000 + 8 * l)),
               src := (t.long.map (fun g => g.src)).getD [], run := w 0x0048, passes := (w 0x0040).toNat }
      else none,
    forkOpen := fl / 2 ^ 25 % 2 = 1,
    forkCtr := if t.forkCtr.isSome then some (w 0x0068) else none,
    forkCount := (w 0x0070).toNat,
    savedMx := if fl / 2 ^ 24 % 2 = 1 then some (again ++ queued) else none }

/-- Queue counts of a slot record. -/
def State.slotQueues (s : State) (b o i : Nat) : Nat := (Mem.get s.mem (b + o + i)).toNat

/-! ### Halting and saving (R341, R342) -/

/-- The matrix record of a holder: the rload in place, or the one whose repetition is still to come, for the party it acts
for, then its queue (R162, R394). -/
def Matrix.record (x : Matrix) : Option (List MEntry) :=
  let again : List MEntry := match x.queue.find? (fun e => e.again), x.rl with
    | some e, _ => [{ e with prog := 0, stuck := false }]
    | none, none => []
    | none, some r =>
      [{ seq := 0, keep := false, spans := [], old := none, word := wordX 0xC0 (encGuard .always) 0 (BitVec.ofNat 6 (r.nres / 16 - 1)) 0 0 0,
         args := [r.src, r.stride, BitVec.ofNat 64 r.kres, r.fmt.setWidth 64], tenant := r.tenant, user := r.user, prog := 0,
         stuck := false, again := true }]
  let q := x.queue.filter (fun e => !e.again)
  if again.isEmpty && q.isEmpty then none else some (again ++ q.map (fun e => { e with stuck := false }))

/-- The rest of a chunk that a segment has written in part is written (R247). -/
def State.finishChunk (s : State) (cmd lo : Nat) : Nat → State
  | 0 => s
  | fuel + 1 =>
    match s.cmd? cmd with
    | none => s
    | some k =>
      match k.segs.find? (fun g => g.lo == lo) with
      | none => s
      | some g =>
        if g.put.isEmpty || g.stuck then s
        else match k.nextAct g with
          | .write _ i n => (s.cmdWrite k g i n).finishChunk cmd lo fuel
          | _ => s

/-- The engines bring the chunks of a team's commands to their ends (R247). -/
def State.finishChunks (s : State) (tid : Nat) : State :=
  (s.cmds.filter (fun k => k.team == some tid && k.state == CmdState.flight)).foldl (fun s k =>
    k.segs.foldl (fun s g => s.finishChunk k.id g.lo 64) s) s

/-- The engines stop a team's commands at a chunk boundary (R247). -/
def Cmd.stopFor (tid : Nat) (k : Cmd) : Cmd :=
  if k.team = some tid ∧ k.state = CmdState.flight then
    { k with state := CmdState.stopped, upto := k.progress, done := [], segs := [] }
  else k

/-- The engines go on with a team's commands (R247). -/
def Cmd.resume (now tid : Nat) (k : Cmd) : Cmd :=
  if k.team = some tid ∧ k.state = CmdState.stopped then { k with state := CmdState.flight, issued := now } else k

/-- The unflushed bins of a tenant on a cluster flush, in the order of their first records (R342). -/
def insertBin (b : Bin) : List Bin → List Bin
  | [] => [b]
  | c :: r => if b.order < c.order then b :: c :: r else c :: insertBin b r

def State.flushTenantBins (s : State) (site cluster tenant : Nat) : State :=
  (((s.site site).bins.filter (fun b => b.cluster == cluster && b.tenant == tenant)).foldl (fun l b => insertBin b l) []).foldl
    (fun s b => s.flushBin site b) s

/-- What a team that leaves in this park still waits for: a park of the matrix sequencer replays on resume. -/
def TStatus.keptWhy : TStatus → Option (Park × Nat)
  | .parked .matrixFault _ => none
  | .parked w since => some (w, since)
  | _ => none

/-- A team halts, or is saved in full (R342). A live transaction aborts first; where its handler is no reconvergence point
the team is saved in full there (R58, R341). -/
def State.saveTeam (s : State) (tid : Nat) (want : Bool) : State :=
  let s0 := match s.team? tid with
    | some t => if t.tx.live then s.txAbort tid 0x07 else s
    | none => s
  let s1 := (s0.settlePend tid).finishChunks tid
  match s1.team? tid with
  | none => s1
  | some t =>
    let core := t.coreKey
    let x := (s1.core core).mx
    let full := want || !t.ctl.stack.isEmpty || t.ctl.cur != t.ctl.live
    let t1 : Team := { t with
      status := .halted full t.status.keptWhy s1.now, yieldReq := false,
      savedMx := if x.holder = some tid then x.record else t.savedMx }
    let s2 := if x.holder = some tid then
        s1.setMx core (fun x => { x with holder := none, queue := [] }) else s1
    let s3 : State := { s2.putTeam t1 with cmds := s2.cmds.map (Cmd.stopFor tid) }
    match s3.slotRecord t1 with
    | some b => s3.writeSlot t1 full b
    | none => s3

/-- A team leaves at a slice end: the tenant's bins on its cluster flush too (R342). -/
def State.haltTeam (s : State) (tid : Nat) (full : Bool) : State :=
  match s.team? tid with
  | none => s
  | some t => (s.saveTeam tid full).flushTenantBins t.place.site t.place.cluster t.ctl.home.toNat

/-- A reserved team leaves its gang's reservation: it waits again, and its site has not granted any more (R288, R290). -/
def State.leaveGang (s : State) (t : Team) : State :=
  let s1 := s.putTeam { t.unreserve with yieldReq := false }
  match s1.journal? t.place.part t.place.launch with
  | some (_, e) => s1.putJournal t.place.part { e with granted := e.granted.filter (fun k => k != t.place.site) }
  | none => s1

/-- The boundary is a reconvergence point (R58, R162). -/
def State.atReconvergence (s : State) (t : Team) : Bool :=
  t.ctl.stack.isEmpty && t.ctl.hint == {} && t.long.isNone && (s.matrixQueueOf t).isEmpty && t.did == 0 && t.wake.isNone

/-- A team with a yield request leaves by the path that applies to it (R341). A reservation of a gang is given up. -/
def State.leave (s : State) (tid : Nat) : State :=
  match s.team? tid with
  | none => s
  | some t =>
    if !t.yieldReq || t.ctl.inHandler || !s.live t.place.site then s
    else match t.status with
      | .parked .. => s.haltTeam tid true
      | .reserved _ => s.leaveGang t
      | .running =>
        let late := match (s.site t.place.site).tswOut with | some (_, dl) => decide (dl ≤ s.now) | none => false
        if late then s.haltTeam tid true
        else if s.atReconvergence t then s.haltTeam tid false
        else s
      | _ => s

/-- Every team that a pending yield request makes leave does so. -/
def State.leaveAll (s : State) : State :=
  ((s.teams.filter (fun t => t.yieldReq)).map (fun t => t.id)).foldl (fun s i => s.leave i) s

/-- `yield` takes its slot; in the cycle of the deadline it halts at the boundary after it (R319). Before the deadline,
the boundary does what R341 says. -/
def execYield (g : Guard) (s : State) : Host.Outcome State Fault Refusal :=
  s.runOutsideTx { op := 0xDD, sel := .guard g } (fun s c =>
    let s1 := s.commit c id
    match s1.team? c.t.id, (s1.site c.t.place.site).tswOut with
    | some t, some (_, dl) =>
      if t.yieldReq ∧ !t.ctl.inHandler ∧ dl ≤ s1.now ∧ s1.now < dl + Config.ticksPerCycle ∧ s1.atReconvergence t then
        s1.haltTeam c.t.id false
      else s1
    | _, _ => s1)

/-- The supervisor's GO write of TSWITCH (R340). -/
def execTswitchGo (site next : Nat) (s : State) : Host.Outcome State Fault Refusal :=
  if s.live site ∧ next < 65536 then
    .next (((s.ctlWrite site 0x1F00600000 (BitVec.ofNat 64 (2 ^ 32 + next)) false).getD s).leaveAll)
  else .next s

/-- At the deadline the outgoing teams that remain are saved in full (R341). -/
def execSliceDeadline (site : Nat) (s : State) : Host.Outcome State Fault Refusal :=
  match (s.site site).tswOut with
  | some (_, dl) =>
    if dl ≤ s.now ∧ s.live site then
      .next (((s.teams.filter (fun t => t.place.site == site && t.yieldReq)).map (fun t => t.id)).foldl
        (fun s i => s.leave i) s)
    else .next s
  | none => .next s

/-- A team still in its handler 1 ms after the deadline freezes the partition: group 0x06, KIND 4 (R355, R367). -/
def execHandlerWatchdog (site : Nat) (s : State) : Host.Outcome State Fault Refusal :=
  match (s.site site).tswOut with
  | some (_, dl) =>
    match s.teams.find? (fun t => t.place.site == site && t.yieldReq && t.ctl.inHandler && t.resident) with
    | some t =>
      if dl + us 1000 ≤ s.now ∧ s.live site then
        let d := 6 * 2 ^ 91 + 4 * 2 ^ 88 + (s.site site).lsite * 2 ^ 82 + t.place.cluster * 2 ^ 80 +
          t.place.core * 2 ^ 74 + t.ctl.home.toNat * 2 ^ 58
        .next (s.freezePart t.place.part site 550 (BitVec.ofNat 96 d))
      else .next s
    | none => .next s
  | none => .next s

/-! ### Thawing (R293, R344, R346) -/

/-- Where a core's scratchpad stands. -/
def scratchAt (site cluster core : Nat) : Nat := siteBase site + 0x1800000000 + cluster * 0x1000000 + core * 0x40000

/-- Writes rows of a team to its save area, each at its index in the register file. -/
def State.thawRows (s : State) (t : Team) (rows : List Nat) : State :=
  match s.saveBase t.place.site t.ctl.home.toNat (t.place.cluster * 64 + t.place.core) with
  | none => s
  | some b =>
    let m := rows.foldl (fun m i => Mem.setBytes m (b + t.rowAt i * 256) (t.rowBytes i)) s.mem
    State.putTeam { s with mem := m }
      { t with place := { t.place with thawed := t.place.thawed ++ rows.map (fun i => (i, t.rowAt i)) } }

/-- Writes a team's scratch bytes to its save area and clears them, its stores that stand in the write buffer applied first. -/
def State.thawScratch (s0 : State) (t : Team) : State :=
  let s := s0.settleEntries t.id (fun _ => true)
  match s.saveBase t.place.site t.ctl.home.toNat (t.place.cluster * 64 + t.place.core) with
  | none => s
  | some b =>
    let at_ := scratchAt t.place.site t.place.cluster t.place.core + t.place.scratchBase
    let n := t.hdr.scratchBytes
    let bs := Mem.bytes s.mem at_ n
    let m := Mem.clear (Mem.setBytes s.mem (b + 0x168000 + t.place.scratchBase) bs) at_ (at_ + n)
    State.putTeam { s with mem := m } { t with place := { t.place with scratchThawed := true } }

/-- The thaw in progress on a team's core that waits for what this team left there. -/
def State.thawFor (s : State) (t : Team) : Option Thaw :=
  (s.thawing t.coreKey).bind (fun h =>
    if t.isHalted && h.owners.contains t.id && (!(t.rowsIn h.rows).isEmpty || t.scratchIn h.scratch) then some h else none)

/-- A team parked at a full device launch queue is written out whole, so that its children are admitted (R293). Its park
goes on, and its tenant's bins stay. -/
def State.writeOut (s : State) (tid : Nat) : State :=
  let s1 := s.saveTeam tid true
  match s1.team? tid with
  | some u => s1.thawRows { u with aheadOfEquals := true } (List.range u.hdr.rows)
  | none => s1

/-- What an allocation or a resume of another tenant needs of a halted team is written to the save area (R344, R346), or a
team parked at a full device launch queue is written out (R293). -/
def execRowThaw (team : Nat) (what : ThawWhat) (s : State) : Host.Outcome State Fault Refusal :=
  match s.team? team with
  | none => .next s
  | some t =>
    let parked : Bool := match t.status with | .parked (.launchQueue _) _ => true | _ => false
    if !s.coreOpen t.coreKey then .next s
    else match what with
      | .rows =>
        if parked then
          (if !t.ctl.inHandler ∧ (s.stuckRows { t with status := .halted true none 0 }).isEmpty ∧ (s.waitingAt t.place.site t.place.cluster).any (fun u => s.sliceOf t.place.site u.ctl.home)
           then .next (s.writeOut team) else .next s)
        else
          (match s.thawFor t with
           | some h => .next ((s.thawRows t (t.rowsIn h.rows)).thawStep t.coreKey)
           | none => .next s)
      | .scratch =>
        (match s.thawFor t with
         | some h => if t.scratchIn h.scratch then .next ((s.thawScratch t).thawStep t.coreKey) else .next s
         | none => .next s)
      | .matrix =>
        let x := (s.core t.coreKey).mx
        if t.isHalted ∧ x.holder.isNone ∧ x.tenant = some t.ctl.home.toNat ∧
            (s.matrixWaiters t.coreKey).any (fun w => w.1.ctl.home != t.ctl.home) then
          .next (s.thawMatrix t.coreKey)
        else .next s

/-! ### Resuming (R343, R345) -/

/-- Row i of a halted team: thawed rows come from the save area. -/
def State.rowOf (s : State) (t : Team) (i : Nat) : List Byte :=
  match t.place.thawed.find? (fun x => x.1 == i) with
  | some (_, r) =>
    match s.saveBase t.place.site t.ctl.home.toNat (t.place.cluster * 64 + t.place.core) with
    | some b => Mem.bytes s.mem (b + r * 256) 256
    | none => List.replicate 256 0
  | none => t.rowBytes i

/-- A halted team as it stands when it is back in rows from `row` on. -/
def State.reloaded (s : State) (t : Team) (row : Nat) : Team :=
  let t1 := match s.slotRecord t with
    | some b => (s.readSlot t b).withRows (s.slotQueues b 0x0028) (s.slotQueues b 0x0020) (s.rowOf t)
    | none => t
  { t1 with
    status := match t.parkedIn with | some (w, since) => .parked w since | none => .running,
    lastIssue := (s.core t.coreKey).slots, resumedAt := s.now, aheadOfEquals := false,
    place := { t1.place with rowBase := row, thawed := [], rowSkip := 0, scratchThawed := false } }

/-- Scratch bytes that have thawed come back to their own offsets (R345). -/
def State.reloadScratch (s : State) (t : Team) : State :=
  if t.place.scratchThawed then
    match s.saveBase t.place.site t.ctl.home.toNat (t.place.cluster * 64 + t.place.core) with
    | some b =>
      let at_ := scratchAt t.place.site t.place.cluster t.place.core + t.place.scratchBase
      { s with mem := Mem.setBytes s.mem at_ (Mem.bytes s.mem (b + 0x168000 + t.place.scratchBase) t.hdr.scratchBytes) }
    | none => s
  else s

/-- A halted team comes back on the core it left, in its tenant's slice; what other tenants' halted teams left in its place
thaws first (R344 to R346). A team written out at a full device launch queue waits for its room there (R293). -/
def execTeamResume (team : Nat) (s : State) : Host.Outcome State Fault Refusal :=
  match s.team? team with
  | none => .next s
  | some t =>
    if !t.isHalted ∨ !s.mayResume t ∨ (t.aheadOfEquals ∧ t.parkedIn.isSome) then .next s
    else match s.resumeRows t with
      | none => .next s
      | some row =>
        let runs := if t.place.thawed.isEmpty then [] else [(row, t.hdr.rows)]
        let out := s.inTheWay t.coreKey t runs t.scratchRun []
        if out.isEmpty then
          let s1 := ((s.reloadScratch t).putTeam (s.reloaded t row)).endThaw t.coreKey team
          .next { s1 with cmds := s1.cmds.map (Cmd.resume s.now team) }
        else .next (s.startThaw t.coreKey t runs t.scratchRun out)

/-! ### `ctxs` and `ctxr` (R360, R362) -/

/-- A designator's cluster, core and slot, when every other bit is zero. SEL may be set for `pidx`. -/
def designator (sel : Bool) (d : Word) : Option (Nat × Nat × Nat) :=
  let v := d.toNat
  if v / 2 ^ 15 ≠ 0 ∨ v / 8 % 2 ≠ 0 ∨ (!sel ∧ v / 2 ^ 12 ≠ 0) then none
  else some (v / 2 ^ 10 % 4, v / 16 % 64, v % 8)

/-- The halted team of a tenant that a designator names. -/
def State.haltedAt (s : State) (site tenant : Nat) (d : Option (Nat × Nat × Nat)) : Option Team :=
  match d with
  | none => none
  | some (cl, co, sl) =>
    s.teams.find? (fun t => t.isHalted && t.place.site == site && t.place.cluster == cl && t.place.core == co &&
      t.place.slot == sl && t.ctl.home.toNat == tenant)

/-- Commands of a team, in the order of its image. -/
def State.cmdsOf (s : State) (tid : Nat) : List Cmd := s.cmds.filter (fun k => k.team == some tid)

/-- A command record of 128 bytes (R362). -/
def Cmd.record (k : Cmd) : List Byte :=
  let head := [BitVec.ofNat 8 k.op, 0] ++ leBytes 2 k.fn ++ leBytes 2 k.lane ++
    [if k.state = CmdState.heldInSet then 1 else 0, 0] ++ leBytes 8 k.upto ++ k.args.flatMap word8
  head ++ List.replicate (128 - head.length) 0

/-- The bytes of a team's context image (R362). -/
def State.image (s : State) (t : Team) (token : Word) : List Byte :=
  let slot := match s.slotRecord t with
    | some b => Mem.bytes s.mem b 0x4000
    | none => List.replicate 0x4000 0
  let scr := t.hdr.scratchBytes
  let scrAt :=
    if t.place.scratchThawed then
      match s.saveBase t.place.site t.ctl.home.toNat (t.place.cluster * 64 + t.place.core) with
      | some b => b + 0x168000 + t.place.scratchBase
      | none => 0
    else scratchAt t.place.site t.place.cluster t.place.core + t.place.scratchBase
  let cs := s.cmdsOf t.id
  slot ++ [t.ctl.home.toNat, t.place.launch, t.hdr.addr.toNat, t.hdr.rows, scr, cs.length, t.place.team, token.toNat].flatMap
      (leBytes 8) ++
    (List.range t.hdr.rows).flatMap (s.rowOf t) ++ Mem.bytes s.mem scrAt scr ++ cs.flatMap Cmd.record

/-- Runs f over the pieces of a range of the own site, after the checks of an access in the order of R49: seam, protection
(of the range, or of what else the instruction names: `bad`), a condition of step 9, then a translation fault that parks. -/
def State.withRange (s : State) (c : Ctx) (a : Word) (n : Nat) (write bad : Bool) (late : Option (Nat × Nat))
    (f : State → List (Nat × Nat × List Nat) → State) : State :=
  let l := c.first
  let r := s.checkRange c.t.party a n write
  if r = .seam then s.trapList c 4 0x02 [(l, a)]
  else if r = .prot then s.trapList c 4 0x03 [(l, a)]
  else if bad then s.trapAll c 4 0x03
  else match late, r with
    | some (cls, code), _ => s.trapAll c cls code
    | none, .broken o r => s.freezeEntry c.t.place.part c.t.place.site o c.t.ctl.acting.toNat r
    | none, _ =>
      match s.xlateRun c.t.party (if write then .write else .read) (n / 65536 + 2) a n with
      | .ok ps => f s ps
      | .bad b => s.trapList c 4 0x03 [(l, b)]
      | .fault b lvl => s.accessFault c write b lvl
      | .broken o r => s.freezeEntry c.t.place.part c.t.place.site o c.t.ctl.acting.toNat r

/-- Bytes of a team's image (R362). -/
def State.imageSize (s : State) (t : Team) : Nat :=
  0x4040 + 256 * t.hdr.rows + t.hdr.scratchBytes + 128 * (s.cmdsOf t.id).length

/-- A team leaves the site under a token: what it holds is freed, and its journal entry names the token (R360). -/
def State.exportTeam (s : State) (t : Team) (token : Word) : State :=
  let s1 := match s.journal? t.place.part t.place.launch with
    | some (_, e) => s.putJournal t.place.part { e with exported := token :: e.exported }
    | none => s
  let s2 := s1.putTeam { t with
    status := .exported token,
    cmdKeep := (s.cmdsOf t.id).map (fun k => { tenant := k.tenant, user := k.user, token := k.token, setCtr := k.setCtr }) }
  { s2 with cmds := s2.cmds.filter (fun k => k.team != some t.id) }

/-- `ctxs` writes a halted team's image and frees what the team holds (R360). -/
def execCtxs (g : Guard) (kb : Fin 32) (s : State) : Host.Outcome State Fault Refusal :=
  s.run { op := 0xF8, sel := .guard g, blk := some (kb, 3), priv := 1 } (fun s c =>
    let a := c.arg1 1
    let team := s.haltedAt c.t.place.site c.t.ctl.acting.toNat (designator false (c.arg1 0))
    let n := match team with | some t => s.imageSize t | none => 0x4040
    if a.toNat % 256 ≠ 0 then s.trapList c 4 0x01 [(c.first, a)]
    else s.withRange c a n true team.isNone (if (c.arg1 2).toNat < n then some (6, 0x02) else none) (fun s ps =>
      match team with
      | none => s
      | some t =>
        -- the stores of the team that leaves its core are applied there first
        let s := s.settleEntries t.id (fun _ => true)
        if s.txGone c.t then s
        else s.afterAll c.t (fun s0 =>
          let token := (Config.freeWord (s0.draw 8 0)).extractLsb' 32 32 ++ BitVec.ofNat 32 s0.uid
          let s1 := { s0 with free := s0.free + 1, uid := s0.uid + 1 }.writePieces ps (s0.image t token)
          (s1.exportTeam t token).commit c id)))

/-- A command as an image's record describes it (R362), for the party and in the set that it had at its export (R257,
R394). -/
def cmdOfRecord (id tid : Nat) (kept : CmdKeep) (site core now : Nat) (b : List Byte) : Cmd :=
  { id, team := some tid, site, core, op := byteAt b 0, fn := numAt b 2 2, lane := numAt b 4 2,
    args := (List.range (cmdArgs (byteAt b 0) + numAt b 2 2 % 2)).map (fun i => wordAt b (0x10 + 8 * i)),
    tenant := kept.tenant, user := kept.user,
    state := if byteAt b 6 = 1 then CmdState.heldInSet else CmdState.stopped, token := kept.token, setCtr := kept.setCtr,
    rewritten := false, issued := now, upto := numAt b 8 8, done := [], segs := [] }

/-- Where a team that comes to a core through `ctxr` would stand. -/
def Team.toCore (t : Team) (site core lsite ldev : Nat) : Team :=
  { t with place := { t.place with site, cluster := coreIdx core / 64, core := core % 64, lsite, ldev } }

/-- The team of a partition that an image names by its token and launch, when its journal entry lists the token and the
tenants agree. -/
def State.tokenTeam (s : State) (part tenant : Nat) (w : Nat → Word) : Option Team :=
  (s.teams.find? (fun t => t.status == .exported (w 7) && t.place.part == part && t.place.launch == (w 1).toNat)).bind (fun t =>
    let listed : Bool := match s.journal? t.place.part t.place.launch with
      | some (_, e) => e.exported.contains (w 7)
      | none => false
    if (w 0).toNat = tenant ∧ t.ctl.home.toNat = tenant ∧ listed then some t else none)

/-- An image becomes a halted team in its place on a core, and its token is used up (R360). -/
def State.importTeam (s : State) (t0 : Team) (core : Nat) (p : Placing) (img : List Byte) (nc : Nat) (token : Word) : State :=
  let site := coreSite core
  let rows := t0.hdr.rows
  let scr := t0.hdr.scratchBytes
  let t1 : Team := { t0 with
    status := .halted (byteAt img 8 / 4 % 2 == 1) none s.now,
    place := { t0.place with
      slot := p.slot, rowBase := p.row, scratchBase := p.scratch, thawed := [], rowSkip := 0, scratchThawed := false } }
  let t2 := t1.withRows (fun i => byteAt img (0x28 + i)) (fun i => byteAt img (0x20 + i))
    (fun i => (img.drop (0x4040 + 256 * i)).take 256)
  let cmds := (List.range nc).map (fun i =>
    let k := cmdOfRecord (s.uid + i) t0.id
      (t0.cmdKeep.getD i { tenant := t0.ctl.acting.toNat, user := !t0.sup, token := none, setCtr := none }) site core s.now
      ((img.drop (0x4040 + 256 * rows + scr + 128 * i)).take 128)
    { k with bigs := s.bigBlocks site (some core) k.tenant k.op k.fn k.args })
  let s3 : State := { s with
    uid := s.uid + nc, cmds := s.cmds ++ cmds,
    mem := Mem.setBytes s.mem (scratchAt site (coreIdx core / 64) (core % 64) + p.scratch)
      ((img.drop (0x4040 + 256 * rows)).take scr) }
  let s4 := match s3.slotRecord t2 with
    | some b => { s3 with mem := Mem.setBytes s3.mem b (img.take 0x4000) }
    | none => s3
  let s5 := match s4.journal? t0.place.part t0.place.launch with
    | some (_, e) => s4.putJournal t0.place.part { e with exported := e.exported.filter (fun x => x != token) }
    | none => s4
  (s5.putTeam { t2 with cmdKeep := [] }).endThaw core t0.id

/-- The target core can take an exported team with its commands now, thaws aside (R360). -/
def State.restorePlace (s : State) (core : Nat) (t0 : Team) (nc : Nat) : Option Placing :=
  if s.coreOpen core && !s.coreHeld core t0 && decide (s.coreEntries core + nc ≤ 256) then s.room core t0 else none

/-- `ctxr` loads an image as a halted team on a core that has room (R360). An image whose sizes disagree with its header is
refused by its length before the range of the rest is checked. DESIGN CHOICE, log 31. -/
def execCtxr (g : Guard) (kb : Fin 32) (s : State) : Host.Outcome State Fault Refusal :=
  s.run { op := 0xF9, sel := .guard g, blk := some (kb, 2), priv := 1 } (fun s c =>
    let a := c.arg1 0
    let site := c.t.place.site
    let des := designator false (c.arg1 1)
    if a.toNat % 256 ≠ 0 then s.trapList c 4 0x01 [(c.first, a)]
    else s.withRange c a 0x4040 false (match des with | some (_, _, sl) => sl != 0 | none => true) none (fun s ps0 =>
      s.afterAll c.t (fun s0 =>
        let (s1, head) := s0.readPieces ps0
        let w (i : Nat) : Word := wordAt head (0x4000 + 8 * i)
        let core := site * 256 + (match des with | some (cl, co, _) => cl * 64 + co | none => 0)
        match s1.tokenTeam c.t.place.part c.t.ctl.acting.toNat w with
        | none => s1.trapList c 4 0x03 [(c.first, a)]
        | some t =>
          if w 2 ≠ t.hdr.addr ∨ (w 3).toNat ≠ t.hdr.rows ∨ (w 4).toNat ≠ t.hdr.scratchBytes ∨ 256 < (w 5).toNat then
            s1.trapAll c 6 0x02
          else
            let nc := (w 5).toNat
            s1.withRange c a (0x4040 + 256 * t.hdr.rows + t.hdr.scratchBytes + 128 * nc) false false none (fun s ps =>
              let t0 := t.toCore site core c.t.place.lsite c.t.place.ldev
              match s.restorePlace core t0 nc with
              | none => s.parkAt c (.restore core t.id nc)
              | some p =>
                let runs := s.runsOf t0 p
                let out := s.inTheWay core t0 runs (p.scratch, t.hdr.scratchBytes) []
                if out.isEmpty then
                  let (s2, img) := s.readPieces ps
                  (s2.importTeam t0 core p img nc (w 7)).commit c id
                else (s.startThaw core t0 runs (p.scratch, t.hdr.scratchBytes) out).parkAt c (.restore core t.id nc)))))

/-! ### Progress indices (R363) -/

/-- SEL of a designator. -/
def selOf (d : Word) : Nat := d.toNat / 2 ^ 12 % 8

/-- The queued matrix word in place i of a slot record: none when there is none. -/
def State.queuedWord (s : State) (b i : Nat) : Option MEntry :=
  let w := Mem.word s.mem (b + 0x1140 + 64 * i)
  if (Mem.word s.mem (b + 8)).getLsbD 24 ∧ w ≠ 0 then
    some { seq := 0, keep := false, spans := [], old := none, word := w.extractLsb' 0 32,
           args := (List.range 6).map (fun j => Mem.word s.mem (b + 0x1148 + 64 * i + 8 * j)),
           tenant := 0, user := false, prog := Mem.read s.mem (b + 0x1178 + 64 * i) 8, stuck := false, again := false }
  else none

/-- The slot record names a long instruction in progress. -/
def State.slotLong (s : State) (b : Nat) : Bool := (Mem.word s.mem (b + 8)).getLsbD 13

/-- The largest index of a queued instruction: its step count, its rows, or 0. -/
def MEntry.extent (e : MEntry) : Nat :=
  if e.op = 0xC1 ∨ e.op = 0xC2 then e.num 3 % 2 ^ 16
  else if e.op = 0xC3 ∨ e.op = 0xC6 then e.m
  else 0

/-- The team that a designator names, with its slot record (R363). -/
def State.withHalted (s : State) (c : Ctx) (d : Word) (f : Team → Nat → State) : State :=
  if 5 ≤ selOf d then s.trapAll c 0 0x01
  else match s.haltedAt c.t.place.site c.t.ctl.acting.toNat (designator true d) with
    | none => s.trapAll c 4 0x03
    | some t =>
      match s.slotRecord t with
      | none => s.trapAll c 4 0x03
      | some b => f t b

/-- `pidx` (R363). -/
def execPidx (g : Guard) (d : Dst) (a : Src) (s : State) : Host.Outcome State Fault Refusal :=
  s.run { op := 0xFD, sel := .guard g, srcs := [a], dst := some d, pass := some a, priv := 1 } (fun s c =>
    let x := lane (c.val 0) c.first
    s.withHalted c x (fun _ b =>
      let v := if selOf x = 0 then (if s.slotLong b then Mem.read s.mem (b + 0x40) 8 else 0)
        else match s.queuedWord b (selOf x - 1) with
          | some e => e.prog
          | none => 0
      s.push c (vtab c.t.nlane (fun _ => BitVec.ofNat 64 v))))

/-- `pidx.set` (R363). -/
def execPidxSet (g : Guard) (a b : Src) (s : State) : Host.Outcome State Fault Refusal :=
  s.run { op := 0xFD, sel := .guard g, srcs := [a, b], priv := 1 } (fun s c =>
    let x := lane (c.val 0) c.first
    let v := (lane (c.val 1) c.first).toNat
    s.withHalted c x (fun t b =>
      let put (o : Nat) : State := { s with mem := Mem.write s.mem (b + o) 8 v }
      if selOf x = 0 then
        (if !s.slotLong b ∨ t.passes < v then s.trapAll c 1 0x09 else (put 0x40).commit c id)
      else
        let i := selOf x - 1
        match s.queuedWord b i with
        | none => s.trapAll c 1 0x09
        | some e =>
          if e.extent < v then s.trapAll c 1 0x09
          else
            let s1 := put (0x1178 + 64 * i)
            let s2 := if i = 0 ∧ !s.slotLong b then { s1 with mem := Mem.write s1.mem (b + 0x40) 8 v } else s1
            s2.commit c id))

end Sys2Proof.Machine
end

