-- ==== Sys2Proof/Machine/Service.lean ====
section
/-! DEFINITION. Servicing translation: `tlbi`, `fbpop`, and the fault buffer's watchdog (R174 to R177, R358, R359). -/

namespace Sys2Proof.Machine

/-! ### The end of a service (R8, R175, R358) -/

/-- A waiter of an entry whose service has ended replays. -/
def State.replay (s : State) : FWaiter → State
  | .team id => s.wakeTeam id none
  | .seg cmd lo =>
    match s.cmd? cmd with
    | some k => s.putCmd { k with segs := k.segs.map (fun (g : Seg) => if g.lo == lo then { g with stuck := false } else g) }
    | none => s
  | .op id =>
    let back (o : RemOp) : RemOp :=
      if o.id = id then
        match o.phase with
        | .waitSrc => { o with phase := .issued }
        | .waitDst => { o with phase := .arrived }
        | .waitReply => { o with phase := .replied }
        | _ => o
      else o
    { s with ops := s.ops.map back }
  | .dep part launch cell => s.examineDep part launch cell
  | .fill id => { s with fills := s.fills.map (fun f => if f.id == id then { f with waiting := false } else f) }
  | .action id => { s with fills := s.fills.map (fun f => if f.id == id then { f with waiting := false } else f) }
  | .output site inst index =>
    let x := s.site site
    s.putSite { x with insts := x.insts.map (fun (y : XInst) =>
      if y.id == inst then
        { y with members := y.members.map (fun (m : XMember) => if m.index == index then { m with stuck := false } else m) }
      else y) }
  | .sequencer core =>
    let s1 := s.setMx core (fun x => x.head (fun e => some { e with stuck := false }))
    match (s1.core core).mx.holder.bind s1.team? with
    | some t => match t.status with | .parked .matrixFault _ => s1.wakeTeam t.id none | _ => s1
    | none => s1

def State.replayAll (s : State) (site tenant page : Nat) (ws : List FWaiter) : State :=
  ws.foldl (fun s w => if s.stillWaits site tenant page w then s.replay w else s) s

/-- Faults that wait for a place take the places that are free, in order: one that waits no more gives way, one whose page
the service covers replays, one whose page has an entry joins it (R175). -/
def State.fillPlaces (s : State) (site tenant : Nat) (f : Nat → Bool) : State :=
  let x := s.site site
  if x.fbWaits.isEmpty then s
  else
    x.fbWaits.foldl (fun s w =>
      if !s.stillWaits site w.tenant w.page w.who then s
      else if w.tenant = tenant ∧ f w.page then s.replay w.who
      else
        let (placed, s1) := s.pageFault site w.tenant w.page w.wrt w.fet w.eng w.lvl w.first w.who
        match w.who with
        | .team id => if placed then s1.repark id (.translation site w.tenant w.page) else s1
        | _ => s1) (s.putSite { x with fbWaits := [], fbSince := none })

/-- Ends the service of every translation entry of the tenant whose page satisfies f; the places that free are taken by
faults that waited for one (R175). -/
def State.endService (s : State) (site tenant : Nat) (f : Nat → Bool) : State :=
  let x := s.site site
  let covered (e : FbEntry) : Bool := match e with | .page t p .. => t == tenant && f p | .event .. => false
  let (gone, stay) := x.fbuf.partition covered
  if gone.isEmpty then s
  else
    (gone.foldl (fun s e => match e with
      | .page t p _ _ _ _ _ _ ws => s.replayAll site t p ws
      | .event .. => s) (s.putSite { x with fbuf := stay })).fillPlaces site tenant f

/-! ### `tlbi` (R174, R358) -/

/-- A TLB entry covers the page of an offset. -/
def TlbEntry.covers (e : TlbEntry) (tenant ofs : Nat) : Bool :=
  e.tenant == tenant && (if e.leaf.big then e.page / 512 == ofs / 2 ^ 25 else e.page == ofs / 2 ^ 16)

/-- Physical byte ranges that the entries of a site's TLBs reach, for entries that satisfy f. -/
def State.framesOf (s : State) (site : Nat) (f : TlbEntry → Bool) : List (Nat × Nat) :=
  (s.cores.filter (fun c => coreSite c.key == site)).flatMap (fun c =>
    (c.tlb.filter f).map (fun e => (siteBase site + e.leaf.frame, if e.leaf.big then 2 ^ 25 else 2 ^ 16)))

/-- Every access already translated through an entry is applied or has returned (R358). -/
def State.settleFrames (s : State) (site : Nat) (fr : List (Nat × Nat)) : State :=
  let hit (a : Nat) : Bool := fr.any (fun r => decide (r.1 ≤ a) && decide (a < r.1 + r.2))
  ((s.teams.filter (fun t => t.place.site == site)).map (fun t => t.id)).foldl (fun s id =>
    match s.team? id with
    | none => s
    | some t =>
      let s1 := s.forceAll t.coreKey ((t.pend.filter (fun p => p.lanes.any (fun a => hit a.addr))).map
        (fun p => Item.pend id p.id))
      (s1.settleEntries id (fun e => hit (e.line * 64))).placeWrites id (fun w => hit w.addr)) s

/-- The words of a packet of an `xput` that has landed in part land: as many steps as the fuel. -/
def State.landRest (s : State) (id : Nat) : Nat → State
  | 0 => s
  | fuel + 1 =>
    match s.op? id with
    | some o => if o.phase = .landing then (s.landWord o).landRest id fuel else s
    | none => s
/-- The same of every such packet at a site of this incarnation: its places are translated already (R358). -/
def State.landAll (s : State) (site : Nat) : State :=
  (s.ops.filter (fun o => o.dsite == site && o.phase == .landing && o.inc == (s.site site).inc)).foldl
    (fun s o => s.landRest o.id (o.places.length + 1)) s

/-- Removes the TLB entries of a site that satisfy f, accesses already translated settled first. -/
def State.dropTlb (s : State) (site : Nat) (f : TlbEntry → Bool) : State :=
  let s1 := (s.landAll site).settleFrames site (s.framesOf site f)
  { s1 with cores := s1.cores.map (fun c =>
      if coreSite c.key == site then { c with tlb := c.tlb.filter (fun e => !f e) } else c) }

/-- The page of an offset as a test of 64 KiB page numbers: all of a 32 MiB leaf where one maps it (R358). -/
def State.samePage (s : State) (site tenant ofs : Nat) (page : Nat) : Bool :=
  let big := match s.tenantDesc site tenant with
    | some d => (match walkTable s site d.root tenant ofs with | .leaf l => l.big | _ => false)
    | none => false
  if big then page / 512 == ofs / 2 ^ 25 else page == ofs / 2 ^ 16

/-- `tlbi a` (R358). -/
def execTlbi (g : Guard) (a : Src) (s : State) : Host.Outcome State Fault Refusal :=
  s.run { op := 0xFA, sel := .guard g, srcs := [a], priv := 1 } (fun s c =>
    let site := c.t.place.site
    let tenant := c.t.ctl.acting.toNat
    let ofs := gOfs (lane (c.val 0) c.first)
    let s1 := (s.settleStores c.t.id).dropTlb site (fun e => e.covers tenant ofs)
    (s1.commit c id).endService site tenant (s1.samePage site tenant ofs))

/-- The packet has not been applied at the site that its name gave. -/
def RemOp.unapplied (o : RemOp) : Bool :=
  match o.phase with
  | .applied => false
  | .failed => false
  | .waitReply => false
  | .replied => false
  | _ => true

/-- What a site has sent through name-cache entries and no port has applied: remote operations and reduction packets. -/
def State.sentThrough (s : State) (site : Nat) (es : List NameEntry) : List Nat :=
  (s.ops.filter (fun o => o.site == site && o.unapplied && es.any (fun e => e.tenant == o.tenant && e.ldev == gDev o.dest &&
    e.lsite == gSite o.dest && e.site == o.dsite && e.inc == o.inc))).map (fun o => o.id) ++
  (s.xpkts.filter (fun p => p.src == site && es.any (fun e => e.tenant == p.namer && e.site == p.dst && e.inc == p.inc))).map
    (fun p => p.id)

/-- Removes the name-cache entries of a site that satisfy f; the team parks until what was resolved through them has been
applied (R358). A wake says that it has. -/
def State.dropNames (s : State) (c : Ctx) (site : Nat) (f : NameEntry → Bool) (k : State → State) : State :=
  if c.wake.isSome then k s
  else
    let x := s.site site
    let ids := s.sentThrough site (x.names.filter f)
    let s1 := s.putSite { x with names := x.names.filter (fun e => !f e) }
    if ids.isEmpty then k s1 else s1.parkAt c (.named ids)

/-- `tlbi.name a` (R358). -/
def execTlbiName (g : Guard) (a : Src) (s : State) : Host.Outcome State Fault Refusal :=
  s.run { op := 0xFA, sel := .guard g, srcs := [a], priv := 1 } (fun s c =>
    let tenant := c.t.ctl.acting.toNat
    let v := lane (c.val 0) c.first
    (s.settleStores c.t.id).dropNames c c.t.place.site
      (fun e => e.tenant == tenant && e.ldev == gDev v && e.lsite == gSite v) (fun s => s.commit c id))

/-- `tlbi.all` (R358). -/
def execTlbiAll (g : Guard) (s : State) : Host.Outcome State Fault Refusal :=
  s.run { op := 0xFA, sel := .guard g, priv := 1 } (fun s c =>
    let site := c.t.place.site
    let tenant := c.t.ctl.acting.toNat
    ((s.settleStores c.t.id).dropTlb site (fun e => e.tenant == tenant)).dropNames c site (fun e => e.tenant == tenant)
      (fun s => (s.commit c id).endService site tenant (fun _ => true)))

/-! ### `fbpop` (R176, R359) -/

/-- Word 0 and word 1 of an entry. -/
def FbEntry.words : FbEntry → Word × Word
  | .page tenant pg wrt fet eng lvl first _ ws =>
    (BitVec.ofNat 64 (tenant * 2 ^ 48 + (if wrt then 2 ^ 47 else 0) + (if fet then 2 ^ 46 else 0) +
      (if eng then 2 ^ 45 else 0) + (if lvl then 2 ^ 44 else 0) + min ws.length 4095 * 2 ^ 32 + pg % 2 ^ 21), first)
  | .event w0 w1 => (w0, w1)

def FbEntry.waits : FbEntry → Bool
  | .page _ _ _ _ _ _ _ popped _ => !popped
  | .event .. => true

/-- Takes the oldest entry out of the pop order: a translation entry stays, popped; an event leaves. -/
def popFirst : List FbEntry → Option (FbEntry × List FbEntry)
  | [] => none
  | e :: r =>
    if e.waits then
      match e with
      | .page t p w f g l a _ ws => some (e, .page t p w f g l a true ws :: r)
      | .event .. => some (e, r)
    else (popFirst r).map (fun x => (x.1, e :: x.2))

/-- `fbpop` (R359). -/
def execFbpop (g : Guard) (d : Dst) (s : State) : Host.Outcome State Fault Refusal :=
  s.run { op := 0xFB, sel := .guard g, dst := some d, priv := 1 } (fun s c =>
    let x := s.site c.t.place.site
    let (w0, w1, s1) : Word × Word × State := match popFirst x.fbuf with
      | some (e, rest) => (e.words.1, e.words.2, s.putSite { x with fbuf := rest })
      | none => (0, 0, s)
    s1.commit c (fun t => { t.pushAll c.sh c.act (vtab t.nlane (fun _ => w0)) c.pass with fbWord1 := w1 }))

/-- `fbpop.w1` (R359). -/
def execFbpopW1 (g : Guard) (d : Dst) (s : State) : Host.Outcome State Fault Refusal :=
  s.run { op := 0xFB, sel := .guard g, dst := some d, priv := 1 } (fun s c =>
    s.push c (vtab c.t.nlane (fun _ => c.t.fbWord1)))

/-- Faults have waited 1 ms for a place in the buffer since the first did, or since one last freed: group 0x06, KIND 0 (R175,
R367). -/
def execFaultBufferWatchdog (site : Nat) (s : State) : Host.Outcome State Fault Refusal :=
  let x := s.site site
  match x.fbSince, s.placeWaiters site with
  | some t, w :: _ =>
    if t + us 1000 ≤ s.now ∧ s.live site then
      .next (s.freezePart (s.partOf site) site 549
        (BitVec.ofNat 96 (6 * 2 ^ 91 + x.lsite * 2 ^ 82 + w.tenant * 2 ^ 58)))
    else .next s
  | _, _ => .next s

end Sys2Proof.Machine
end

