-- ==== Sys2Proof/Machine/Freeze.lean ====
section
/-! DEFINITION. Faults, the freeze line, its records and its release, recovery, and the retirement log's entries
(R364 to R368, R371, R385, R386). -/

namespace Sys2Proof.Machine

/-! ### Records and detail (R365 to R367) -/

/-- Core cycles from the rise to the stop of unit u. -/
def frzSkid (seed u : Nat) : Nat := Config.freeNat (seed + u) % 65

/-- The units whose held operations this model does not tell apart: the four engines and the ports. -/
def sharedUnit (u : Nat) : Bool := decide (512 ≤ u ∧ u ≤ 515) || decide (517 ≤ u ∧ u ≤ 548)

/-- The replicas of a partition's journal that are left, and its state; with none it is lost, and the management port says so
(R368, R389). -/
def State.journalLeft (s : State) (p : Partition) (left : List Nat) (st : PState) : State :=
  let s1 := s.putPart { p with replicas := left, state := if left.isEmpty then PState.lost else st }
  if left.isEmpty && p.state != .lost then { s1 with reports := s1.reports ++ [.journalLost p.id] } else s1

/-- The 128 bytes of a unit's record; all zero before the site's first freeze. -/
def State.freezeRecord (s : State) (site u : Nat) : List Byte :=
  let x := s.site site
  match x.frzSeed with
  | none => List.replicate 128 0
  | some seed =>
    let skid := frzSkid seed u
    let held : List Byte :=
      match x.frzRecs.find? (fun r => r.1 == u) with
      | some r => r.2
      | none =>
        leBytes 8 (if sharedUnit u then (Config.freeWord (seed + u)).toNat else 0) ++ List.replicate 64 0
    leBytes 8 (x.lsite * 2 ^ 16 + u) ++ leBytes 8 (x.frzClock.toNat + skid) ++ leBytes 8 skid ++
      leBytes 12 (if u = x.frzUnit then x.frzDetail.toNat else 0) ++ List.replicate 4 0 ++ held ++ List.replicate 16 0

/-- Writes bytes at a 16-aligned destination of the own site, and completes (R366). The home tenant governs it (R394). -/
def State.frzWrite (s : State) (c : Ctx) (bad : Bool) (a : Word) (bs : List Byte) : State :=
  if a.toNat % 16 ≠ 0 then s.trapList c 4 0x01 [(c.first, a)]
  else s.withRange c.asHome a bs.length true bad none (fun s ps => ((s.settleStores c.t.id).writePieces ps bs).commit c id)

/-- `frz` (R366). -/
def execFrz (g : Guard) (kb : Fin 32) (s : State) : Host.Outcome State Fault Refusal :=
  s.run { op := 0xFC, sel := .guard g, blk := some (kb, 2), priv := 2 } (fun s c =>
    s.frzWrite c (decide (550 < (c.arg1 0).toNat)) (c.arg1 1) (s.freezeRecord c.t.place.site (c.arg1 0).toNat))

/-- `frz.detail` (R366). -/
def execFrzDetail (g : Guard) (kb : Fin 32) (s : State) : Host.Outcome State Fault Refusal :=
  s.run { op := 0xFC, sel := .guard g, blk := some (kb, 2), priv := 2 } (fun s c =>
    s.frzWrite c (c.arg1 0 != 0) (c.arg1 1) (leBytes 16 (s.site c.t.place.site).detail.toNat))

/-! ### Release (R364, R366, R368) -/

/-- The launches of a partition that have failed. -/
def Partition.failedLaunches (p : Partition) : List Nat := (p.journal.filter (fun e => e.state == .failed)).map (fun e => e.launch)

/-- Write-buffer entries, queued operations and engine commands of failed launches are discarded (R364). -/
def State.discardFailed (s0 : State) (p : Partition) : State :=
  let failed := p.failedLaunches
  let ids := (s0.teams.filter (fun t => t.place.part == p.id && failed.contains t.place.launch)).map (fun t => t.id)
  let s := s0.dropOps (fun o => ids.contains o.team)
  let gone (o : Option Nat) : Bool := match o with | some t => ids.contains t | none => false
  { s with
    teams := s.teams.map (fun t => if ids.contains t.id then { t with pend := [], deferred := [], mwr := [], savedMx := none } else t),
    cores := s.cores.map (fun c => { c with
      wbuf := c.wbuf.filter (fun e => !ids.contains e.team),
      mx := if gone c.mx.holder then { c.mx with queue := [], holder := none } else c.mx }),
    cmds := s.cmds.filter (fun k => !gone k.team),
    incs := s.incs.filter (fun i => !gone i.team) }

/-- Bammusan of a site reports its incarnation to the supervisor of every partition that lists the site (R269). -/
def State.reportInc (s : State) (site : Nat) : State :=
  { s with reports := s.reports ++ (s.parts.filter (fun p => p.sites.contains site)).map (fun p =>
      Report.incarnation p.id site (s.site site).inc) }

/-- A site runs again: its incarnation has advanced and is reported, and the notifies that the freeze held are taken (R364). -/
def State.thawSite (s : State) (site : Nat) : State :=
  let x := s.site site
  x.heldNotes.foldl (fun s n => s.notify site n.1 n.2)
    (State.reportInc (s.putSite { x with frozen := false, frzHeld := false, inc := x.inc + 1, detail := 0, heldNotes := [] }) site)

/-- The line falls: incarnations advance, what failed launches held is discarded, the units run again. -/
def State.lineFalls (s : State) (p : Partition) : State :=
  let s1 := s.discardFailed p
  let s2 := match p.state with
    | .lost => s1
    | .running | .frozen | .recovering => s1.putPart { p with state := .running }
  (p.sites.filter (fun k => (s2.site k).part == some p.id)).foldl (fun s k => s.thawSite k) s2

/-- A site drops its contribution to the freeze line. -/
def State.releaseSite (s : State) (site : Nat) : State :=
  let x := s.site site
  if !x.frozen then s
  else
    let s1 := s.putSite { x with frzHeld := false }
    match x.part.bind s1.part? with
    | none => s1.thawSite site
    | some p => if p.sites.any (fun k => (s1.site k).part == some p.id && (s1.site k).frzHeld) then s1 else s1.lineFalls p

/-- `frz.release` (R366). -/
def execFrzRelease (g : Guard) (kb : Fin 32) (s : State) : Host.Outcome State Fault Refusal :=
  s.run { op := 0xFC, sel := .guard g, blk := some (kb, 2), priv := 2 } (fun s c =>
    if c.arg1 0 ≠ 0 ∨ c.arg1 1 ≠ 0 then s.trapAll c 4 0x03
    else (s.commit c id).releaseSite c.t.place.site)

/-! ### Faults (R364, R367, R385, R386) -/

/-- A detail word is of a group and kind that R367 names, and zero where its group names nothing. -/
def detailOk (d : BitVec 96) : Bool :=
  let kinds (n low : Nat) : Bool := decide ((d.extractLsb' 88 3).toNat < n) && d.toNat % 2 ^ low == 0
  match (d.extractLsb' 91 5).toNat with
  | 1 => kinds 4 21
  | 2 => kinds 4 43
  | 3 => kinds 2 24
  | 4 => kinds 5 56
  | 5 => kinds 3 72
  | 6 => kinds 5 58
  | _ => false

/-- A unit whose checks correct and count errors: a core, whose scratch it is, or a vault port (R366, R369). -/
def correcting (unit : Nat) : Bool := decide (unit < 256) || decide (517 ≤ unit ∧ unit ≤ 532)

/-- A check of the hardware finds an error: one that cannot be corrected raises the line, its detail naming its group and the
unit's logical site; with no group it is one of scratch or vault that is corrected, written back and counted (R367, R369). -/
def execFreeze (site unit : Nat) (detail : BitVec 96) (s : State) : Host.Outcome State Fault Refusal :=
  let x := s.site site
  if s.live site ∧ unit ≤ 550 ∧ detailOk detail ∧ (detail.extractLsb' 82 6).toNat = x.lsite then
    .next (s.freezePart (s.partOf site) site unit detail)
  else if s.live site ∧ detail = 0 ∧ correcting unit then .next (s.putSite { x with corrected := x.corrected + 1 })
  else .next s

/-- Detail words of the groups that watchdogs, the supply and the sensors raise. -/
def detailSched (kind lsite cluster core tenant : Nat) : BitVec 96 :=
  BitVec.ofNat 96 (6 * 2 ^ 91 + kind * 2 ^ 88 + lsite * 2 ^ 82 + cluster * 2 ^ 80 + core * 2 ^ 74 + tenant * 2 ^ 58)
def detailEngine (kind lsite engine op tenant pidx : Nat) : BitVec 96 :=
  BitVec.ofNat 96 (3 * 2 ^ 91 + kind * 2 ^ 88 + lsite * 2 ^ 82 + engine * 2 ^ 80 + op * 2 ^ 72 + tenant * 2 ^ 56 +
    pidx % 2 ^ 32 * 2 ^ 24)
def detailHard (kind lsite cluster place value : Nat) : BitVec 96 :=
  BitVec.ofNat 96 (4 * 2 ^ 91 + kind * 2 ^ 88 + lsite * 2 ^ 82 + cluster * 2 ^ 80 + place % 256 * 2 ^ 72 + value % 65536 * 2 ^ 56)

/-- A thaw in progress on a core has taken the 100 µs of R346. -/
def State.thawLate (s : State) (core : Nat) : Bool := (s.thawing core).any (fun h => decide (h.since + us 100 ≤ s.now))

/-- The tenant whose rows or scratch a thaw on a core still has to write out. -/
def State.thawTenant (s : State) (core : Nat) : Nat :=
  match s.thawing core with
  | none => 0
  | some h =>
    match (s.onCore core h.team).find? (fun u => h.owners.contains u.id && u.isHalted && (!(u.rowsIn h.rows).isEmpty || u.scratchIn h.scratch)) with
    | some u => u.ctl.home.toNat
    | none => 0

/-- A bound of R367 passes: an engine without progress for 1 ms, a journal commit over 10 ms, a thaw over 100 µs
(R346), a sequencer idle 10 ms with work queued. -/
def execWatchdogTimeout (site : Nat) (k : WatchKind) (s : State) : Host.Outcome State Fault Refusal :=
  let x := s.site site
  let part := s.partOf site
  if !s.live site then .next s
  else match k with
  | .engineIdle e =>
    (match s.cmds.find? (fun c => c.site == site && c.state == CmdState.flight && c.segs.all (fun g => !g.stuck) &&
        decide (c.issued + us 1000 ≤ s.now)) with
     | some c =>
       if e < 4 then .next (s.freezePart part site (512 + e) (detailEngine 1 x.lsite e c.op c.tenant c.progress)) else .next s
     | none => .next s)
  | .journalCommit =>
    (match s.part? part with
     | some p =>
       (match p.intake.find? (fun i => decide (i.since + us 10000 ≤ s.now)) with
        | some i => if x.part = some part then .next (s.freezePart part site 550 (detailSched 1 x.lsite 0 0 i.tenant)) else .next s
        | none => .next s)
     | none => .next s)
  | .thawBound =>
    (match s.cores.find? (fun c => coreSite c.key == site && s.thawLate c.key) with
     | some c =>
       .next (s.freezePart part site 550 (detailSched 2 x.lsite (coreIdx c.key / 64) (coreIdx c.key % 64) (s.thawTenant c.key)))
     | none => .next s)
  | .sequencerIdle c =>
    let m := (s.core c).mx
    (match m.queue with
     | e :: _ =>
       if coreSite c = site ∧ !e.stuck ∧ m.moved + us 10000 ≤ s.now then
         .next (s.freezePart part site 550 (detailSched 3 x.lsite (coreIdx c / 64) (coreIdx c % 64) e.tenant))
       else .next s
     | [] => .next s)

/-- A reading that the regulator reports: the 48 V input outside 44 V to 54 V, down to the 40 V below which the site stops without a
record, or the 650 mV core rail more than 5 % off (R385). -/
def supplyFaulty : SupplyReading → Bool
  | .input mv => decide (40000 ≤ mv) && (decide (mv < 44000) || decide (54000 < mv))
  | .core mv => decide (mv * 20 < 650 * 19) || decide (650 * 21 < mv * 20)

/-- The millivolts that a supply fault's record holds (R367). -/
def supplyMillivolts : SupplyReading → Nat
  | .input mv => mv
  | .core mv => mv

/-- The regulator reports a rail out of its range (R385). No unit of R366 raises it. -/
def execSupplyFault (site : Nat) (reading : SupplyReading) (s : State) : Host.Outcome State Fault Refusal :=
  if s.live site ∧ supplyFaulty reading then
    .next (s.freezePart (s.partOf site) site 0xFFFF (detailHard 0 (s.site site).lsite 0 0 (supplyMillivolts reading)))
  else .next s

/-- The site scheduler reads the hottest sensor of a cluster (R386). Which core it stands at is not told. -/
def execThermalSample (site cluster tenths : Nat) (s : State) : Host.Outcome State Fault Refusal :=
  if !s.live site ∨ 4 ≤ cluster then .next s
  else
    let x := s.site site
    let rest := x.mgmt.throttled.filter (fun c => c != cluster)
    let s1 := s.putSite { x with mgmt := { x.mgmt with throttled := if 900 ≤ tenths then cluster :: rest else rest } }
    if 1000 ≤ tenths then
      .next (s1.freezePart (s.partOf site) site 550 (detailHard 1 x.lsite cluster (Config.freeNat (s.draw 3 site)) tenths))
    else .next s1

/-! ### The retirement log (R371) -/

def logCommit (seq : Nat) : Word := BitVec.ofNat 64 seq ^^^ 0xA5A5A5A5A5A5A5A5
def entryDigest (e : List Byte) : List Byte := (e.drop 0x100).take 64
def fixLen (n : Nat) (bs : List Byte) : List Byte := (bs ++ List.replicate n 0).take n

/-- An entry of 512 bytes. -/
def logEntry (seq kind unit boot : Nat) (test : Word) (prev sig : List Byte) : List Byte :=
  let head := leBytes 8 seq ++ leBytes 4 kind ++ leBytes 4 unit ++ leBytes 8 boot ++ leBytes 8 test.toNat ++ fixLen 64 prev ++
    fixLen 114 sig ++ List.replicate 46 0
  head ++ fixLen 64 (Config.shake256 head) ++ List.replicate 184 0 ++ leBytes 8 (logCommit seq).toNat

def logFull (l : List (List Byte)) : Bool := decide (4096 ≤ l.length)

/-- Appends an entry, when the log has room. -/
def appendLog (l : List (List Byte)) (kind unit boot : Nat) (test : Word) (sig : List Byte) : List (List Byte) :=
  if logFull l then l
  else l ++ [logEntry (l.length + 1) kind unit boot test (match l.getLast? with | some e => entryDigest e | none => []) sig]

/-- Number, kind, unit and test word of an entry. -/
def entryNum (e : List Byte) (o n : Nat) : Nat := leNat ((e.drop o).take n)
def entryKind (e : List Byte) : Nat := entryNum e 8 4
def entryUnit (e : List Byte) : Nat := entryNum e 0x0C 4

/-- Retirement SEQ is lifted by a later entry. -/
def lifted (l : List (List Byte)) (seq : Nat) : Bool := l.any (fun e => entryKind e == 2 && entryNum e 0x18 8 == seq)
/-- Units retired and not lifted. -/
def retiredUnits (l : List (List Byte)) : List Nat :=
  (l.filter (fun e => entryKind e == 1 && !lifted l (entryNum e 0 8))).map entryUnit

/-! ### Recovery (R368) -/

/-- The launches that run fail, and their teams stop. -/
def State.failRunning (s : State) (p : Partition) : State :=
  (p.journal.filter (fun e => e.state == .running)).foldl (fun s e => s.failLaunch p.id e.launch) s

/-- Tiles of tenants that a thaw has written out are cleared too: their slots, their row sums and their bytes in the save areas of a
site (R344, R368). -/
def State.clearThawed (s : State) (tenants : List Nat) (site : Nat) : State :=
  (s.cores.filter (fun c => coreSite c.key == site)).foldl (fun s c =>
    (c.mx.out.filter (fun o => tenants.contains o.tenant)).foldl (fun s o =>
      match s.saveBase site o.tenant (coreIdx c.key) with
      | some b => { s with mem := Mem.clear s.mem (b + 0x120000) (b + 0x164000) }
      | none => s) s) s

/-- Repair of a site: the line that failed reads zeros, rime arrays and the tiles of failed launches are cleared,
watchdogs start again. -/
def State.repairSite (s : State) (failed : List Nat) (part site : Nat) : State :=
  let x := s.site site
  let ofs := (x.detail.extractLsb' 45 37).toNat
  let memory := x.detail.extractLsb' 91 5 == 1 && decide ((x.detail.extractLsb' 88 3).toNat ≤ 2)
  let a := siteBase site + ofs / 64 * 64
  let s1 := if memory then { s with mem := Mem.clear s.mem a (a + 64) } else s
  let tenants := (s1.teams.filter (fun t => t.place.part == part && failed.contains t.place.launch)).map (fun t => t.ctl.home.toNat)
  let clean (c : Core) : Core :=
    if coreSite c.key ≠ site then c
    else
      let out := c.mx.out.map (fun (o : MxOut) => if tenants.contains o.tenant then { o with slots := List.replicate 8 {} } else o)
      let m := { c.mx with rl := none, moved := s.now, out }
      let c1 : Core := { c with thaw := c.thaw.map (fun (h : Thaw) => { h with since := s.now }) }
      match m.tenant with
      | some t => if tenants.contains t then { c1 with mx := { m with acc := [], slots := List.replicate 8 {} } }
                    else { c1 with mx := m }
      | none => { c1 with mx := m }
  let s0 := s1.clearThawed tenants site
  let s2 := { s0 with
    cores := s0.cores.map clean,
    cmds := s1.cmds.map (fun (k : Cmd) => if k.site == site then { k with issued := s.now } else k) }
  s2.putSite { x with fbSince := x.fbSince.map (fun _ => s.now) }

/-- A failed part of a site is fenced until the next build, and its retirement appended. A part is named by its site's
key × 2^32 + UNIT (R371). The test that it failed is named by the machine. A fenced core takes no team, no packet goes through a
fenced mesh link, and no journal replica onto a site with a fenced DRAM channel. -/
def State.fence (s : State) (v : Nat) : State :=
  let site := v / 2 ^ 32
  let unit := v % 2 ^ 32
  let x := s.site site
  let cell := unit % 2 ^ 28
  let logical := if unit / 2 ^ 28 = 0 then
      ((List.range 64).filter (fun n =>
        ((x.grid.getD (cell / 256) []).getD n (n / 8, n % 8)) == (cell % 256 / 16, cell % 16))).map (fun n => cell / 256 * 64 + n)
    else []
  s.putSite { x with
    fenced := x.fenced ++ logical, fencedParts := x.fencedParts ++ [unit],
    mgmt := { x.mgmt with log := appendLog x.mgmt.log 1 unit x.mgmt.bootCount (Config.freeWord (s.draw 4 unit)) [] } }

/-- Replicas of a journal are found lost, by their places in its list; with all of them the partition is, which the management
port reports. -/
def State.loseReplicas (s : State) (p : Partition) (lost : List Nat) : State :=
  let left := (p.replicas.zipIdx.filter (fun r => !lost.contains r.2)).map (fun r => r.1)
  s.journalLeft p left .recovering

/-- Bammusan moves a partition that has frozen one state on: the records read, its running launches fail and its
journal's replicas are checked; then, with both replicas standing, the damage is repaired, watchdogs start again, failed
parts are fenced and every site is released. -/
def execPartitionRecovery (part : Nat) (failed : List Nat) (lostReplicas : List Nat) (s : State) :
    Host.Outcome State Fault Refusal :=
  match s.part? part with
  | none => .next s
  | some p =>
    match p.state with
    | .frozen =>
      let s1 := s.failRunning p
      (match s1.part? part with
       | none => .next s1
       | some q => .next (s1.loseReplicas q lostReplicas))
    | .recovering =>
      if lostReplicas ≠ [] then .next (s.loseReplicas p lostReplicas)
      else if p.replicas.length ≠ 2 then .next s
      else
        let mine := p.sites.filter (fun k => (s.site k).part == some part)
        let s0 := s.putPart { p with intake := p.intake.map (fun (i : Intake) => { i with since := s.now }) }
        let s1 := mine.foldl (fun s k => s.repairSite p.failedLaunches part k) s0
        let s2 := (failed.filter (fun v => mine.contains (v / 2 ^ 32))).foldl (fun s v => s.fence v) s1
        .next (mine.foldl (fun s k => s.releaseSite k) s2)
    | .running => .next s
    | .lost => .next s

/-- No DRAM channel of the site is retired or fenced: its DRAM passed self-test (R282, R368, R372). -/
def dramGood (x : Site) : Bool := (retiredUnits x.mgmt.log ++ x.fencedParts).all (fun u => u / 2 ^ 28 != 2)

/-- A lost journal replica is built again from the survivor, on another site of the partition whose DRAM is good, or in a
partition of one site on its other channel (R283). -/
def execJournalReplicaRebuild (part target : Nat) (s : State) : Host.Outcome State Fault Refusal :=
  match s.part? part with
  | none => .next s
  | some p =>
    match p.replicas with
    | [k] =>
      let other := (p.sites.filter (fun y => (s.site y).part == some part)).length ≤ 1 ∨
        (target ≠ k ∧ dramGood (s.site target))
      if (s.site target).part = some part ∧ (s.site target).mgmt.powered ∧ other ∧ p.state ≠ .lost then
        .next (s.putPart { p with
          replicas := [k, target],
          journal := p.journal.map (fun e => { e with replicas := [k, target] }) })
      else .next s
    | _ => .next s

end Sys2Proof.Machine
end

