-- ==== Sys2Proof/Machine/Manage.lean ====
section
/-! DEFINITION. The end of a team (R61), control registers written by the supervisor (R266, R278, R338, R354, R393),
and management: resets, builds, firmware, attestation and the host's windows (R334 to R336, R347, R371 to R373,
R385 to R392). Commands of the management port are taken whole, in one step each. -/

namespace Sys2Proof.Machine

/-! ### A team retires (R27, R61, R283) -/

/-- Everything a retiring team issued is over, its loads apart, which are discarded (R61). -/
def State.teamOver (s : State) (t : Team) : Bool :=
  t.pend.all (fun p => match p.op with | .load _ _ => true | .atom _ _ => false) && (s.matrixAll t).isEmpty &&
    !(s.core t.coreKey).wbuf.any (fun e => e.team == t.id) && !s.cmds.any (fun k => k.team == some t.id) &&
    !s.ops.any (fun o => o.team == t.id) && !s.incs.any (fun i => i.team == some t.id) && t.handles.all s.partDone

/-- A launch's teams have all retired, and none is still to come from a bin. -/
def State.launchOver (s : State) (part launch : Nat) : Bool :=
  s.teams.all (fun t => t.place.part != part || t.place.launch != launch || t.status == .retired) &&
    s.sites.all (fun x => x.bins.all (fun b => b.part != part || b.launch != launch))

/-- A launch that is over is done, and its completion cell takes 0x00 (R27, R283). -/
def State.finishLaunch (s : State) (part launch : Nat) : State :=
  match s.journal? part launch with
  | none => s
  | some (_, e) =>
    if e.state = .running ∧ s.launchOver part launch then
      (s.putJournal part { e with state := .done }).complete part e.tenant e.hdr.supervisor e.lrec.comp 0
    else s

/-- A retiring team whose work is over, its matrix stores applied, gives its slot, rows and scratch back. -/
def execTeamRetire (team : Nat) (s : State) : Host.Outcome State Fault Refusal :=
  match s.team? team with
  | none => .next s
  | some t =>
    if t.status = .retiring ∧ s.teamOver t ∧ s.live t.place.site then
      let s1 := ((s.placeWrites team (fun _ => true)).closeParts t.handles).releaseMatrix t
      let s2 := s1.putTeam { t with status := .retired, handles := [], savedMx := none, pend := [], mwr := [] }
      .next (s2.finishLaunch t.place.part t.place.launch)
    else .next s

/-! ### Control registers and the tenant table (R266, R278, R338, R354, R393) -/

/-- A control register write that is refused changes nothing. -/
def State.ctlApply (s : State) (site ofs : Nat) (v : Word) (monitor : Bool) : State :=
  if s.live site ∧ ctlPlace site ofs = .register ∧ ofs % 8 = 0 then (s.ctlWrite site ofs v monitor).getD s else s

def execTenantDescriptorWrite (site ofs size : Nat) (value : BitVec 128) (_monitor : Bool) (s : State) :
    Host.Outcome State Fault Refusal :=
  if s.live site ∧ (size = 1 ∨ size = 2 ∨ size = 4 ∨ size = 8 ∨ size = 16) ∧ ofs % size = 0 ∧ ofs + size ≤ 0x1000 then
    .next ((s.tableWrite site (tenantTable + ofs) (leBytes size value.toNat)).getD s)
  else .next s
def execTvbdefWrite (site i : Nat) (value : Word) (s : State) : Host.Outcome State Fault Refusal :=
  if i < 64 then .next (s.ctlApply site (0x1F00401000 + 8 * i) value false) else .next s
def execHqcfgWrite (site q : Nat) (value : Word) (s : State) : Host.Outcome State Fault Refusal :=
  if q < 16 then .next (s.ctlApply site (0x1F00200000 + 32 * q) value false) else .next s
def execRselcfgWrite (site : Nat) (value : Word) (s : State) : Host.Outcome State Fault Refusal :=
  .next (s.ctlApply site 0x1F00100000 value false)
def execControlRegisterWrite (site ofs : Nat) (value : Word) (monitor : Bool) (s : State) :
    Host.Outcome State Fault Refusal :=
  .next ((s.ctlApply site ofs value monitor).leaveAll)

/-! ### Leaving a site's state behind (R390) -/

/-- Everything in flight that belongs to a site goes; teams there are gone, those that stay apart. A packet that its relay
buffer held, or that waits there for a page, is not applied (R268, R269). -/
def State.clearWork (s0 : State) (site : Nat) (stay : Team → Bool) : State :=
  let s := (s0.xpkts.filter (fun p => p.src == site)).foldl (fun s p => s.leaveRelay p.relay p.kind.size)
    (s0.dropOps (fun o => o.site == site))
  let lost (t : Team) : Bool := t.place.site == site && !stay t
  let ids := (s.teams.filter lost).map (fun t => t.id)
  let gone (o : Option Nat) : Bool := match o with | some t => ids.contains t | none => false
  let drop (o : RemOp) : RemOp :=
    let o1 := if o.relay == some site then { o with relay := none, relayed := false } else o
    if (o.relay == some site && o.phase == .sent) || (o.dsite == site && (o.phase == .waitDst || o.phase == .arrived || o.phase == .landing)) then
      { o1 with phase := .dropped }
    else o1
  let dropX (p : XPkt) : XPkt := if p.relay == some site then { p with relay := none, relayed := false } else p
  { s with
    teams := s.teams.filter (fun t => !lost t),
    cores := s.cores.filter (fun c => coreSite c.key != site),
    cmds := s.cmds.filter (fun k => k.site != site),
    incs := s.incs.filter (fun i => i.ctr / 2 ^ 37 != site && !gone i.team),
    fills := s.fills.filter (fun f => f.site != site),
    ops := s.ops.map drop,
    xpkts := (s.xpkts.filter (fun p => p.src != site)).map dropX }

/-- Waiters of the cells of a site that is lost: teams wake with "remote failed", and a launch that depends on such a
cell fails (R283, R304). -/
def State.wakeLost (s : State) (ws : List CWaiter) : State :=
  ws.foldl (fun s w => match w with
    | .team id => s.wakeTeam id (some (.trap 6 0x0B 2 none))
    | .dep part launch _ => s.depBad part launch) s

/-- The waiter of a page of a site that is lost: a team tries its instruction again, a fill tries its cell again, and a launch that
depends on a cell there fails as one that waits on the cell does. What waits on the site itself is gone. -/
def State.faultLost (s : State) : FWaiter → State
  | .team id => s.wakeTeam id none
  | .dep part launch _ => s.depBad part launch
  | .fill id => { s with fills := s.fills.map (fun f => if f.id == id then { f with waiting := false } else f) }
  | .action id => { s with fills := s.fills.map (fun f => if f.id == id then { f with waiting := false } else f) }
  | .seg _ _ | .op _ | .output _ _ _ | .sequencer _ => s

/-- The waiters of a site's fault buffer, each with the page that it waits for. -/
def Site.faultWaiters (x : Site) : List (Nat × Nat × FWaiter) :=
  x.fbuf.flatMap (fun e => match e with
    | .page t p _ _ _ _ _ _ ws => ws.map (fun w => (t, p, w))
    | .event .. => []) ++ x.fbWaits.map (fun w => (w.tenant, w.page, w.who))

/-- The team is parked on a cell that it named at this site. -/
def State.cellThere (s : State) (site : Nat) (t : Team) : Bool :=
  match t.parkedIn with
  | some (.cell _ a, _) => (match s.reach t.party a with | .at_ k _ => k == site | .unmapped => false)
  | _ => false

/-- A team leaves the waiter lists that it stands in; a root that no one waits at any more is empty again, its LINK 0 (R303). -/
def State.leaveLists (s : State) (tid : Nat) : State :=
  s.sites.foldl (fun s y => y.waits.foldl (fun s w =>
    if !w.who.contains (.team tid) then s
    else
      let x := s.site y.key
      let who := w.who.filter (fun c => c != .team tid)
      let waits := if who.isEmpty then x.waits.filter (fun v => v.root != w.root)
        else x.waits.map (fun v => if v.root == w.root then { v with who } else v)
      let s1 := s.putSite { x with waits }
      if who.isEmpty then s1.cellWrite (w.root + 8) (leBytes 8 0) else s1) s) s

/-- Teams parked on a cell that they named at a site that is reset wake with "remote failed", wherever its root is (R304). -/
def State.cellsLost (s : State) (ids : List Nat) : State :=
  ids.foldl (fun s id => (s.leaveLists id).wakeTeam id (some (.trap 6 0x0B 2 none))) s

/-- The team is away under a token (R360). -/
def Team.isExported (t : Team) : Bool := match t.status with | .exported _ => true | _ => false

/-- Running launches with a team or an unflushed bin on a site: they fail with it (R283). An eligible one is judged once the journal
stands (`openEntry`). -/
def State.launchesOn (s : State) (site : Nat) : List (Nat × Nat) :=
  let runs (l : Nat × Nat) : Bool :=
    match s.journal? l.1 l.2 with | some (_, e) => e.state == .running | none => false
  (((s.teams.filter (fun t => t.place.site == site && t.status != .retired && !t.isExported)).map
      (fun t => (t.place.part, t.place.launch)) ++ (s.site site).bins.map (fun b => (b.part, b.launch))).eraseDups).filter runs

/-- Reservations of gangs on a site are given up (R288). -/
def State.dropReserved (s : State) (site : Nat) : State :=
  (s.teams.filter (fun t => t.place.site == site && t.isReserved)).foldl (fun s t => s.leaveGang t) s

/-- A site's journal replica is lost; with both of them the partition is (R282, R283, R368). -/
def State.dropReplica (s : State) (site part : Nat) : State :=
  match s.part? part with
  | none => s
  | some p =>
    s.journalLeft p (p.replicas.filter (fun k => k != site)) p.state

/-- What a partition loses with a site: a replica of its journal there, and the launches of this list (R283, R284). -/
def State.siteLost (s : State) (site : Nat) (part : Option Nat) (ls : List (Nat × Nat)) : State :=
  ls.foldl (fun s l => s.failLaunch l.1 l.2) (match part with | some p => s.dropReplica site p | none => s)

/-- A site goes into reset: its work and memories are gone, its registers are at their reset values, its incarnation
has advanced (R269, R390). Its log and image stay; the fuses are read again at a power-on or device reset. -/
def State.resetSite (s : State) (site : Nat) (fuses : Bool) (stay : Team → Bool) : State :=
  let ws := (s.site site).waits.flatMap (fun w => w.who)
  let named := (s.teams.filter (s.cellThere site)).map (fun t => t.id)
  let faults := (s.site site).faultWaiters.filter (fun w => s.stillWaits site w.1 w.2.1 w.2.2)
  let s1 := s.clearWork site stay
  let x := s1.site site
  let base := siteBase site
  let y : Site :=
    { key := site, inc := x.inc + 1, remap := if fuses then x.fuses else x.remap, fuses := x.fuses, routerDead := x.routerDead,
      ports := x.ports, late := x.late, rotor := x.rotor, rotorAt := x.rotorAt, resetAt := s.now,
      mgmt := { x.mgmt with inReset := true, boot := 0, updating := false, throttled := [], doorbell := 0, done := 0 } }
  let s2 := ((State.putSite { s1 with mem := Mem.clear s1.mem base (base + 2 ^ 37) } y).wakeLost ws).cellsLost named
  faults.foldl (fun s w => s.faultLost w.2.2) s2

/-- Entry SEQ n of a log is whole after a previous one: its number, commit word, digest and chain (R371, R372). -/
def entryGood (n : Nat) (prev e : List Byte) : Bool :=
  e.length == 512 && entryNum e 0 8 == n && BitVec.ofNat 64 (entryNum e 0x1F8 8) == logCommit n &&
    entryDigest e == fixLen 64 (Config.shake256 (e.take 0x100)) && (e.drop 0x20).take 64 == fixLen 64 prev

/-- The entries of a log that are whole, from SEQ 1 onward: the first torn one and what stands behind it are discarded (R369,
R372). -/
def goodLog : Nat → List Byte → List (List Byte) → List (List Byte)
  | _, _, [] => []
  | n, prev, e :: r => if entryGood n prev e then e :: goodLog (n + 1) (entryDigest e) r else []

/-- DEAD bits of a core's unit number. -/
def deadSet (m : List (BitVec 128)) (unit : Nat) (v : Bool) : List (BitVec 128) :=
  if unit / 2 ^ 28 ≠ 0 then m
  else
    let i := unit % 2 ^ 28
    let b : BitVec 128 := 1 <<< (16 * (i % 256 / 16) + i % 16)
    let old := m.getD (i / 256) 0
    m.set (i / 256) (if v then old ||| b else old &&& ~~~b)

/-- The image's own digest and signature hold. -/
def imageGood (image : List Byte) : Bool := Config.ed448Verify "LW64F1" (Config.shake256 image) image

/-- A site with power comes out of reset: its log is verified, retired cores are marked DEAD, the image in its slot, unless it is
missing, decides between Bammusan and the recovery ROM, the management port reports it, and the supervisor learns its incarnation
(R269, R372, R389, R390, R391). -/
def State.bootSite (s : State) (site : Nat) : State :=
  let x := s.site site
  let m := x.mgmt
  let good := goodLog 1 [] m.log
  let boots := m.bootCount + 1
  let failing := (Config.selfTest site boots).filter (fun u => u < 2 ^ 32 && !(retiredUnits good).contains u)
  let log := failing.foldl (fun l u => appendLog l 1 u boots (Config.freeWord (s.draw 5 u)) []) good
  let boot := if !m.image.isEmpty && m.imageWhole && imageGood m.image then 1 else 2
  let torn := if good.length = m.log.length then none else some (good.length + 1)
  let s1 := s.putSite { x with
    remap := (retiredUnits log).foldl (fun r u => deadSet r u true) x.remap,
    mgmt := { m with inReset := false, boot, bootCount := boots, log, torn } }
  State.reportInc
    { s1 with reports := s1.reports ++ .boot site boot torn :: (if logFull log then [.logFull site] else []) } site

/-- A site has power again. -/
def State.powerOn (s : State) (site : Nat) : State :=
  let x := s.site site
  s.putSite { x with mgmt := { x.mgmt with powered := true } }

def devSites (dev : Nat) : List Nat := (List.range 64).map (fun i => dev * 64 + i)

/-- Every partition of a device goes. -/
def State.dropParts (s : State) (dev : Nat) : State := { s with parts := s.parts.filter (fun p => p.dev != dev) }

/-- Power returns to a device: every site resets and boots (R390, R392). -/
def execPowerOnReset (dev : Nat) (s : State) : Host.Outcome State Fault Refusal :=
  if dev < Config.maxDevices then
    .next ((devSites dev).foldl (fun s k => s.bootSite k)
      (((devSites dev).foldl (fun s k => (s.resetSite k true (fun _ => false)).powerOn k) s).dropParts dev))
  else .next s

/-- DEVRST or management: the sites of the device that have power go into reset, and at the next such step come out of it
(R388, R390). -/
def execDeviceReset (site : Nat) (s : State) : Host.Outcome State Fault Refusal :=
  let ks := (devSites (site / 64)).filter (fun k => (s.site k).mgmt.powered)
  if !(s.site site).mgmt.powered then .next s
  else if ks.all (fun k => (s.site k).mgmt.inReset) then .next (ks.foldl (fun s k => s.bootSite k) s)
  else .next ((ks.foldl (fun s k => s.resetSite k true (fun _ => false)) s).dropParts (site / 64))

/-- Bammusan resets one site, and at the next such step it comes out of reset. The site stays out of its partition
until a build; launches with a team or a bin there fail, and a journal replica there is lost (R283, R284, R390). -/
def execSiteReset (site : Nat) (s : State) : Host.Outcome State Fault Refusal :=
  let x := s.site site
  if !x.mgmt.powered then .next s
  else if x.mgmt.inReset then .next (s.bootSite site)
  else
    let s0 := s.dropReserved site
    .next ((s0.resetSite site false Team.isExported).siteLost site x.part (s0.launchesOn site))

/-- The input of a site falls below 40 V: it stops without a record, and its partition loses what stood there (R283,
R284, R385). -/
def execPowerLoss (site : Nat) (s : State) : Host.Outcome State Fault Refusal :=
  if !(s.site site).mgmt.powered then .next s
  else
    let s0 := s.dropReserved site
    let x := s0.site site
    .next ((s0.putSite { x with mgmt := { x.mgmt with powered := false } }).siteLost site x.part (s0.launchesOn site))

/-! ### Partition build and teardown (R282, R334 to R337, R373, R389, R390, R392) -/

/-- Live columns of a row, reinstated ones last. -/
def liveCols (dead : BitVec 128) (late : List Nat) (cluster r : Nat) : List Nat :=
  let live := (List.range 9).filter (fun c => !dead.getLsbD (16 * r + c))
  let unit (c : Nat) : Nat := cluster * 256 + r * 16 + c
  live.filter (fun c => !late.contains (unit c)) ++ (late.filter (fun u => live.any (fun c => unit c == u))).map (fun u => u % 16)

/-- Rows of the logical grid from row r on: each row's eight physical cores, or none when the cluster fails remap (R336). -/
def gridRows (live : Nat → List Nat) : Nat → Nat → List Nat → Option (List (Nat × Nat))
  | 0, _, _ => some []
  | fuel + 1, r, lent =>
    let own := live r
    if 8 ≤ own.length then (gridRows live fuel (r + 1) lent).map (fun l => (own.take 8).map (fun c => (r, c)) ++ l)
    else if own.length = 7 then
      let can (q : Nat) : Bool := (live q).length == 9 && !lent.contains q
      let lender : Option Nat :=
        if 0 < r ∧ can (r - 1) then some (r - 1) else if r < 7 ∧ can (r + 1) then some (r + 1) else none
      match lender with
      | none => none
      | some q => (gridRows live fuel (r + 1) (q :: lent)).map (fun l => own.map (fun c => (r, c)) ++ [(q, (live q).getD 8 8)] ++ l)
    else none

/-- The logical grid of a cluster. -/
def clusterGrid (dead : BitVec 128) (late : List Nat) (cluster : Nat) : Option (List (Nat × Nat)) :=
  gridRows (liveCols dead late cluster) 8 0 []

/-- The core remap records with every core that the log retires marked DEAD, as a build finds them (R336, R337, R372). -/
def Site.deadMasks (x : Site) : List (BitVec 128) := (retiredUnits x.mgmt.log).foldl (fun r u => deadSet r u true) x.remap

/-- The logical grids of a site's clusters. -/
def siteGrid (x : Site) : Option (List (List (Nat × Nat))) :=
  (List.range 4).foldr (fun c acc =>
    match clusterGrid (x.deadMasks.getD c 0) x.late c, acc with
    | some g, some l => some (g :: l)
    | _, _ => none) (some [])

/-- A reinstatement record passes its checks at a site (R373). -/
def recordGood (dev : Nat) (x : Site) (lsite : Nat) (b : List Byte) : Bool :=
  let zero (lo hi : Nat) : Bool := (firstNonZero b lo hi).isNone
  let seq := numAt b 0x20 8
  let unit := numAt b 0x1C 4
  b.length == 256 && numAt b 0 8 == 1 && (b.drop 8).take 16 == fixLen 16 (Config.deviceSerial dev) && numAt b 0x18 4 == lsite &&
    zero 0x28 0x40 && zero 0xB2 0x100 && Config.ed448Verify "LW64R1" (b.take 0x40) ((b.drop 0x40).take 114) &&
    x.mgmt.log.any (fun e => entryKind e == 1 && entryNum e 0 8 == seq && entryUnit e == unit) && !lifted x.mgmt.log seq

/-- Admits a reinstatement record at a build. -/
def State.reinstate (s : State) (dev : Nat) (lsite site : Nat) (b : List Byte) : State :=
  let x := s.site site
  if recordGood dev x lsite b && !logFull x.mgmt.log then
    let unit := numAt b 0x1C 4
    s.putSite { x with
      remap := deadSet x.remap unit false, late := x.late.filter (fun u => u != unit) ++ (if unit / 2 ^ 28 = 0 then [unit] else []),
      mgmt := { x.mgmt with
        log := appendLog x.mgmt.log 2 unit x.mgmt.bootCount (BitVec.ofNat 64 (numAt b 0x20 8)) ((b.drop 0x40).take 114) } }
  else s

/-- Records that wait for a build of the device are judged: each one at the site that its logical number names. -/
def State.reinstateAll (s : State) (dev : Nat) (sites : List Nat) : State :=
  let mine := s.reinst.filter (fun r => r.1 == dev)
  mine.foldl (fun s r =>
    match sites[numAt r.2 0x18 4]? with
    | some k => s.reinstate dev (numAt r.2 0x18 4) k r.2
    | none => s) { s with reinst := s.reinst.filter (fun r => r.1 != dev) }

/-- The bytes of a management command that its signature covers. -/
def commandBytes (what : Nat) (args : List Nat) : List Byte := leBytes 8 what ++ args.flatMap (leBytes 8)

/-- A site may join a partition: it works, is in none, its log has room, and every cluster remaps. -/
def State.mayJoin (s : State) (site : Nat) : Bool :=
  let x := s.site site
  s.live site && x.mgmt.boot == 1 && x.part.isNone && !logFull x.mgmt.log && (siteGrid x).isSome

/-- The TIME that a partition of this domain starts from: 0 for the first one, else the command's, which was read from
one already in it and must agree with every site of the domain (R335). -/
def State.startTime (s : State) (key time : Nat) : Option Nat :=
  match s.parts.filter (fun p => p.domain == key) with
  | [] => some 0
  | ps =>
    let agrees (k : Nat) : Bool := decide (((s.time k).toNat - (time : Int)).natAbs ≤ 500)
    if ps.all (fun p => p.sites.all (fun k => (s.site k).part != some p.id || agrees k)) then some time else none

/-- Where the journal's two replicas go: the two lowest sites whose DRAM passed self-test, or two channels of the only site
(R282). Where fewer than two passed, the lowest of the others serve: DESIGN CHOICE, log 98. -/
def State.replicaSites (s : State) (ks : List Nat) : List Nat :=
  match ks with
  | [k] => [k, k]
  | _ => (ks.filter (fun k => dramGood (s.site k)) ++ ks.filter (fun k => !dramGood (s.site k))).take 2

/-- Site 0 of a device carries the management port, and Bammusan takes commands there: it has power, is out of reset and runs its
image (R389, R391). -/
def State.manages (s : State) (dev : Nat) : Bool :=
  let m := (s.site (dev * 64)).mgmt
  m.powered && !m.inReset && m.boot == 1

/-- A build of a device is counted, since the firmware image was installed: at its site 0, where Bammusan signs (R347). -/
def State.countBuild (s : State) (dev : Nat) : State :=
  let x := s.site (dev * 64)
  s.putSite { x with mgmt := { x.mgmt with builds := x.mgmt.builds + 1 } }

/-- A build (R334): sites that may not join are left out, and the management port reports those whose log is full (R371). -/
def execPartitionBuild (dev : Nat) (sites : List Nat) (key reserved base : Nat) (time : Nat) (sig : List Byte) (s : State) :
    Host.Outcome State Fault Refusal :=
  let named := (List.range 64).filter (fun i => sites.contains i)
  let free := named.all (fun i => (s.site (dev * 64 + i)).part.isNone)
  let clash := s.parts.any (fun p => p.dev == dev && p.domain == key)
  let signed := Config.ed448Verify "LW64M1" (commandBytes 1 ([dev, key, reserved, base, time] ++ sites)) sig
  let s0 := s.reinstateAll dev (named.map (fun i => dev * 64 + i))
  let full := (named.map (fun i => dev * 64 + i)).filter (fun k => logFull (s0.site k).mgmt.log)
  let s1 : State := { s0 with reports := s0.reports ++ full.map Report.logFull }
  let ks := (named.map (fun i => dev * 64 + i)).filter (fun k => s1.mayJoin k)
  match s.startTime key time with
  | none => .next s
  | some start =>
    if !signed ∨ !s.manages dev ∨ dev ≥ Config.maxDevices ∨ key ≥ 2 ^ 32 ∨ !free ∨ clash ∨ ks = [] ∨ base % 4096 ≠ 0 ∨ 2 ^ 37 ≤ base ∨
        2048 < reserved then .next s
    else
      let (id, s2) := s1.fresh
      let door := ks.find? hostPort
      let cfg : Word := BitVec.ofNat 64 (2 ^ 31 + 2 ^ 30 + 6 * 2 ^ 26 + base / 4096)
      let build (s : State) (ki : Nat × Nat) : State :=
        let k := ki.1
        let x := s.site k
        let y : Site :=
          { key := k, part := some id, lsite := ki.2, resetAt := s.now, inc := x.inc + 1, remap := x.deadMasks, late := x.late,
            fuses := x.fuses, routerDead := x.routerDead, ports := x.ports, rotor := x.rotor, rotorAt := x.rotorAt, grid := (siteGrid x).getD [],
            timeOfs := (start : Int) - (s.now / Config.ticksPerNs : Nat),
            hq := if door = some k then { cfg } :: List.replicate 15 {} else List.replicate 16 {},
            mgmt := x.mgmt }
        let b := siteBase k + tenantTable
        State.putSite { s.clearWork k (fun t => t.isWaiting || t.isExported) with mem := Mem.clear s.mem b (b + 0x1000) } y
      let s3 := ks.zipIdx.foldl build s2
      let replicas := s1.replicaSites ks
      let s4 := s3.countBuild dev
      .next { s4 with parts := s4.parts ++
        [{ id, dev, sites := ks, domain := key, reserved, state := .running, nextLaunch := 1, journal := [], intake := [],
           dlq := [], dlqMoved := s.now, replicas }] }

/-- A teardown (R389): the partition and its work are gone; the sites are free for another build. -/
def execPartitionTeardown (part : Nat) (sig : List Byte) (s : State) : Host.Outcome State Fault Refusal :=
  match s.part? part with
  | none => .next s
  | some p =>
    if Config.ed448Verify "LW64M1" (commandBytes 2 [part]) sig ∧ s.manages p.dev then
      let s1 := (p.sites.filter (fun k => (s.site k).part == some part)).foldl (fun s k =>
        let x := s.site k
        let y : Site :=
          { key := k, resetAt := x.resetAt, inc := x.inc, remap := x.remap, fuses := x.fuses, late := x.late,
            routerDead := x.routerDead, ports := x.ports, rotor := x.rotor, rotorAt := x.rotorAt, mgmt := x.mgmt }
        let s2 := State.wakeLost ((s.clearWork k (fun _ => false)).putSite y) (x.waits.flatMap (fun w => w.who))
        (x.faultWaiters.filter (fun w => s.stillWaits k w.1 w.2.1 w.2.2)).foldl (fun s w => s.faultLost w.2.2) s2) s
      .next { s1 with
        parts := s1.parts.filter (fun q => q.id != part), teams := s1.teams.filter (fun t => t.place.part != part) }
    else .next s

/-- The management port takes a message with a reinstatement record, its 256 bytes before their signature; a build judges the
record (R373, R389). -/
def execReinstatementRecord (dev : Nat) (record : List Byte) (s : State) : Host.Outcome State Fault Refusal :=
  let r := record.take 256
  if r.length = 256 ∧ Config.ed448Verify "LW64M1" r (record.drop 256) ∧ s.manages dev then .next { s with reinst := s.reinst ++ [(dev, r)] }
  else .next s

/-! ### The host's RESET word (R388) -/

/-- STATE as a host port reads it: booting in reset, lost with its partition's journal, else what boots ended in. -/
def State.bootState (s : State) (site : Nat) : Nat :=
  let x := s.site site
  if x.mgmt.inReset then 0
  else if (x.part.bind s.part?).any (fun p => p.state == .lost) then 3
  else x.mgmt.boot

/-- RESET as the host reads it (R388). -/
def State.resetWord (s : State) (site : Nat) : Word := BitVec.ofNat 64 (s.bootState site * 16)

/-! ### Firmware (R391) -/

/-- Builds of a device are counted anew when an image has been installed on a site of it (R347). -/
def State.newImage (s : State) (site : Nat) : State :=
  let x := s.site (site / 64 * 64)
  s.putSite { x with mgmt := { x.mgmt with builds := 0 } }

/-- A signed update overwrites the slot in place; a loss of power on the way leaves a failing image. -/
def execFirmwareUpdate (site : Nat) (image sig : List Byte) (complete : Bool) (s : State) : Host.Outcome State Fault Refusal :=
  let x := s.site site
  if Config.ed448Verify "LW64M1" image sig ∧ s.manages (site / 64) ∧ x.mgmt.powered ∧ !x.mgmt.inReset then
    let s1 := s.putSite { x with
      mgmt := { x.mgmt with image, imageWhole := complete, updating := !complete } }
    .next (if complete then s1.newImage site else s1)
  else .next s

/-- The host has written an image at DRAM offset 0 and announces its length: the port's ROM verifies it and forwards it
to every site of the device in the recovery ROM that has power; each verifies it again, runs it, and its boot is reported (R389,
R391). -/
def execFirmwareImageAnnounce (site : Nat) (length : Nat) (s : State) : Host.Outcome State Fault Refusal :=
  let x := s.site site
  if hostPort site ∧ x.mgmt.powered ∧ !x.mgmt.inReset ∧ length ≤ 0x0800000000 then
    let image := Mem.bytes s.mem (siteBase site) length
    let s1 := s.putSite { x with mgmt := { x.mgmt with imageLen := BitVec.ofNat 64 length } }
    if !image.isEmpty && imageGood image then
      .next (((devSites (site / 64)).filter (fun k =>
          let m := (s1.site k).mgmt
          m.boot == 2 && m.powered && !m.inReset)).foldl (fun s k =>
        let y := s.site k
        let s2 := (s.putSite { y with mgmt := { y.mgmt with image, imageWhole := true, boot := 1, updating := false } }).newImage k
        { s2 with reports := s2.reports ++ [.boot k 1 y.mgmt.torn] }) s1)
    else .next s1
  else .next s

/-! ### Attestation (R347, R387) -/

/-- The host writes the nonce and the kind, and rings. -/
def execAttestationRequest (site : Nat) (nonce : List Byte) (kind : Nat) (s : State) : Host.Outcome State Fault Refusal :=
  let x := s.site site
  if hostPort site ∧ x.mgmt.powered ∧ !x.mgmt.inReset then
    .next (s.putSite { x with
      mgmt := { x.mgmt with nonce := fixLen 32 nonce, attKind := BitVec.ofNat 64 kind, doorbell := 1, done := 0 } })
  else .next s

/-- The core remap records of a site, and its fuse map: the DEAD masks that the fuses hold, and whether its mesh router is dead
(R264, R336). The bytes that the digest covers are the model's. DESIGN CHOICE, log 99. -/
def Site.fuseMap (x : Site) : List Byte :=
  (x.remap ++ x.fuses).flatMap (fun r => leBytes 16 r.toNat) ++ leBytes 8 (if x.routerDead then 1 else 0)

/-- The report over the state at rest (R347). -/
def State.attestation (s : State) (site : Nat) : List Byte :=
  let dev := site / 64
  let m := (s.site site).mgmt
  let ks := devSites dev
  let own := (s.site site).part.bind s.part?
  let kind := if m.attKind = 1 ∧ own.isSome then 1 else 0
  let d (bs : List Byte) : List Byte := fixLen 64 (Config.shake256 bs)
  let firmware := d (ks.flatMap (fun k => d (s.site k).mgmt.image))
  let remap := d (ks.flatMap (fun k => (s.site k).fuseMap))
  let builds := (s.site (dev * 64)).mgmt.builds
  let logs := d (ks.flatMap (fun k => ((s.site k).mgmt.log).flatten))
  let part := match own with
    | some p => if kind = 1 then d (commandBytes 3 (p.sites ++ [p.domain, p.reserved])) else List.replicate 64 0
    | none => List.replicate 64 0
  let body := leBytes 4 1 ++ leBytes 4 kind ++ fixLen 16 (Config.deviceSerial dev) ++ fixLen 32 m.nonce ++ leBytes 8 builds ++
    firmware ++ remap ++ logs ++ part ++ fixLen 57 (Config.identityKey dev) ++ List.replicate 7 0
  body ++ fixLen 114 (Config.ed448Sign dev "LW64A1" body) ++ List.replicate 14 0

/-- Bammusan answers a request once no update is under way. -/
def execAttestationReportDone (site : Nat) (s : State) : Host.Outcome State Fault Refusal :=
  let x := s.site site
  let busy := (devSites (site / 64)).any (fun k => (s.site k).mgmt.updating)
  if x.mgmt.doorbell = 1 ∧ x.mgmt.boot = 1 ∧ x.mgmt.powered ∧ !x.mgmt.inReset ∧ !busy then
    .next (s.putSite { x with mgmt := { x.mgmt with report := s.attestation site, done := 1, doorbell := 0 } })
  else .next s

/-! ### The host's windows (R387, R388) -/

/-- The device window, BAR 2, as the host reads it: RESET, and the attestation window with the length word of R391. -/
def State.deviceWindow (s : State) (site : Nat) : List Byte :=
  let m := (s.site site).mgmt
  leBytes 8 (s.resetWord site).toNat ++ List.replicate 0xF8 0 ++ fixLen 32 m.nonce ++ leBytes 8 m.attKind.toNat ++
    leBytes 8 m.doorbell.toNat ++ leBytes 8 m.done.toNat ++ List.replicate 8 0 ++ leBytes 8 m.imageLen.toNat ++
    List.replicate 0xB8 0 ++ fixLen 512 m.report

/-- The n bytes at an offset of a BAR that a host read of a port with power returns: BAR 0 reads 0, BAR 4 the site's DRAM, both
all ones while the site is in reset. Words that R387 does not place in BAR 2 read 0: DESIGN CHOICE, log 73. -/
def State.hostRead (s : State) (site bar ofs n : Nat) : Option (List Byte) :=
  let m := (s.site site).mgmt
  let size := if bar = 0 then 0x1000 else if bar = 2 then 0x10000 else if bar = 4 then 0x0800000000 else 0
  if !hostPort site ∨ !m.powered ∨ size < ofs + n then none
  else if bar = 2 then some (fixLen n ((s.deviceWindow site).drop ofs))
  else if m.inReset then some (List.replicate n 0xFF)
  else if bar = 0 then some (List.replicate n 0)
  else some (Mem.bytes s.mem (siteBase site + ofs) n)

/-- The host reads a byte of the DRAM of a port's site, which `hostRead` gives once transactions that hold its line have aborted
(R200), or writes bytes there. -/
def execHostBar4Access (site ofs : Nat) (write : Option (List Byte)) (s : State) : Host.Outcome State Fault Refusal :=
  let n := match write with | some b => b.length | none => 1
  if hostPort site ∧ s.live site ∧ ofs + n ≤ 0x0800000000 then
    match write with
    | none => .next (s.txOutside 0 ((siteBase site + ofs) / 64))
    | some bs => .next (s.writePieces [(siteBase site + ofs, bs.length, [])] bs)
  else .next s

end Sys2Proof.Machine
end

