-- ==== Sys2Proof/Machine/Wake.lean ====
section
/-! DEFINITION. What follows at once from the state, after every step: fills and outputs that wait for nothing are
applied, launches that are eligible open, reductions that are over go, teams with a yield request leave, and a parked
team wakes when what it waits for has come (R7, R11). -/

namespace Sys2Proof.Machine

/-- Every fill and fired action that waits for no page, at a site that works. -/
def State.runFills (s : State) : State :=
  s.fills.foldl (fun s f =>
    match s.fills.find? (fun g => g.id == f.id) with
    | some g => if g.waiting || !s.live g.site then s else s.runFill g
    | none => s) s

/-- A bin takes a record of this header, or is free for it (R291). -/
def State.binRoom (s : State) (t : Team) (hdr : Word) : Bool :=
  let here := (s.site t.place.site).bins.filter (fun b => b.cluster == t.place.cluster)
  decide (here.length < 16) ||
    here.any (fun b => b.tenant == t.ctl.home.toNat && b.part == t.place.part && b.launch == t.place.launch &&
      b.hdr.addr == hdr)

/-- The exported team that a `ctxr` waits for and its commands have room on a core, and a thaw for it there is over (R346,
R360). -/
def State.restoreRoom (s : State) (t : Team) (core team cmds : Nat) : Bool :=
  match s.team? team with
  | none => true
  | some u =>
    let u0 := u.toCore (coreSite core) core t.place.lsite t.place.ldev
    match s.restorePlace core u0 cmds with
    | none => false
    | some p =>
      (s.thawOn core).isNone ||
        (s.inTheWay core u0 (s.runsOf u0 p) (p.scratch, u.hdr.scratchBytes) (p.moves.map (fun m => m.1))).isEmpty

/-- What a parked team waits for has come: the value that the instruction takes, or none when it is tried again. The
parks left out are ended by what ends them: a service, a fill, an arrival, a handover. -/
def State.waitOver (s : State) (t : Team) : Park → Option (Option Wake)
  | .bins h => if s.binRoom t h then some none else none
  | .counter w target _ => if reached (Mem.word (s.committed (w / 64)) w) target then some (some (.value 0)) else none
  | .copies ids => if s.cmds.any (fun k => ids.contains k.id) then none else some (some (.value 0))
  | .forkSet ids => if s.cmds.any (fun k => ids.contains k.id) then none else some none
  | .entries => if s.coreEntries t.coreKey < 256 then some none else none
  | .remoteEntries => if s.remRoom t.coreKey then some none else none
  | .remote ids => if s.ops.any (fun o => ids.contains o.id) then none else some (some (.value 0))
  | .named ids =>
    if s.ops.any (fun o => ids.contains o.id && o.unapplied) || s.xpkts.any (fun p => ids.contains p.id) then none
    else some (some (.value 0))
  | .matrixDone tile =>
    if (s.matrixAll t).any (fun e => match tile with | some i => !e.again && e.hasTile && e.tile == i | none => true) then none
    else some none
  | .launchQueue n => if s.dlqRoom t.place.part n then some none else none
  | .reductionSlot tenant job =>
    if (s.newNumber t.place.site tenant).isSome || (s.instOf t.place.site tenant job).isSome then some none else none
  | .reductionClose inst index =>
    match t.handles.find? (fun h => h.inst == inst && h.index == index) with
    | some h => if s.partDone h then some none else none
    | none => some none
  | .restore core team cmds => if s.restoreRoom t core team cmds then some none else none
  | .translation _ _ _ => none
  | .faultPlace _ _ _ => none
  | .cell _ _ => none
  | .barrier _ _ => none
  | .matrixUnit => none
  | .matrixFault => none
  | .delivery _ _ _ => none
  | .rotor => some none

/-- Wakes one team when its wait is over. -/
def State.wakeOne (s : State) (id : Nat) : State :=
  match s.team? id with
  | none => s
  | some t =>
    if !s.live t.place.site then s
    else match (t.parkedIn.map (fun w => w.1)).bind (s.waitOver t) with
      | some w => s.wakeTeam id w
      | none => s

def State.wakeAll (s : State) : State :=
  ((s.teams.filter (fun t => t.parkedIn.isSome)).map (fun t => t.id)).foldl (fun s i => s.wakeOne i) s

/-- Everything that follows at once. -/
def State.settle (s : State) : State :=
  ((s.finishEmpty.runFills.pumpAll.runFills.openLaunches.freeAllInsts).leaveAll).wakeAll

end Sys2Proof.Machine
end

