-- ==== Sys2Proof/Machine/Issue.lean ====
section
/-! DEFINITION. The fetch of a team's word (R30, R31, R181, R393), and which turn comes when nothing has been fixed. -/

/-- The turn that comes next where the agenda fixes none: which agent of the machine moves, and how much time passes
first, the manual leaves open. None: one tick passes and nothing moves. FREE VALUE. -/
opaque Sys2Proof.Config.nextTurn : Nat → Option Sys2Proof.Machine.Turn

namespace Sys2Proof.Machine

/-! ### Fetch (R30, R31) -/

/-- A trap at a fetch: no word is known, so its opcode is a free value; every enabled lane is marked. -/
def State.fetchTrap (s : State) (t : Team) (cls code : Nat) : State :=
  s.takeTrap t.id { cls, code, op := Config.freeNat (s.draw 13 t.id) % 256, mask := t.enabled,
                    list := (Mask.lanes t.enabled t.nlane).map (fun l => (l, t.ctl.pc)) }

/-- A fetch that meets a translation fault parks the team; in a transaction the fault enters the buffer and the
transaction aborts (R8, R30, R175, R236). -/
def State.fetchFault (s : State) (t : Team) (lvl : Bool) : State :=
  let tenant := t.ctl.home.toNat
  let page := gOfs t.ctl.pc / 65536
  if t.tx.live then
    ((s.pageFault t.place.site tenant page false true false lvl t.ctl.pc (.team t.id)).2).txAbort t.id 0x05
  else s.parkFault t tenant page false true lvl t.ctl.pc

/-- What a fetch leads to: a word, or no instruction in this slot. -/
inductive Fetched where
  | word (s : State) (w : Code)
  | ended (s : State)
deriving DecidableEq, Repr

/-- A fetch is a read (R181): of a live transaction it holds its line, and from outside it aborts every holder of it (R200,
R235). Answers whether the team goes on. -/
def State.fetchTouch (s : State) (t : Team) (line : Nat) : Bool × State :=
  if t.tx.live then s.txTouch t.id line false else (true, s.txOutside t.id line)

/-- Some access of the team that goes before a fetch from a line is outstanding: one of its own, or a read of a queued matrix
instruction (R151, R186). -/
def State.goesBefore (s : State) (t : Team) (f : Fetch) : Bool :=
  t.pend.any (fun p => decide (p.seq < f.seq) && fetchAfter p f.line f.kind) ||
    s.mxReads t (fun e => decide (e.seq < f.seq) &&
      ((f.kind != .unordered && e.keep) || e.spans.any (fun r => r.meets f.line)))

/-- Keeps the line that a team fetches from where an outstanding access of the team goes before the fetch, and forgets those
where none does any more (R186). -/
def State.noteFetch (s : State) (tid line : Nat) (kind : PageKind) : State :=
  match s.team? tid with
  | none => s
  | some t =>
    let live := t.fetched.filter (fun f => !(f.line == line && f.kind == kind) && s.goesBefore t f)
    let all := if s.goesBefore t { line, kind, seq := t.seq } then { line, kind, seq := t.seq } :: live else live
    if all = t.fetched then s else s.putTeam { t with fetched := all }

/-- Reads the word at the team's pc, the team's own stores included. The home tenant governs it (R394). A fetch is a read:
it comes after the team's writes of its bytes, from a strong page after its strong stores, and the accesses of the team that go before it, the reads of its
queued matrix instructions among them, go before any later write to the line (R151, R181, R186, R197). -/
def State.fetch (s : State) (t : Team) : Fetched :=
  let a := t.ctl.pc
  let o := gOfs a
  if gDev a ≠ t.place.ldev ∨ gSite a ≠ t.place.lsite then .ended (s.fetchTrap t 4 0x02)
  else if region o = .control ∨ (t.sup ∧ region o = .hole) then .ended (s.fetchTrap t 4 0x03)
  else
    match xlate s t.place.site (some t.coreKey) t.ctl.home.toNat (!t.sup) .fetch o with
    | .prot => .ended (s.fetchTrap t 4 0x03)
    | .fault l => .ended (s.fetchFault t l)
    | .broken r => .ended (s.freezeEntry t.place.part t.place.site o t.ctl.home.toNat r)
    | .ok phys kind leaf =>
      let c := s.core t.coreKey
      let c1 := tlbFill c t.ctl.home.toNat o leaf
      let s1 := if c1 = c then s else s.putCore c1
      let s2 := (if kind = .strong then s1.settleEntries t.id (fun e => e.kind == .strong) else s1).settleBytes t.id phys 4
      if s2.txGone t then .ended s2
      else
        let (go, s3) := s2.fetchTouch t (phys / 64)
        if !go then .ended s3
        else
          let (s4, w) := (s3.noteFetch t.id (phys / 64) kind).fetchWord t.coreKey t.id phys
          .word s4 (BitVec.ofNat 32 w)

/-! ### Turns -/

/-- The turn to take, the rest of the agenda kept, the time of the turn passed. -/
def State.takeTurn (s : State) : Option Act × State :=
  match s.agenda with
  | t :: r => (some t.act, { s with agenda := r, now := s.now + t.wait })
  | [] =>
    match Config.nextTurn s.free with
    | some t => (some t.act, { s with now := s.now + t.wait })
    | none => (none, { s with now := s.now + 1 })

/-- The end of every step: what follows at once, and the next draw of the free values. -/
def State.endStep (s : State) : State := let s1 := s.settle; { s1 with free := s1.free + 1 }

/-- An outcome at the end of a step. -/
def endOutcome : Host.Outcome State Fault Refusal → Host.Outcome State Fault Refusal
  | .next s => .next s.endStep
  | .fault f => .fault f
  | .refused r => .refused r

/-! ### A place for one instruction word -/

/-- A state with one team, resident and running, alone on core 0 of site 0, whose next word is the one given; the
table of its tenant 0 maps the first 32 MiB for fetches. -/
def State.placeWord (s : State) (w : Code) : State :=
  let t : Team :=
    { id := s.uid, hdr := { kregs := 32, qdepth := 32 }, place := { args := List.replicate 4 [0] },
      regs := { drift := emptyDrift 1, k := List.replicate 32 [0], q := List.replicate 8 {}, s := List.replicate 8 0,
                p := List.replicate 7 0 },
      ctl := { pc := 0x1000, live := 1, cur := 1 } }
  let p : Partition :=
    { id := 0, dev := 0, sites := [0], domain := 0, reserved := 0, state := .running, nextLaunch := 1, journal := [],
      intake := [], dlq := [], dlqMoved := 0, replicas := [0, 0] }
  { s with
    mem := Mem.write (Mem.set (Mem.set s.mem 7 0x17) 0x1F00400017 1) 0x1000 4 w.toNat,
    sites := putKey Site.key { key := 0, part := some 0 } s.sites,
    cores := s.cores.filter (fun c => c.key != 0),
    teams := s.teams.filter (fun u => u.coreKey != 0) ++ [t],
    parts := s.parts.filter (fun q => q.id != 0) ++ [p],
    agenda := { wait := 0, act := .issue 0 } :: s.agenda, uid := s.uid + 1 }

end Sys2Proof.Machine
end

