-- ==== Sys2Proof/Machine/Dispatch.lean ====
section
/-! DEFINITION. One arm for each instruction and each event of the opcode table. -/

namespace Sys2Proof.Machine

def exec (i : Instr) (s : State) : Host.Outcome State Fault Refusal :=
  match i with
  -- row 0x0: control (R53 to R64)
  | .ill w => Sys2Proof.Machine.execIll w s
  | .nop g => Sys2Proof.Machine.execNop g s
  | .br g disp => Sys2Proof.Machine.execBr g disp s
  | .brany g disp => Sys2Proof.Machine.execBrany g disp s
  | .brall g disp => Sys2Proof.Machine.execBrall g disp s
  | .call g disp => Sys2Proof.Machine.execCall g disp s
  | .jmpi g n => Sys2Proof.Machine.execJmpi g n s
  | .calli g n => Sys2Proof.Machine.execCalli g n s
  | .ret g => Sys2Proof.Machine.execRet g s
  | .ifThen g disp => Sys2Proof.Machine.execIfThen g disp s
  | .elseArm disp => Sys2Proof.Machine.execElseArm disp s
  | .endIf => Sys2Proof.Machine.execEndIf s
  | .loop disp => Sys2Proof.Machine.execLoop disp s
  | .brk g => Sys2Proof.Machine.execBrk g s
  | .cont g => Sys2Proof.Machine.execCont g s
  | .endLoop disp => Sys2Proof.Machine.execEndLoop disp s
  | .exit g => Sys2Proof.Machine.execExit g s
  | .teamRetire team => Sys2Proof.Machine.execTeamRetire team s
  -- row 0x1: integer arithmetic (R94 to R98)
  | .add g d a b f => Sys2Proof.Machine.execAdd g d a b f s
  | .sub g d a b f => Sys2Proof.Machine.execSub g d a b f s
  | .mul g d a b f => Sys2Proof.Machine.execMul g d a b f s
  | .mulh g d a b f => Sys2Proof.Machine.execMulh g d a b f s
  | .mulhn g d a b f => Sys2Proof.Machine.execMulhn g d a b f s
  | .mad g d a b f => Sys2Proof.Machine.execMad g d a b f s
  | .div g d a b f => Sys2Proof.Machine.execDiv g d a b f s
  | .divn g d a b f => Sys2Proof.Machine.execDivn g d a b f s
  | .rem g d a b f => Sys2Proof.Machine.execRem g d a b f s
  | .remn g d a b f => Sys2Proof.Machine.execRemn g d a b f s
  | .min g d a b f => Sys2Proof.Machine.execMin g d a b f s
  | .max g d a b f => Sys2Proof.Machine.execMax g d a b f s
  | .minn g d a b f => Sys2Proof.Machine.execMinn g d a b f s
  | .maxn g d a b f => Sys2Proof.Machine.execMaxn g d a b f s
  | .adds g d a b f => Sys2Proof.Machine.execAdds g d a b f s
  | .subs g d a b f => Sys2Proof.Machine.execSubs g d a b f s
  -- row 0x2: logic and bits (R99 to R103)
  | .and g d a b f => Sys2Proof.Machine.execAnd g d a b f s
  | .or g d a b f => Sys2Proof.Machine.execOr g d a b f s
  | .xor g d a b f => Sys2Proof.Machine.execXor g d a b f s
  | .andn g d a b f => Sys2Proof.Machine.execAndn g d a b f s
  | .shl g d a b f => Sys2Proof.Machine.execShl g d a b f s
  | .shr g d a b f => Sys2Proof.Machine.execShr g d a b f s
  | .sar g d a b f => Sys2Proof.Machine.execSar g d a b f s
  | .rol g d a b f => Sys2Proof.Machine.execRol g d a b f s
  | .clz g d a f => Sys2Proof.Machine.execClz g d a f s
  | .ctz g d a f => Sys2Proof.Machine.execCtz g d a f s
  | .popc g d a f => Sys2Proof.Machine.execPopc g d a f s
  | .brev g d a f => Sys2Proof.Machine.execBrev g d a f s
  | .bfx g d a b f => Sys2Proof.Machine.execBfx g d a b f s
  | .bfi g d a b f => Sys2Proof.Machine.execBfi g d a b f s
  | .ext g d a sign f => Sys2Proof.Machine.execExt g d a sign f s
  | .neg g d a => Sys2Proof.Machine.execNeg g d a s
  | .abs g d a => Sys2Proof.Machine.execAbs g d a s
  | .not g d a => Sys2Proof.Machine.execNot g d a s
  -- row 0x3: immediates, comparisons, predicates (R104 to R114)
  | .li g d n0 => Sys2Proof.Machine.execLi g d n0 s
  | .addi g d a n0 => Sys2Proof.Machine.execAddi g d a n0 s
  | .andi g d a n0 => Sys2Proof.Machine.execAndi g d a n0 s
  | .ori g d a n0 => Sys2Proof.Machine.execOri g d a n0 s
  | .xori g d a n0 => Sys2Proof.Machine.execXori g d a n0 s
  | .shi g d a f c => Sys2Proof.Machine.execShi g d a f c s
  | .lea g d a b f => Sys2Proof.Machine.execLea g d a b f s
  | .cmp g p c a b f => Sys2Proof.Machine.execCmp g p c a b f s
  | .cmpn g p c a b f => Sys2Proof.Machine.execCmpn g p c a b f s
  | .sel g d a b => Sys2Proof.Machine.execSel g d a b s
  | .pset g p a b f => Sys2Proof.Machine.execPset g p a b f s
  | .pmov g p a inv => Sys2Proof.Machine.execPmov g p a inv s
  | .vote g p a f => Sys2Proof.Machine.execVote g p a f s
  | .ballot g a => Sys2Proof.Machine.execBallot g a s
  | .fcmp g p c a b => Sys2Proof.Machine.execFcmp g p c a b s
  | .fclass g d a => Sys2Proof.Machine.execFclass g d a s
  -- row 0x4: float arithmetic (R123 to R126)
  | .fadd g d a b f => Sys2Proof.Machine.execFadd g d a b f s
  | .fsub g d a b f => Sys2Proof.Machine.execFsub g d a b f s
  | .fmul g d a b f => Sys2Proof.Machine.execFmul g d a b f s
  | .ffma g d a b f => Sys2Proof.Machine.execFfma g d a b f s
  | .fmin g d a b f => Sys2Proof.Machine.execFmin g d a b f s
  | .fmax g d a b f => Sys2Proof.Machine.execFmax g d a b f s
  | .fabs g d a f => Sys2Proof.Machine.execFabs g d a f s
  | .fneg g d a f => Sys2Proof.Machine.execFneg g d a f s
  | .frcp g d a => Sys2Proof.Machine.execFrcp g d a s
  | .fsqrt g d a => Sys2Proof.Machine.execFsqrt g d a s
  | .frsq g d a => Sys2Proof.Machine.execFrsq g d a s
  | .fex2 g d a => Sys2Proof.Machine.execFex2 g d a s
  | .flg2 g d a => Sys2Proof.Machine.execFlg2 g d a s
  | .fdiv g d a b => Sys2Proof.Machine.execFdiv g d a b s
  | .fround g d a f => Sys2Proof.Machine.execFround g d a f s
  -- row 0x5: complex and error-free (R127, R128)
  | .cadd g d a b => Sys2Proof.Machine.execCadd g d a b s
  | .csub g d a b => Sys2Proof.Machine.execCsub g d a b s
  | .cmul g d a b => Sys2Proof.Machine.execCmul g d a b s
  | .cfma g d a b => Sys2Proof.Machine.execCfma g d a b s
  | .cconj g d a => Sys2Proof.Machine.execCconj g d a s
  | .cabs2 g d a => Sys2Proof.Machine.execCabs2 g d a s
  | .twosum g d a b => Sys2Proof.Machine.execTwosum g d a b s
  | .twoprod g d a b => Sys2Proof.Machine.execTwoprod g d a b s
  | .cpack g d a b => Sys2Proof.Machine.execCpack g d a b s
  | .cpart g d a im => Sys2Proof.Machine.execCpart g d a im s
  -- row 0x6: conversions (R129 to R136)
  | .cvtif g d a t => Sys2Proof.Machine.execCvtif g d a t s
  | .cvtfi g d a t f => Sys2Proof.Machine.execCvtfi g d a t f s
  | .cvtn g d a b => Sys2Proof.Machine.execCvtn g d a b s
  | .cvtw g d a b => Sys2Proof.Machine.execCvtw g d a b s
  | .cvtmx g d a b => Sys2Proof.Machine.execCvtmx g d a b s
  | .pack g d a b f => Sys2Proof.Machine.execPack g d a b f s
  | .unpk g d a f => Sys2Proof.Machine.execUnpk g d a f s
  -- row 0x7: lanes (R115 to R120)
  | .shfl g d a b f => Sys2Proof.Machine.execShfl g d a b f s
  | .shflt g d a b f => Sys2Proof.Machine.execShflt g d a b f s
  | .bcast g d a b f => Sys2Proof.Machine.execBcast g d a b f s
  | .tred g d a f => Sys2Proof.Machine.execTred g d a f s
  | .tscan g d a excl f => Sys2Proof.Machine.execTscan g d a excl f s
  | .ftred g d a f => Sys2Proof.Machine.execFtred g d a f s
  -- row 0x8: loads and stores (R219 to R222)
  | .ldI8 g d b off => Sys2Proof.Machine.execLdI8 g d b off s
  | .ldN8 g d b off => Sys2Proof.Machine.execLdN8 g d b off s
  | .ldI16 g d b off => Sys2Proof.Machine.execLdI16 g d b off s
  | .ldN16 g d b off => Sys2Proof.Machine.execLdN16 g d b off s
  | .ldI32 g d b off => Sys2Proof.Machine.execLdI32 g d b off s
  | .ldN32 g d b off => Sys2Proof.Machine.execLdN32 g d b off s
  | .ld64 g d b off => Sys2Proof.Machine.execLd64 g d b off s
  | .ldp g d b off => Sys2Proof.Machine.execLdp g d b off s
  | .st8 g d b off => Sys2Proof.Machine.execSt8 g d b off s
  | .st16 g d b off => Sys2Proof.Machine.execSt16 g d b off s
  | .st32 g d b off => Sys2Proof.Machine.execSt32 g d b off s
  | .st64 g d b off => Sys2Proof.Machine.execSt64 g d b off s
  | .stp g d b off => Sys2Proof.Machine.execStp g d b off s
  | .ldx g d a b f => Sys2Proof.Machine.execLdx g d a b f s
  | .stx g d a b f => Sys2Proof.Machine.execStx g d a b f s
  | .ldu g d b off => Sys2Proof.Machine.execLdu g d b off s
  | .loadReturn team load lanes => Sys2Proof.Machine.execLoadReturn team load lanes s
  | .writeBufferDrain core bank => Sys2Proof.Machine.execWriteBufferDrain core bank s
  -- row 0x9: atomics (R223 to R228)
  | .aadd g d a b f => Sys2Proof.Machine.execAadd g d a b f s
  | .aand g d a b f => Sys2Proof.Machine.execAand g d a b f s
  | .aor g d a b f => Sys2Proof.Machine.execAor g d a b f s
  | .axor g d a b f => Sys2Proof.Machine.execAxor g d a b f s
  | .amin g d a b f => Sys2Proof.Machine.execAmin g d a b f s
  | .amax g d a b f => Sys2Proof.Machine.execAmax g d a b f s
  | .aminn g d a b f => Sys2Proof.Machine.execAminn g d a b f s
  | .amaxn g d a b f => Sys2Proof.Machine.execAmaxn g d a b f s
  | .aswp g d a b f => Sys2Proof.Machine.execAswp g d a b f s
  | .acas g d a b f => Sys2Proof.Machine.execAcas g d a b f s
  | .afadd g d a b f => Sys2Proof.Machine.execAfadd g d a b f s
  | .red g o a b f => Sys2Proof.Machine.execRed g o a b f s
  -- row 0xA: ordering and transactions (R229 to R240)
  | .fence g => Sys2Proof.Machine.execFence g s
  | .xfence g => Sys2Proof.Machine.execXfence g s
  | .cdrain g f => Sys2Proof.Machine.execCdrain g f s
  | .txbeg disp => Sys2Proof.Machine.execTxbeg disp s
  | .txend => Sys2Proof.Machine.execTxend s
  | .txabt g a => Sys2Proof.Machine.execTxabt g a s
  | .txst g d rel => Sys2Proof.Machine.execTxst g d rel s
  | .ldacq g d b off => Sys2Proof.Machine.execLdacq g d b off s
  | .strel g d b off => Sys2Proof.Machine.execStrel g d b off s
  | .pfetch g b off => Sys2Proof.Machine.execPfetch g b off s
  -- row 0xB: engines, counters, fork sets (R242 to R259)
  | .cpy g kb c => Sys2Proof.Machine.execCpy g kb c s
  | .cpy2 g kb c => Sys2Proof.Machine.execCpy2 g kb c s
  | .gath g kb z c => Sys2Proof.Machine.execGath g kb z c s
  | .scat g kb z c => Sys2Proof.Machine.execScat g kb z c s
  | .cfill g kb c => Sys2Proof.Machine.execCfill g kb c s
  | .engineCommandComplete cmd act => Sys2Proof.Machine.execEngineCommandComplete cmd act s
  | .segmentReplay cmd seg => Sys2Proof.Machine.execSegmentReplay cmd seg s
  | .copyKernelRewrite cmd => Sys2Proof.Machine.execCopyKernelRewrite cmd s
  | .cinc g kb => Sys2Proof.Machine.execCinc g kb s
  | .counterIncrement inc => Sys2Proof.Machine.execCounterIncrement inc s
  | .cwait g kb => Sys2Proof.Machine.execCwait g kb s
  | .cwaitExpiry team => Sys2Proof.Machine.execCwaitExpiry team s
  | .arm g kb => Sys2Proof.Machine.execArm g kb s
  | .fork g d a c => Sys2Proof.Machine.execFork g d a c s
  | .join g a => Sys2Proof.Machine.execJoin g a s
  | .cstat g d a arm => Sys2Proof.Machine.execCstat g d a arm s
  | .entriesExhaustedExpiry team => Sys2Proof.Machine.execEntriesExhaustedExpiry team s
  -- row 0xC: matrix (R149 to R161)
  | .rload g n kb => Sys2Proof.Machine.execRload g n kb s
  | .mloop g m n kb t acc => Sys2Proof.Machine.execMloop g m n kb t acc s
  | .mloopSp g m n kb t acc => Sys2Proof.Machine.execMloopSp g m n kb t acc s
  | .mdrain g m n kb t sg => Sys2Proof.Machine.execMdrain g m n kb t sg s
  | .mzero g m n t k => Sys2Proof.Machine.execMzero g m n t k s
  | .mcol g n kb => Sys2Proof.Machine.execMcol g n kb s
  | .mload g m n kb t k => Sys2Proof.Machine.execMload g m n kb t k s
  | .mxfer g m n kb t o => Sys2Proof.Machine.execMxfer g m n kb t o s
  | .mprog g t clr => Sys2Proof.Machine.execMprog g t clr s
  | .mwait g t rel all => Sys2Proof.Machine.execMwait g t rel all s
  | .matrixSequencerProgress core => Sys2Proof.Machine.execMatrixSequencerProgress core s
  | .matrixUnitHandover core => Sys2Proof.Machine.execMatrixUnitHandover core s
  | .matrixUnitWaitExpiry team => Sys2Proof.Machine.execMatrixUnitWaitExpiry team s
  | .rimeScrub core badRow => Sys2Proof.Machine.execRimeScrub core badRow s
  -- row 0xD: barriers, promises, spawning (R296 to R319)
  | .bari g kb => Sys2Proof.Machine.execBari g kb s
  | .barr g d b off => Sys2Proof.Machine.execBarr g d b off s
  | .barw g p off a b => Sys2Proof.Machine.execBarw g p off a b s
  | .bard g b off => Sys2Proof.Machine.execBard g b off s
  | .pinit g b off => Sys2Proof.Machine.execPinit g b off s
  | .pfill g d b off => Sys2Proof.Machine.execPfill g d b off s
  | .pwait g d b off => Sys2Proof.Machine.execPwait g d b off s
  | .ptest g p off b => Sys2Proof.Machine.execPtest g p off b s
  | .peq g a b => Sys2Proof.Machine.execPeq g a b s
  | .pcomp g b off => Sys2Proof.Machine.execPcomp g b off s
  | .spawn g kb => Sys2Proof.Machine.execSpawn g kb s
  | .binTimerExpiry site bin => Sys2Proof.Machine.execBinTimerExpiry site bin s
  | .launch g a => Sys2Proof.Machine.execLaunch g a s
  | .launcht g p a => Sys2Proof.Machine.execLauncht g p a s
  | .launchStalledExpiry team => Sys2Proof.Machine.execLaunchStalledExpiry team s
  | .deviceLaunchQueueDrain part => Sys2Proof.Machine.execDeviceLaunchQueueDrain part s
  | .yield g => Sys2Proof.Machine.execYield g s
  -- row 0xE: remote operations and collectives (R270 to R277, R320 to R329)
  | .rput g kb n o => Sys2Proof.Machine.execRput g kb n o s
  | .rget g kb n => Sys2Proof.Machine.execRget g kb n s
  | .ratom g kb w32 c => Sys2Proof.Machine.execRatom g kb w32 c s
  | .rred g kb n w32 c => Sys2Proof.Machine.execRred g kb n w32 c s
  | .xput g kb n => Sys2Proof.Machine.execXput g kb n s
  | .xopen g kb => Sys2Proof.Machine.execXopen g kb s
  | .xred g kb => Sys2Proof.Machine.execXred g kb s
  | .xclose g a => Sys2Proof.Machine.execXclose g a s
  | .rfence g => Sys2Proof.Machine.execRfence g s
  | .rname g d a => Sys2Proof.Machine.execRname g d a s
  | .remotePacketApply op act => Sys2Proof.Machine.execRemotePacketApply op act s
  | .remoteCompletion op => Sys2Proof.Machine.execRemoteCompletion op s
  | .deliveryTimeout ref => Sys2Proof.Machine.execDeliveryTimeout ref s
  | .rotorSlot site adjust => Sys2Proof.Machine.execRotorSlot site adjust s
  | .pdcTeardown site pdc => Sys2Proof.Machine.execPdcTeardown site pdc s
  | .reductionPacketArrive pkt => Sys2Proof.Machine.execReductionPacketArrive pkt s
  | .nodeForwardDeadline site inst h j => Sys2Proof.Machine.execNodeForwardDeadline site inst h j s
  | .nodeCloseDeadline site inst h j => Sys2Proof.Machine.execNodeCloseDeadline site inst h j s
  | .noReductionSlotExpiry team => Sys2Proof.Machine.execNoReductionSlotExpiry team s
  | .xcloseRemoteFailed team => Sys2Proof.Machine.execXcloseRemoteFailed team s
  -- row 0xF: hints, special registers, system (R42 to R46, R65 to R69, R356 to R366)
  | .imm v => Sys2Proof.Machine.execImm v s
  | .immh v => Sys2Proof.Machine.execImmh v s
  | .mod p => Sys2Proof.Machine.execMod p s
  | .sget g d n => Sys2Proof.Machine.execSget g d n s
  | .sset g a n => Sys2Proof.Machine.execSset g a n s
  | .qcfg g q a depth1 count => Sys2Proof.Machine.execQcfg g q a depth1 count s
  | .trap g c => Sys2Proof.Machine.execTrap g c s
  | .eret => Sys2Proof.Machine.execEret s
  | .ctxs g kb => Sys2Proof.Machine.execCtxs g kb s
  | .ctxr g kb => Sys2Proof.Machine.execCtxr g kb s
  | .tlbi g a => Sys2Proof.Machine.execTlbi g a s
  | .tlbiName g a => Sys2Proof.Machine.execTlbiName g a s
  | .tlbiAll g => Sys2Proof.Machine.execTlbiAll g s
  | .fbpop g d => Sys2Proof.Machine.execFbpop g d s
  | .fbpopW1 g d => Sys2Proof.Machine.execFbpopW1 g d s
  | .frz g kb => Sys2Proof.Machine.execFrz g kb s
  | .frzDetail g kb => Sys2Proof.Machine.execFrzDetail g kb s
  | .frzRelease g kb => Sys2Proof.Machine.execFrzRelease g kb s
  | .pidx g d a => Sys2Proof.Machine.execPidx g d a s
  | .pidxSet g a b => Sys2Proof.Machine.execPidxSet g a b s
  -- steps of the scheduler, the recovery machinery and the outside world
  | .faultBufferWatchdog site => Sys2Proof.Machine.execFaultBufferWatchdog site s
  | .hostNotify site value tenant => Sys2Proof.Machine.execHostNotify site value tenant s
  | .chunkRefetch site q => Sys2Proof.Machine.execChunkRefetch site q s
  | .launchAccept part => Sys2Proof.Machine.execLaunchAccept part s
  | .teamAdmit team core => Sys2Proof.Machine.execTeamAdmit team core s
  | .teamAged team => Sys2Proof.Machine.execTeamAged team s
  | .gangReserve part launch => Sys2Proof.Machine.execGangReserve part launch s
  | .gangCommit part launch => Sys2Proof.Machine.execGangCommit part launch s
  | .gangBackoffExpiry part launch => Sys2Proof.Machine.execGangBackoffExpiry part launch s
  | .tswitchGo site next => Sys2Proof.Machine.execTswitchGo site next s
  | .sliceDeadline site => Sys2Proof.Machine.execSliceDeadline site s
  | .handlerWatchdog site => Sys2Proof.Machine.execHandlerWatchdog site s
  | .rowThaw team what => Sys2Proof.Machine.execRowThaw team what s
  | .teamResume team => Sys2Proof.Machine.execTeamResume team s
  | .tenantDescriptorWrite site ofs size value monitor => Sys2Proof.Machine.execTenantDescriptorWrite site ofs size value monitor s
  | .tvbdefWrite site n0 value => Sys2Proof.Machine.execTvbdefWrite site n0 value s
  | .hqcfgWrite site q value => Sys2Proof.Machine.execHqcfgWrite site q value s
  | .rselcfgWrite site value => Sys2Proof.Machine.execRselcfgWrite site value s
  | .controlRegisterWrite site ofs value monitor => Sys2Proof.Machine.execControlRegisterWrite site ofs value monitor s
  | .freeze site unit detail => Sys2Proof.Machine.execFreeze site unit detail s
  | .partitionRecovery part failed lostReplicas => Sys2Proof.Machine.execPartitionRecovery part failed lostReplicas s
  | .journalReplicaRebuild part target => Sys2Proof.Machine.execJournalReplicaRebuild part target s
  | .watchdogTimeout site k => Sys2Proof.Machine.execWatchdogTimeout site k s
  | .supplyFault site reading => Sys2Proof.Machine.execSupplyFault site reading s
  | .powerLoss site => Sys2Proof.Machine.execPowerLoss site s
  | .thermalSample site cluster tenths => Sys2Proof.Machine.execThermalSample site cluster tenths s
  | .powerOnReset dev => Sys2Proof.Machine.execPowerOnReset dev s
  | .deviceReset site => Sys2Proof.Machine.execDeviceReset site s
  | .siteReset site => Sys2Proof.Machine.execSiteReset site s
  | .partitionBuild dev sites key reserved base time sig => Sys2Proof.Machine.execPartitionBuild dev sites key reserved base time sig s
  | .partitionTeardown part sig => Sys2Proof.Machine.execPartitionTeardown part sig s
  | .reinstatementRecord dev record => Sys2Proof.Machine.execReinstatementRecord dev record s
  | .firmwareUpdate site image sig complete => Sys2Proof.Machine.execFirmwareUpdate site image sig complete s
  | .firmwareImageAnnounce site length => Sys2Proof.Machine.execFirmwareImageAnnounce site length s
  | .attestationRequest site nonce kind => Sys2Proof.Machine.execAttestationRequest site nonce kind s
  | .attestationReportDone site => Sys2Proof.Machine.execAttestationReportDone site s
  | .hostBar4Access site ofs write => Sys2Proof.Machine.execHostBar4Access site ofs write s
  | .writeQueueApply team op lane => Sys2Proof.Machine.execWriteQueueApply team op lane s
  | .portLost site port => Sys2Proof.Machine.execPortLost site port s
  | .portRestored site port => Sys2Proof.Machine.execPortRestored site port s
  | .deliveryRetransmit ref => Sys2Proof.Machine.execDeliveryRetransmit ref s

end Sys2Proof.Machine
end

