-- ==== Sys2Proof/Machine/Slot.lean ====
section
/-! DEFINITION. An issue slot of a core: which teams are ready, which of them issues (R294), and the word it runs. -/

namespace Sys2Proof.Machine

/-! ### Readiness (R294) -/

/-- Where the team's next word would lead if it were issued now. -/
def State.preview (s : State) (t : Team) : State :=
  let s1 := State.parkOnHead { s.putTeam { t with held := false } with cur := t.id } t.id
  match s1.team? t.id with
  | none => s1
  | some u =>
    match u.status with
    | .running =>
      (match s1.fetch u with
       | .ended s2 => s2
       | .word s2 w =>
         match decode w with
         | .error _ => s2.illegalWord w
         | .ok i => match exec i s2 with | .next s3 => s3 | _ => s2)
    | _ => s1

/-- Work of the team, or of its core's write buffer, is under way, so that its next word may have to wait for it. -/
def State.busy (s : State) (t : Team) : Bool :=
  !t.pend.isEmpty || !(s.core t.coreKey).wbuf.isEmpty || s.incs.any (fun i => i.team == some t.id) ||
    s.ops.any (fun o => o.team == t.id) || !(s.matrixQueueOf t).isEmpty

/-- In s1, what its next word leads to, something of this work is over: the word waits for it. -/
def State.wordWaits (s s1 : State) (t : Team) : Bool :=
  let pend1 := match s1.team? t.id with | some u => u.pend | none => []
  t.pend.any (fun p => !pend1.any (fun q => q.id == p.id)) ||
    (s.core t.coreKey).wbuf.any (fun e => !(s1.core t.coreKey).wbuf.any (fun f => f.id == e.id)) ||
    s.incs.any (fun i => i.team == some t.id && !s1.incs.any (fun j => j.id == i.id))

/-- A busy team's next word is not stalled now: it does not stall outright, and what it waits for is over in this slot, as a
free value says. -/
def State.canIssue (s : State) (t : Team) : Bool :=
  let s1 := s.preview t
  !(s1.team? t.id).any (fun u => u.held) && !(s.wordWaits s1 t && Config.freeBool (s.draw 14 t.id))

/-- The team runs, at a site that works, and its next word is not stalled; what runs at the monitor level runs whether the
line is up or not, at a site with power and out of reset (R20, R294, R364, R385). -/
def State.ready (s : State) (core : Nat) (t : Team) : Bool :=
  t.coreKey == core && t.status == .running && (s.live (coreSite core) || (t.mon && (s.site (coreSite core)).mgmt.powered && !(s.site (coreSite core)).mgmt.inReset)) && (!s.busy t || s.canIssue t)

/-! ### The choice of the team (R294) -/

/-- Slots since the team last issued, or became ready. -/
def State.slotCount (s : State) (t : Team) : Nat := (s.core t.coreKey).slots - t.lastIssue

/-- Of two teams the one that comes first: greater count, then lower slot. -/
def State.longer (s : State) (a b : Team) : Bool :=
  decide (s.slotCount b < s.slotCount a) || (s.slotCount a == s.slotCount b && decide (a.place.slot < b.place.slot))

/-- The first of a list under an order. -/
def firstBy (f : Team → Team → Bool) : List Team → Option Team
  | [] => none
  | t :: r =>
    match firstBy f r with
    | none => some t
    | some u => if f u t then some u else some t

/-- The team that a core takes in this slot: one that has waited 7 × N slots comes first, else priority decides. -/
def State.chooseTeam (s : State) (core : Nat) : Option Team :=
  let ready := s.teams.filter (s.ready core)
  let n := (s.teams.filter (fun t => t.coreKey == core && t.resident && !t.isReserved)).length
  if ready.any (fun t => decide (7 * n ≤ s.slotCount t)) then firstBy s.longer ready
  else firstBy (fun a b => decide (a.hdr.priority < b.hdr.priority) ||
    (a.hdr.priority == b.hdr.priority && s.longer a b)) ready

/-! ### The slot -/

/-- What an issue slot leads to. -/
inductive Slotted where
  /-- the instruction to run, by the team now current -/
  | run (s : State) (i : Instr)
  | ended (s : State)
  | lost (part : Nat)
deriving DecidableEq, Repr

/-- The partition of a core's site is lost (R368). -/
def State.lostPart (s : State) (core : Nat) : Option Nat :=
  match (s.site (coreSite core)).part with
  | none => none
  | some p => match s.part? p with
    | some q => if q.state = .lost then some p else none
    | none => none

/-- A slot passes: running teams of the core that are not ready count from a later one. -/
def State.recount (s : State) (core : Nat) : State :=
  let n := (s.core core).slots + 1
  { s with teams := s.teams.map (fun u =>
      if u.coreKey == core && u.status == .running && !s.ready core u then { u with lastIssue := n } else u) }

/-- Counts the slot, and the team as issued in it. -/
def State.takeSlot (s : State) (core : Nat) (t : Option Team) : State :=
  let c := s.core core
  let s1 := (s.recount core).putCore { c with slots := c.slots + 1 }
  match t with
  | some u => { s1.putTeam { u with lastIssue := c.slots + 1 } with cur := u.id }
  | none => { s1 with cur := 0 }

/-- An issue slot of a core: a team is chosen and its word read; a word that is no instruction raises the
illegal-class trap of R33. -/
def State.issue (s : State) (core : Nat) : Slotted :=
  match s.lostPart core with
  | some p => .lost p
  | none =>
    match s.chooseTeam core with
    | none => .ended (s.takeSlot core none)
    | some t =>
      let s1 := (s.takeSlot core (some t)).parkOnHead t.id
      match s1.team? t.id with
      | none => .ended s1
      | some u =>
        if u.status = .running then
          match s1.fetch u with
          | .ended s2 => .ended s2
          | .word s2 w =>
            match decode w with
            | .ok i => .run s2 i
            | .error _ => .ended (s2.illegalWord w)
        else .ended s1

end Sys2Proof.Machine
end

