-- ==== Sys2Proof/Machine/Step.lean ====
section
/-! DEFINITION. One step: the turn that the agenda gives, or a free value, is taken, and what follows at once follows. -/

namespace Sys2Proof.Machine

/-- One step of the machine. -/
def step (s : State) : Host.Outcome State Fault Refusal :=
  match s.takeTurn with
  | (none, s1) => .next s1.endStep
  | (some (.event i), s1) => endOutcome (exec i { s1 with cur := 0 })
  | (some (.issue core), s1) =>
    match s1.issue core with
    | .run s2 i => endOutcome (exec i s2)
    | .ended s2 => .next s2.endStep
    | .lost p => .fault (.partitionLost p)

/-- One instruction word where the next step fetches. -/
def State.withFetchWord (s : State) (nbits w : Nat) : State := s.placeWord (BitVec.ofNat 32 (w % 2 ^ nbits))

end Sys2Proof.Machine
end

