-- ==== Sys2Proof/Safety.lean ====
section
/-! DEFINITION. What statements ask of a run: that it goes on, what every state of it keeps, when a word issues with
its own effect, and what a completed word leaves behind. -/

namespace Sys2Proof.Machine

/-- A step goes on: neither a fault nor a refusal. -/
def goesOn (r : Host.Outcome State Fault Refusal) : Prop := ∃ t, r = .next t

/-- A run of n steps goes on. -/
def runsFor : Nat → State → Prop
  | 0, _ => True
  | n + 1, s => ∃ t, step s = .next t ∧ runsFor n t

/-- The memory is in its canonical form. -/
def State.memOk (s : State) : Prop := Mem.wf s.mem = true

/-! ### When a word has its own effect -/

/-- A word of this shape reaches its own effect: its team issues, a lane is active (R38), the checks of R49 steps 1
to 4 pass, no outstanding access concerns its operands (R165), and the team did not come back from a park at it. -/
def Issues (s : State) (sh : Shape) (t : Team) : Prop :=
  s.curTeam? = some t ∧ sh.active t ≠ 0 ∧ sh.wf = true ∧ sh.priv ≤ t.ctl.priv ∧
  hintOk sh.imm sh.immh sh.mod t.ctl.hint = true ∧ sh.boundOk t = true ∧ sh.emptyOk t = true ∧ sh.fullOk t = true ∧
  t.wake = none ∧ t.pend.all (fun p => !sh.conflicts p (sh.dst.isSome && sh.pass.isNone)) = true

/-- The values of a shape's sources, in the order they are read (R36). -/
def valsOf (sh : Shape) (t : Team) : List LaneVec := (t.readSrcs sh.srcs).1

/-- The team with the shape's queue sources popped (R36, R70). -/
def popped (sh : Shape) (t : Team) : Team := (t.readSrcs sh.srcs).2

/-- What the word's own effect works with. -/
def ctxOf (sh : Shape) (t : Team) : Ctx :=
  { t, sh, act := sh.active t, vals := valsOf sh t, pass := passOf t sh (valsOf sh t), hint := t.ctl.hint, wake := none }

/-- The instruction runs the effect f for every state and team of which its shape issues. -/
def Runs (i : Instr) (sh : Shape) (f : State → Ctx → State) : Prop :=
  ∀ s t, Issues s sh t → exec i s = .next (f s (ctxOf sh t))

/-! ### What a completed word leaves -/

def qOfDst : Dst → Option Nat
  | .q n => some n.val
  | _ => none
def sOfDst : Dst → Option Nat
  | .s n => some n.val
  | _ => none

/-- A word that pushes one entry is complete (R30, R34, R36, R46, R53, R54, R70): active lanes hold their results in
the new d0 and in the named destination, inactive lanes push the passthrough value, older drift entries age, queue
sources lose their oldest entry, the pc moves on and the hint is empty; nothing else of the team changes. -/
structure Pushed (t t' : Team) (sh : Shape) (d : Dst) (v : Nat → Word) : Prop where
  newest : ∀ l, l < t.nlane → lane (t'.d 0) l =
    if Mask.has (sh.active t) l then v l else lane (passOf t sh (valsOf sh t)) l
  older : ∀ n, n < 15 → t'.d (n + 1) = t.d n
  kDst : ∀ n l, kOfDst d = some n → l < t.nlane → lane (t'.k n) l =
    if Mask.has (sh.active t) l then v l else lane (t.k n) l
  kOther : ∀ n, kOfDst d ≠ some n → t'.k n = t.k n
  sDst : ∀ n, t'.s n = if sOfDst d = some n then lane (vtab t.nlane v) (Mask.first (sh.active t) t.nlane) else t.s n
  queues : ∀ n, (t'.queue n).depth = (t.queue n).depth ∧
    (t'.queue n).items = (t.queue n).items.drop (sh.pops n) ++ (if qOfDst d = some n then [t'.d 0] else [])
  rest : t' = { t with
    regs := { t'.regs with p := t.regs.p }, ctl := { t.ctl with pc := t.ctl.pc + 4, hint := {} },
    pend := t.pend.map (fun p => { p with age := p.age + 1 }), wake := none, did := 0, stalled := none, held := false,
    spawning := [], unsent := [] }

/-- The instruction computes one value per active lane, pushes it, and changes nothing outside its team. -/
def PushesLanes (i : Instr) (sh : Shape) (d : Dst) (v : Team → List LaneVec → Nat → Word) : Prop :=
  ∀ s t, Issues s sh t → ∃ t', exec i s = .next (s.putTeam t') ∧ Pushed t t' sh d (v t (valsOf sh t))

/-- A legal word with no active lane is over (R39, R54): it has popped and pushed every queue it names, and pushed its
passthrough in every lane once, or twice, where its form pushes; its hint is empty, and nothing else of the team
changes. -/
structure Idled (t t' : Team) (sh : Shape) : Prop where
  newest : ∀ n l, n < (if sh.dst = none then 0 else if sh.pushes = 2 then 2 else 1) → l < t.nlane →
    lane (t'.d n) l = lane (passOf t sh (valsOf sh t)) l
  older : ∀ n, n + (if sh.dst = none then 0 else if sh.pushes = 2 then 2 else 1) < 16 →
    t'.d (n + (if sh.dst = none then 0 else if sh.pushes = 2 then 2 else 1)) = t.d n
  kKept : ∀ n l, l < t.nlane → lane (t'.k n) l = lane (t.k n) l
  sKept : ∀ n, t'.s n = t.s n
  queues : ∀ n, (t'.queue n).depth = (t.queue n).depth ∧ (t'.queue n).items = (t.queue n).items.drop (sh.pops n) ++
    (if sh.dst.bind qOfDst = some n then [t'.d 0] else [])
  rest : t' = { t with
    regs := { t'.regs with p := t.regs.p }, ctl := { t.ctl with pc := t.ctl.pc + 4, hint := {} },
    wake := none, did := 0, stalled := none, held := false, spawning := [], unsent := [] }

/-- A long instruction has written its first pass and no more (R117, R119, R341): its operands are popped, the lanes of
pass 0 have pushed and written what they take, the team stands at the word still, and it holds the values of every lane
that later passes write, with the operand they came from. -/
structure FirstPass (t t' : Team) (sh : Shape) (d : Dst) (v : Nat → Word) : Prop where
  held : ∃ op, t'.long = some op ∧ op.op = sh.op ∧ op.passes = 1 ∧ op.src = (valsOf sh t).getD 0 [] ∧
    ∀ l, l < t.nlane → lane op.staged l = if Mask.has (sh.active t) l then v l else lane (passOf t sh (valsOf sh t)) l
  newest : ∀ l, l < t.nlane → lane (t'.d 0) l =
    if 32 ≤ l then lane (t.d 0) l
    else if Mask.has (sh.active t) l then v l else lane (passOf t sh (valsOf sh t)) l
  older : ∀ n l, n < 15 → l < t.nlane → lane (t'.d (n + 1)) l = if 32 ≤ l then lane (t.d (n + 1)) l else lane (t.d n) l
  kDst : ∀ n l, l < t.nlane → lane (t'.k n) l =
    if kOfDst d = some n ∧ l < 32 ∧ Mask.has (sh.active t) l = true then v l else lane (t.k n) l
  sDst : ∀ n f, f = Mask.first (sh.active t) t.nlane → t'.s n =
    if sOfDst d = some n ∧ f < 32 ∧ f < t.nlane ∧ Mask.has (sh.active t) f = true then v f else t.s n
  queues : ∀ n, (t'.queue n).depth = (t.queue n).depth ∧ (qOfDst d ≠ some n →
    (t'.queue n).items = (t.queue n).items.drop (sh.pops n)) ∧
    (qOfDst d = some n → ∃ x, (t'.queue n).items = (t.queue n).items.drop (sh.pops n) ++ [x] ∧
      ∀ l, l < 32 → l < t.nlane → lane x l = lane (t'.d 0) l)
  rest : t' = { t with regs := { t'.regs with p := t.regs.p }, long := t'.long }

/-- A long instruction that was under way has written its passes from the index on, up to another, and no more (R117, R119): those
lanes have pushed and written what is staged, and every other lane keeps what it had; a queue destination's entry, which the
first pass made, takes them. -/
structure LaterPasses (t t' : Team) (sh : Shape) (d : Dst) (o : LongOp) (upto : Nat) : Prop where
  newest : ∀ l, l < t.nlane → lane (t'.d 0) l = if o.passes ≤ l / 32 ∧ l / 32 < upto then lane o.staged l else lane (t.d 0) l
  older : ∀ n l, n < 15 → l < t.nlane →
    lane (t'.d (n + 1)) l = if o.passes ≤ l / 32 ∧ l / 32 < upto then lane (t.d n) l else lane (t.d (n + 1)) l
  kDst : ∀ n l, l < t.nlane → lane (t'.k n) l =
    if kOfDst d = some n ∧ o.passes ≤ l / 32 ∧ l / 32 < upto ∧ Mask.has (sh.active t) l = true then lane o.staged l
    else lane (t.k n) l
  sDst : ∀ n f, f = Mask.first (sh.active t) t.nlane → t'.s n =
    if sOfDst d = some n ∧ f < t.nlane ∧ Mask.has (sh.active t) f = true ∧ o.passes ≤ f / 32 ∧ f / 32 < upto
    then lane o.staged f else t.s n
  queues : ∀ n, (t'.queue n).depth = (t.queue n).depth ∧
    (qOfDst d ≠ some n → (t'.queue n).items = (t.queue n).items) ∧
    (qOfDst d = some n → ∀ front last, (t.queue n).items = front ++ [last] → ∃ x, (t'.queue n).items = front ++ [x] ∧
      ∀ l, l < t.nlane → lane x l = if o.passes ≤ l / 32 ∧ l / 32 < upto then lane o.staged l else lane last l)
  preds : t'.regs.p = t.regs.p

/-- A word that writes one predicate is complete (R35, R109): its active lanes take their decisions, the others and
the other predicates stay; queue sources are popped, the pc moves on, nothing is pushed. -/
structure WroteP (t t' : Team) (sh : Shape) (p : Nat) (v : Nat → Bool) : Prop where
  bits : ∀ n l, l < t.nlane → l < 1024 → Mask.has (t'.p n) l =
    if n = p ∧ Mask.has (sh.active t) l = true then v l else Mask.has (t.p n) l
  queues : ∀ n, (t'.queue n).depth = (t.queue n).depth ∧ (t'.queue n).items = (t.queue n).items.drop (sh.pops n)
  rest : t' = { t with
    regs := { t.regs with p := t'.regs.p, q := t'.regs.q },
    ctl := { t.ctl with pc := t.ctl.pc + 4, hint := {} }, wake := none, did := 0, stalled := none, held := false,
    spawning := [], unsent := [] }

/-- The instruction decides one predicate per active lane and changes nothing outside its team. -/
def WritesPred (i : Instr) (sh : Shape) (p : Fin 7) (v : Team → List LaneVec → Nat → Bool) : Prop :=
  ∀ s t, Issues s sh t → ∃ t', exec i s = .next (s.putTeam t') ∧ WroteP t t' sh p.val (v t (valsOf sh t))

/-- Lane results of one, two and three operand values. -/
def of1 (f : Word → Word) (_ : Team) (vs : List LaneVec) (l : Nat) : Word := f (lane (vs.getD 0 []) l)
def of2 (f : Word → Word → Word) (_ : Team) (vs : List LaneVec) (l : Nat) : Word :=
  f (lane (vs.getD 0 []) l) (lane (vs.getD 1 []) l)
def of3 (f : Word → Word → Word → Word) (_ : Team) (vs : List LaneVec) (l : Nat) : Word :=
  f (lane (vs.getD 0 []) l) (lane (vs.getD 1 []) l) (lane (vs.getD 2 []) l)
/-- The same under the rounding attribute in force (R44, R122). -/
def rnd1 (f : RMode → Word → Word) (t : Team) : List LaneVec → Nat → Word := of1 (f t.ctl.hint.round) t
def rnd2 (f : RMode → Word → Word → Word) (t : Team) : List LaneVec → Nat → Word := of2 (f t.ctl.hint.round) t
def rnd3 (f : RMode → Word → Word → Word → Word) (t : Team) : List LaneVec → Nat → Word := of3 (f t.ctl.hint.round) t

/-- The instruction pushes two entries, the second the newest: the results of one word, then what goes with them, an
inactive lane its passthrough twice; the named destination takes the first (R121, R128). -/
def PushesTwo (i : Instr) (sh : Shape) (d : Dst) (f : Word → Word → Word × Word) : Prop :=
  ∀ s t, Issues s sh t → ∃ t1 e, exec i s = .next (s.putTeam (t1.pushDrift e)) ∧
    Pushed t t1 sh d (of2 (fun x y => (f x y).1) t (valsOf sh t)) ∧
    ∀ l, l < t.nlane → lane e l =
      if Mask.has (sh.active t) l then of2 (fun x y => (f x y).2) t (valsOf sh t) l else lane (passOf t sh (valsOf sh t)) l

/-- An operation at the operating width of R94: on all 64 bits, or on the low 32 bits with the result extended. -/
def atWidth (signed : Bool) (f : IWidth) (op : (n : Nat) → BitVec n → BitVec n → BitVec n) (x y : Word) : Word :=
  match f with
  | .w64 => op 64 x y
  | .w32 => let r := op 32 (x.setWidth 32) (y.setWidth 32); if signed then r.signExtend 64 else r.setWidth 64

/-- Where a binary32 code that is no NaN stands in the order of its values: the two zeros at 0 (R110). -/
def orderKey (x : Word) : Int := if x.getLsbD 31 then -(x.toNat % 2 ^ 31 : Nat) else (x.toNat % 2 ^ 31 : Nat)

/-- A binary32 code that is neither a NaN nor an infinity (R72). -/
def Finite32 (x : Word) : Prop := x.toNat % 2 ^ 31 < 0x7F800000

/-- A word of the team is over with this control state: nothing of its attempts is left. -/
def Team.over (t : Team) (c : Ctl) : Team :=
  { t with ctl := c, wake := none, did := 0, stalled := none, held := false, spawning := [], unsent := [] }

/-- The team stands at its next word, everything else of it as given; it is the only change of the machine. -/
def movesOn (s : State) (t : Team) (r : Host.Outcome State Fault Refusal) : Prop :=
  r = .next (s.putTeam (t.over { t.ctl with pc := t.ctl.pc + 4, hint := {} }))

/-- The trap a word takes instead of its effect: class, code, and the lanes it marks. -/
def Traps (i : Instr) (s : State) (t : Team) (op cls code : Nat) (mask : Mask) : Prop :=
  exec i s = .next (s.trapAt t op cls code mask)

/-! ### Memory -/

/-- Nothing of the team is outstanding: no access, no write-buffer entry, no increment, and none of its queued matrix
instructions has reads to make. -/
def Quiet (s : State) (t : Team) : Prop :=
  t.pend = [] ∧ (∀ e ∈ (s.core t.coreKey).wbuf, e.team ≠ t.id) ∧ (∀ i ∈ s.incs, i.team ≠ some t.id) ∧
  s.mxReads t (fun _ => true) = false

/-- No transaction is live, no team has fetched ahead of its outstanding accesses, and nobody waits on a cell of the site or
on a barrier word: a write at a port of the site has no effect but its bytes and the line-buffer copies that go. -/
def NoListeners (s : State) (site : Nat) : Prop :=
  (∀ u ∈ s.teams, u.tx.live = false ∧ u.fetched = [] ∧ ∀ w k n, u.parkedIn ≠ some (.barrier w k, n)) ∧
    (s.site site).waits = []

/-- Two memories read the same outside a run of addresses. -/
def KeepsOutside (m m' : Memory) (lo hi : Nat) : Prop := ∀ a, a < lo ∨ hi ≤ a → Mem.get m' a = Mem.get m a

/-- The state with the names of other sites' addresses in the name cache (R177). -/
def State.named (s : State) (t : Team) (l : List Word) : State :=
  l.foldl (fun s a => if gDev a = t.place.ldev ∧ gSite a = t.place.lsite then s
    else s.fillName t.place.site t.ctl.acting.toNat (gDev a) (gSite a)) s

/-- The byte that the lanes of a store put at an address: the last lane that covers it wins (R169). -/
def storedByte (xs : List LaneX) (size : Nat) (data : Nat → List Byte) (a : Nat) : Option Byte :=
  (xs.reverse.find? (fun x => decide (x.phys ≤ a ∧ a < x.phys + size))).map (fun x => (data x.lane).getD (a - x.phys) 0)

/-- The addresses that an acquire, or a release, of this ordering orders; none of any other (R190). -/
def Ord.span (t : Team) : Ord → Option Span
  | .acquire scope => some (t.spanOf scope)
  | .release scope => some (t.spanOf scope)
  | .plain => none
  | .strong => none

/-- A load as the rules give it: its shape, size, sign, whether one read serves all lanes, its ordering, and the lanes'
addresses. -/
structure LoadForm where
  i : Instr
  sh : Shape
  size : Nat
  sign : Bool
  uniform : Bool
  ord : Ord
  addrs : List (Nat × Word)

/-- The loads of rows 0x8 and 0xA (R219 to R222, R232). -/
def loadForms (t : Team) (g : Guard) (d : Dst) (a b : Src) (off : BitVec 8) (f : Fin 4) : List LoadForm :=
  let plain (i : Instr) (op size : Nat) (sign : Bool) : LoadForm :=
    { i, sh := shapeLoad op g d b, size, sign, uniform := false, ord := ordOf true t.ctl.hint,
      addrs := addrsM (ctxOf (shapeLoad op g d b) t) size off }
  let pair : Shape := { shapeLoad 0x87 g d b with regs := pairOfDst d, wf := wfLdp d }
  let acqSh : Shape := { shapeLoad 0xA7 g d b with mod := .scope }
  let xSh : Shape := { op := 0x8D, sel := .guard g, srcs := [a, b], dst := some d, pass := some a, mod := .width }
  [plain (.ldI8 g d b off) 0x80 1 true, plain (.ldN8 g d b off) 0x81 1 false, plain (.ldI16 g d b off) 0x82 2 true,
   plain (.ldN16 g d b off) 0x83 2 false, plain (.ldI32 g d b off) 0x84 4 true, plain (.ldN32 g d b off) 0x85 4 false,
   plain (.ld64 g d b off) 0x86 8 false,
   { plain (.ldp g d b off) 0x87 16 false with sh := pair, addrs := addrsM (ctxOf pair t) 16 off },
   { plain (.ldu g d b off) 0x8F 8 false with
     uniform := true, addrs := (addrsM (ctxOf (shapeLoad 0x8F g d b) t) 8 off).take 1 },
   { i := .ldx g d a b f, sh := xSh, size := sizeX t.ctl.hint, sign := false, uniform := false, ord := .plain,
     addrs := addrsX (ctxOf xSh t) f },
   { i := .ldacq g d b off, sh := acqSh, size := 8, sign := false, uniform := false,
     ord := .acquire (scopeOf t.ctl.hint), addrs := addrsM (ctxOf acqSh t) 8 off }]

/-- A store as the rules give it: its shape, size, ordering, the lanes' addresses, and a lane's bytes. -/
structure StoreForm where
  i : Instr
  sh : Shape
  size : Nat
  ord : Ord
  addrs : List (Nat × Word)
  data : Nat → List Byte

/-- The stores of rows 0x8 and 0xA (R219, R220, R222, R232). -/
def storeForms (t : Team) (g : Guard) (d a b : Src) (off : BitVec 8) (f : Fin 4) : List StoreForm :=
  let plain (i : Instr) (op size : Nat) : StoreForm :=
    let sh := shapeStore op g d b
    { i, sh, size, ord := ordOf false t.ctl.hint, addrs := addrsM (ctxOf sh t) size off,
      data := fun l => leBytes size (lane ((valsOf sh t).getD 1 []) l).toNat }
  let pair : Shape := { shapeStore 0x8C g d b with regs := pairOfSrc d, wf := wfStp d }
  let relSh : Shape := { shapeStore 0xA8 g d b with mod := .scope }
  let xSh : Shape := { op := 0x8E, sel := .guard g, srcs := [a, b, d], mod := .width }
  [plain (.st8 g d b off) 0x88 1, plain (.st16 g d b off) 0x89 2, plain (.st32 g d b off) 0x8A 4,
   plain (.st64 g d b off) 0x8B 8,
   { plain (.stp g d b off) 0x8C 16 with
     sh := pair, addrs := addrsM (ctxOf pair t) 16 off,
     data := fun l => leBytes 8 (lane ((valsOf pair t).getD 1 []) l).toNat ++
       leBytes 8 (lane (t.k ((pairOfSrc d).headD 0)) l).toNat },
   { i := .stx g d a b f, sh := xSh, size := sizeX t.ctl.hint, ord := .plain,
     addrs := addrsX (ctxOf xSh t) f,
     data := fun l => leBytes (sizeX t.ctl.hint) (lane ((valsOf xSh t).getD 2 []) l).toNat },
   { i := .strel g d b off, sh := relSh, size := 8, ord := .release (scopeOf t.ctl.hint), addrs := addrsM (ctxOf relSh t) 8 off,
     data := fun l => leBytes 8 (lane ((valsOf relSh t).getD 1 []) l).toNat }]

/-- An atomic of row 0x9: its shape and operation (R224 to R228). -/
structure AtomForm where
  i : Instr
  sh : Shape
  op : RatomOp

def atomForms (g : Guard) (d : Dst) (a b : Src) (f : AOrd) : List AtomForm :=
  let sh (op : Nat) (srcs : List Src) : Shape :=
    { op, sel := .guard g, srcs, dst := some d, pass := some a, mod := .atomic }
  [⟨.aadd g d a b f, sh 0x90 [a, b], .op .add⟩, ⟨.aand g d a b f, sh 0x91 [a, b], .op .and⟩,
   ⟨.aor g d a b f, sh 0x92 [a, b], .op .or⟩, ⟨.axor g d a b f, sh 0x93 [a, b], .op .xor⟩,
   ⟨.amin g d a b f, sh 0x94 [a, b], .op .min⟩, ⟨.amax g d a b f, sh 0x95 [a, b], .op .max⟩,
   ⟨.aminn g d a b f, sh 0x96 [a, b], .op .minn⟩, ⟨.amaxn g d a b f, sh 0x97 [a, b], .op .maxn⟩,
   ⟨.aswp g d a b f, sh 0x98 [a, b], .swp⟩, ⟨.acas g d a b f, sh 0x99 [a, b, oldOf d], .cas⟩,
   ⟨.afadd g d a b f, sh 0x9A [a, b], .op .fadd⟩]

/-! ### Matrix -/

/-- A queued matrix instruction as the rules give it: its shape, the word and arguments its entry holds, the format word
that FMT takes, what its checks at issue ask, and what the checks of its address ranges answer. -/
structure MForm where
  i : Instr
  sh : Shape
  word : Code
  args : List Word
  fmt : Option Nat := none
  ok : Prop
  ranges : List RangeRes := []

/-- What `mloop` and `mloop.sp` ask at issue (R154). -/
def mloopOk (c : Ctx) (p : Proj) (sparse acc : Bool) (m n tile : Nat) : Prop :=
  let w := (c.arg1 4).toNat
  let steps := (c.arg1 3).toNat
  let count := steps % 2 ^ 16
  let first := steps / 2 ^ 16
  let k := kStep (fmtClass (fwA w))
  let kind := kindOfAcc (fwAcc w)
  voteBad c (some 4) [1, 2, 3] = none ∧ fmtWordOk w = true ∧ (fwSparse w == 1) = sparse ∧ steps < 2 ^ 32 ∧
  first % k = 0 ∧ tile + spanOf m n kind ≤ 8 ∧ (acc = true → p.kinds.getD tile .f32 = kind) ∧
  (∀ r, p.rl = some r → fwA r.1 = fwA w ∧ fwB r.1 = fwB w ∧ fwBSgn r.1 = fwBSgn w ∧ fwScale r.1 = fwScale w) ∧
  first + count * k ≤ (match p.rl with | some r => r.2.1 | none => 0) ∧
  n ≤ (match p.rl with | some r => r.2.2 | none => 0) ∧
  alignBad c (natAlign (fwA w)) (c.arg1 0) [c.arg1 1, c.arg1 2] = none ∧
  (fwRsum w = true → c.arg1 5 ≠ 0 → alignBad c 8 (c.arg1 5) [] = none)

/-- The ranges that `mloop` and `mloop.sp` check: every byte of A that the steps read, and the row sums. -/
def mloopRanges (s : State) (c : Ctx) (sparse : Bool) (m : Nat) : List RangeRes :=
  let w := (c.arg1 4).toNat
  [s.rangeBad c (c.arg1 0) m (c.arg1 1) ((c.arg1 3).toNat % 2 ^ 16) (c.arg1 2) (rowBytes w sparse) false] ++
  (if fwRsum w = true ∧ c.arg1 5 ≠ 0 then [s.rangeBad c (c.arg1 5) 1 0 1 0 (8 * m) true] else [])

/-- The instructions that enter the sequencer queue (R153 to R159). -/
def matrixForms (s : State) (t : Team) (g : Guard) (m : MRows) (n : BitVec 6) (kb : Fin 32) (tile : Fin 8) (b : Bool)
    (k : TKind) (o : XferOp) : List MForm :=
  let cols := 16 * (n.toNat + 1)
  let rows := rowsOf m
  let p := (s.core t.coreKey).mx.project
  let ctx (sh : Shape) : Ctx := ctxOf sh t
  let rl := shapeX 0xC0 g kb 4
  let ml := shapeX 0xC1 g kb 6
  let ms := shapeX 0xC2 g kb 6
  let md := shapeX 0xC3 g kb 4
  let mz : Shape := { op := 0xC4, sel := .guard g }
  let mc := shapeX 0xC5 g kb 1
  let mo := shapeX 0xC6 g kb 2
  let mx := shapeX 0xC7 g kb 1
  let flag : BitVec 4 := (0 : BitVec 3) ++ encBool b
  [{ i := .rload g n kb, sh := rl, word := wordX 0xC0 (encGuard g) 0 n kb 0 0, args := blockArgs (ctx rl) 4,
     fmt := some ((ctx rl).arg1 3).toNat,
     ok :=
       let c := ctx rl
       let w := (c.arg1 3).toNat
       let kres := (c.arg1 2).toNat
       let cl := fmtClass (fwB w)
       voteBad c (some 3) [1, 2] = none ∧ fmtWordOk w = true ∧ kres ≠ 0 ∧ kres % kStep cl = 0 ∧
       kres * cols * cells cl ≤ 262144 ∧ alignBad c (natAlign (fwB w)) (c.arg1 0) [c.arg1 1] = none,
     ranges :=
       let c := ctx rl
       let w := (c.arg1 3).toNat
       let kres := (c.arg1 2).toNat
       [s.rangeBad c (c.arg1 0) cols (c.arg1 1) 1 0
         (kres * elemBits (fwB w) / 8 + (if trailing w (fwB w) then kres / 32 else 0)) false] },
   { i := .mloop g m n kb tile b, sh := ml, word := wordX 0xC1 (encGuard g) (encMRows m) n kb tile flag,
     args := blockArgs (ctx ml) 6, fmt := some ((ctx ml).arg1 4).toNat,
     ok := mloopOk (ctx ml) p false b rows cols tile.val, ranges := mloopRanges s (ctx ml) false rows },
   { i := .mloopSp g m n kb tile b, sh := ms, word := wordX 0xC2 (encGuard g) (encMRows m) n kb tile flag,
     args := blockArgs (ctx ms) 6, fmt := some ((ctx ms).arg1 4).toNat,
     ok := mloopOk (ctx ms) p true b rows cols tile.val, ranges := mloopRanges s (ctx ms) true rows },
   { i := .mdrain g m n kb tile b, sh := md, word := wordX 0xC3 (encGuard g) (encMRows m) n kb tile flag,
     args := blockArgs (ctx md) 4, fmt := some ((ctx md).arg1 2).toNat,
     ok :=
       let c := ctx md
       let w := (c.arg1 2).toNat
       let range := (c.arg1 3).toNat
       let first := range % 2 ^ 16
       let count := range / 2 ^ 16
       let kind := kindOfAcc (fwAcc w)
       voteBad c (some 2) [1, 3] = none ∧ fmtWordOk w = true ∧ drainOk w = true ∧
       p.kinds.getD tile.val .f32 = kind ∧ range < 2 ^ 32 ∧ first + count ≤ cols ∧
       tile.val + spanOf rows cols kind ≤ 8 ∧ (fwReq w = true → ∀ j, j < count → (first + j) ∈ p.cols) ∧
       alignBad c (natAlign (fwD w)) (c.arg1 0) [c.arg1 1] = none,
     ranges :=
       let c := ctx md
       let count := (c.arg1 3).toNat / 2 ^ 16
       [s.rangeBad c (c.arg1 0) rows (c.arg1 1) 1 0 ((count * elemBits (fwD (c.arg1 2).toNat) + 7) / 8) true] },
   { i := .mzero g m n tile k, sh := mz, word := wordX 0xC4 (encGuard g) (encMRows m) n 0 tile ((0 : BitVec 2) ++ encTKind k),
     args := [], ok := tile.val + spanOf rows cols k ≤ 8 },
   { i := .mcol g n kb, sh := mc, word := wordX 0xC5 (encGuard g) 0 n kb 0 0, args := blockArgs (ctx mc) 1,
     ok := alignBad (ctx mc) 16 ((ctx mc).arg1 0) [] = none,
     ranges := [s.rangeBad (ctx mc) ((ctx mc).arg1 0) 1 0 1 0 (256 * (n.toNat + 1)) false] },
   { i := .mload g m n kb tile k, sh := mo,
     word := wordX 0xC6 (encGuard g) (encMRows m) n kb tile ((0 : BitVec 2) ++ encTKind k), args := blockArgs (ctx mo) 2,
     ok :=
       let c := ctx mo
       voteBad c none [1] = none ∧ tile.val + spanOf rows cols k ≤ 8 ∧
       alignBad c (elemSizeOf k) (c.arg1 0) [c.arg1 1] = none,
     ranges := [s.rangeBad (ctx mo) ((ctx mo).arg1 0) rows ((ctx mo).arg1 1) 1 0 (cols * elemSizeOf k) false] },
   { i := .mxfer g m n kb tile o, sh := mx,
     word := wordX 0xC7 (encGuard g) (encMRows m) n kb tile ((0 : BitVec 2) ++ encXfer o), args := blockArgs (ctx mx) 1,
     ok :=
       let c := ctx mx
       let src := (c.arg1 0).toNat
       let kind := p.kinds.getD src .f32
       voteBad c none [0] = none ∧ src < 8 ∧ src + spanOf rows cols kind ≤ 8 ∧ tile.val + spanOf rows cols kind ≤ 8 ∧
       (o ≠ .mov → p.kinds.getD tile.val .f32 = kind) ∧ (o = .adds → kind = .i32) }]

/-- The groups that one element of a tile takes in a step, in ascending K: g elements of the A row and of the B column each
(R88, R154). -/
def groupsOf (g : Nat) : Nat → List Elem → List Elem → List (List Elem × List Elem)
  | 0, _, _ => []
  | n + 1, as_, bs => (as_.take g, bs.take g) :: groupsOf g n (as_.drop g) (bs.drop g)

/-- The values of those groups under a format word: the real part, and for CF32 the imaginary part (R82, R88). -/
def groupValues (w : Nat) (as_ bs : List Elem) : List (FV × FV) :=
  let cl := fmtClass (fwA w)
  (groupsOf (groupOf cl) (kStep cl / groupOf cl) as_ bs).map (fun p =>
    if fwAcc w = 3 then groupComplex (window cl) p.1 p.2
    else (groupReal (isIntFmt (fwA w)) (isIntFmt (fwB w)) (window cl) p.1 p.2, .fin false 0 0))

/-- The elements of a resident column that one step takes, from K row k0 on (R153, R154). -/
def columnOf (w : Nat) (r : RLoad) (n k0 : Nat) : List Elem :=
  ((elemValues (fwB w) (fwBSgn w) (r.codes.getD n []) (r.scales.getD n [])).drop k0).take (kStep (fmtClass (fwA w)))

/-- One component pair (H, L) takes a value (R92). -/
def pairTakes (p : Nat × Nat) (v : FV) : Nat × Nat :=
  let q := accPair p.1 p.2 v
  (q.1 % 2 ^ 32, q.2 % 2 ^ 32)

/-! ### Remote operations -/

/-- A remote operation with one request per lane as the rules give it (R272 to R275). -/
structure RemForm where
  i : Instr
  sh : Shape
  fn : Nat
  ordered : Bool
  req : Nat → RemReq

def remForms (t : Team) (g : Guard) (kb : Fin 32) (n w32 o : Bool) (ra : RatomOp) (ao : AtomOp) (code : Nat) :
    List RemForm :=
  let sh (op k : Nat) : Shape := { op, sel := .guard g, blk := some (kb, k), mod := .plane }
  let c (op k : Nat) : Ctx := ctxOf (sh op k) t
  let own : Word := BitVec.ofNat 64 (t.place.ldev * 2 ^ 43 + t.place.lsite * 2 ^ 37)
  let notify (c : Ctx) (l : Nat) (home : Word) (r : RemReq) : RemReq := withCtr n (c.arg 3 l) home r
  let w := if w32 then 4 else 8
  [{ i := .rput g kb n o, sh := sh 0xE0 (3 + n.toNat), fn := n.toNat * 2 + o.toNat, ordered := o,
     req := fun l =>
       let c := c 0xE0 (3 + n.toNat)
       let len := (c.arg 2 l).toNat
       notify c l (c.arg 0 l)
         { lane := l, dest := c.arg 0 l, local_ := c.arg 1 l, len, ranges := [(c.arg 1 l, len, false)],
           lenOk := decide (len ≤ 256) } },
   { i := .rget g kb n, sh := sh 0xE1 (3 + n.toNat), fn := n.toNat * 2, ordered := false,
     req := fun l =>
       let c := c 0xE1 (3 + n.toNat)
       let len := (c.arg 2 l).toNat
       notify c l own
         { lane := l, dest := c.arg 1 l, local_ := c.arg 0 l, len, ranges := [(c.arg 0 l, len, true)],
           ctrWindow := n && region (gOfs (c.arg 3 l)) == .control, lenOk := decide (len ≤ 256) } },
   { i := .ratom g kb w32 ra, sh := sh 0xE2 4, fn := code + 16 * w32.toNat, ordered := false,
     req := fun l =>
       let c := c 0xE2 4
       let res := c.arg 3 l
       { lane := l, dest := c.arg 0 l, local_ := res, opnd := c.arg 1 l, expect := c.arg 2 l,
         aligns := (c.arg 0 l, w) :: (if res = 0 then [] else [(res, 8)]),
         ranges := if res = 0 then [] else [(res, 8, true)] } },
   { i := .rred g kb n w32 ao, sh := sh 0xE3 (3 + n.toNat), fn := n.toNat * 64 + w32.toNat * 16 + atomCode ao,
     ordered := false,
     req := fun l =>
       let c := c 0xE3 (3 + n.toNat)
       let len := (c.arg 2 l).toNat
       notify c l (c.arg 0 l)
         { lane := l, dest := c.arg 0 l, local_ := c.arg 1 l, len, aligns := [(c.arg 0 l, w), (c.arg 1 l, w)],
           ranges := [(c.arg 1 l, len, false)], lenOk := decide (len ≤ 256 ∧ len % w = 0) } }]

/-- What a waiting operation shows of its lane's request. -/
def RemOp.asked (o : RemOp) : Nat × Nat × Nat × Word × Word × Nat × Word × Word × Option Word :=
  (o.op, o.fn, o.lane, o.dest, o.local_, o.len, o.opnd, o.expect, o.ctr)

end Sys2Proof.Machine
end

