-- ==== Sys2Proof/Certificates/Slice0/Obligations.lean ====
section
/-! DEFINITION. The statements for the provers, in the order of OBLIGATIONS.json. `Issues` (Safety) is what a word of an
instruction needs of its team to have its own effect; `PushesLanes` and `WritesPred` say what a word that pushes one
entry, or writes one predicate, leaves, the frame included. -/

open Sys2Proof Sys2Proof.Machine

/-! ### Decoding, reset, one step -/

/-- Words written out from the encodings of R52 and of the rows' own rules decode to the instructions they stand for.
Cases: nop, add, and, li, fadd.bf16x4, cadd, cvtn, shfl, ld.i16, aadd, fence, cpy, mloop, bari, rput, trap. -/
def Obligations.SpecWordsDecode : Prop :=
  decode 0x01F00000 = .ok (.nop .always) ∧
  decode 0x10F48459 = .ok (.add .always (.k 2) (.d 4) (.k 6) .w32) ∧
  decode 0x209C31E0 = .ok (.and (.unless 1) (.q 0) (.q 1) (.s 0) .w64) ∧
  decode 0x30F4001D = .ok (.li .always (.k 0) 29) ∧
  decode 0x40F00005 = .ok (.fadd .always .drift (.d 0) (.d 1) .bf16x4) ∧
  decode 0x50F00008 = .ok (.cadd .always .drift (.d 0) (.d 2)) ∧
  decode 0x62F40040 = .ok (.cvtn .always (.k 0) (.d 0) .i8) ∧
  decode 0x70F00042 = .ok (.shfl .always .drift (.d 0) (.k 0) .rise) ∧
  decode 0x82F41580 = .ok (.ldI16 .always (.k 0) (.k 5) 0x80) ∧
  decode 0x90F49544 = .ok (.aadd .always (.k 2) (.k 5) (.k 1) .relaxed) ∧
  decode 0xA0F00000 = .ok (.fence .always) ∧
  decode 0xB0F08000 = .ok (.cpy .always 1 false) ∧
  decode 0xC1F00200 = .ok (.mloop .always .m8 0 4 0 false) ∧
  decode 0xD0F10000 = .ok (.bari .always 2) ∧
  decode 0xE0F00000 = .ok (.rput .always 0 false false) ∧
  decode 0xF6F00005 = .ok (.trap .always 5)

/-- Every well-formed instruction that has a word decodes from it, at every value of every operand. -/
def Obligations.DecodeUndoesEncode : Prop :=
  ∀ (i : Instr) (w : Code), WellFormed i = true → encode i = some w → decode w = .ok i

/-- Every word that decodes to a well-formed instruction is the word that instruction encodes to: no bit is dropped. -/
def Obligations.EncodeUndoesDecode : Prop :=
  ∀ (w : Code) (i : Instr), decode w = .ok i → WellFormed i = true → encode i = some w

/-- A slot in which a team is ready runs the instruction that its word decodes to: the team with the word at its pc is
chosen, made current, and step is exec of the decoded instruction with the end of the step around it; a word that is no
instruction is the illegal-class trap of R33 instead. -/
def Obligations.StepRunsTheFetchedInstruction : Prop :=
  ∀ (s s1 s2 : State) (core : Nat) (t u : Team) (w : Code) (i : Instr),
    s.takeTurn = (some (.issue core), s1) → s1.lostPart core = none → s1.chooseTeam core = some t →
    ((s1.takeSlot core (some t)).parkOnHead t.id).team? t.id = some u → u.status = .running →
    ((s1.takeSlot core (some t)).parkOnHead t.id).fetch u = .word s2 w →
    (decode w = .ok i → step s = endOutcome (exec i s2)) ∧
    ∀ e, decode w = .error e → step s = .next (s2.illegalWord w).endStep

/-- A turn of the agenda that is an event is exec of that event, no team issuing, after the turn's time has passed. -/
def Obligations.StepRunsTheEvent : Prop :=
  ∀ (s : State) (n : Nat) (i : Instr) (r : List Turn), s.agenda = { wait := n, act := .event i } :: r →
    step s = endOutcome (exec i { s with agenda := r, now := s.now + n, cur := 0 })

/-- After reset: memory is empty and canonical and reads 0 everywhere, no partition is built, no team stands anywhere,
and every site's RSELCFG reads 0x0028_0384_0202_0200, the value of R266. That memory reads 0 where nothing is written is log 6,
that no partition and no team stands then is log 7, both the model's. -/
def Obligations.ResetState : Prop :=
  State.reset.memOk ∧ (∀ a, Mem.get State.reset.mem a = 0) ∧ State.reset.teams = [] ∧ State.reset.parts = [] ∧
  ∀ k, (State.reset.site k).rselcfg = 0x0028038402020200

/-- Every step keeps the memory in its canonical form, whatever the turn. -/
def Obligations.StepKeepsMemoryCanonical : Prop :=
  ∀ s t : State, s.memOk → step s = .next t → t.memOk

/-! ### Operands -/

/-- Sources are read in the order of the instruction's fields: a drift entry, a k register and an s register as they
stood, a queue's entry the oldest after the pops of the sources before it. -/
def Obligations.SourcesReadInOrder : Prop :=
  ∀ (t : Team) (sh : Shape) (n : Nat) (a : Src), sh.srcs[n]? = some a →
    match a with
    | .d i => (valsOf sh t)[n]? = some (t.d i.val)
    | .k i => (valsOf sh t)[n]? = some (t.k i.val)
    | .q i => (valsOf sh t)[n]? = some ((t.queue i.val).items.getD ({ sh with srcs := sh.srcs.take n }.pops i.val) [])
    | .s i => (valsOf sh t)[n]? = some (List.replicate t.nlane (t.s i.val))

/-- A word with no active lane, whatever its operands. One that is illegal in itself, or needs a higher level, only moves
on: its hint and everything else stay. A legal one acts as R39 gives, whether or not it takes the pending hint: its checks
of step 4 trap with no lane marked, and where they hold it pops, pushes its passthrough once, twice or not at all, leaves
predicates, uniform registers and every lane of the k registers, and empties the hint. `add` and `ill` are such words; a
word that decodes to no instruction is no operation too. -/
def Obligations.NoActiveLane : Prop :=
  (∀ (s : State) (t : Team) (sh : Shape) (f : State → Ctx → State), s.curTeam? = some t → sh.active t = 0 →
    (sh.wf = false ∨ t.ctl.priv < sh.priv →
      s.run sh f = .next (s.putTeam { t with ctl := { t.ctl with pc := t.ctl.pc + 4 } })) ∧
    (sh.wf = true → sh.priv ≤ t.ctl.priv → t.pend = [] →
      (sh.boundOk t = false → s.run sh f = .next (s.trapAt t sh.op 1 0x01 0)) ∧
      (sh.boundOk t = true → sh.emptyOk t = false → s.run sh f = .next (s.trapAt t sh.op 1 0x02 0)) ∧
      (sh.boundOk t = true → sh.emptyOk t = true → sh.fullOk t = false → s.run sh f = .next (s.trapAt t sh.op 1 0x03 0)) ∧
      (sh.boundOk t = true → sh.emptyOk t = true → sh.fullOk t = true →
        ∃ t', s.run sh f = .next (s.putTeam t') ∧ Idled t t' sh))) ∧
  (∀ (s : State) (t : Team) (w : Code) (e : DecodeError), s.curTeam? = some t → t.enabled = 0 → decode w = .error e →
    s.illegalWord w = s.putTeam { t with ctl := { t.ctl with pc := t.ctl.pc + 4 } }) ∧
  (∀ (s : State) (t : Team) (g : Guard) (d : Dst) (a b : Src) (f : IWidth),
    s.curTeam? = some t → (shapeDAB 0x10 g d a b).active t = 0 → t.pend = [] →
    (shapeDAB 0x10 g d a b).boundOk t = true → (shapeDAB 0x10 g d a b).emptyOk t = true →
    (shapeDAB 0x10 g d a b).fullOk t = true →
    ∃ t', exec (.add g d a b f) s = .next (s.putTeam t') ∧ Pushed t t' (shapeDAB 0x10 g d a b)
      (match d with | .s _ => .drift | d => d) (fun _ => 0)) ∧
  (∀ (s : State) (t : Team) (w : Code), s.curTeam? = some t → t.enabled = 0 →
    exec (.ill w) s = .next (s.putTeam { t with ctl := { t.ctl with pc := t.ctl.pc + 4 } }))

/-! ### Rows 0x1 and 0x2 -/

/-- Each instruction of row 0x1 computes its value in every active lane, pushes it, writes its destination, and leaves
everything else (R53, R54, R95, R96, R97).
Each instruction of row 0x2 computes its value in every active lane, pushes it, writes its destination, and leaves
everything else (R99 to R103). -/
def Obligations.IntegerAndLogicComplete : Prop :=
  (
    ∀ (g : Guard) (d : Dst) (a b : Src) (f : IWidth),
      PushesLanes (.add g d a b f) (shapeDAB 0x10 g d a b) d (of2 (addLane f)) ∧
      PushesLanes (.sub g d a b f) (shapeDAB 0x11 g d a b) d (of2 (subLane f)) ∧
      PushesLanes (.mul g d a b f) (shapeDAB 0x12 g d a b) d (of2 (mulLane f)) ∧
      PushesLanes (.mulh g d a b f) (shapeDAB 0x13 g d a b) d (of2 (mulhLane f)) ∧
      PushesLanes (.mulhn g d a b f) (shapeDAB 0x14 g d a b) d (of2 (mulhnLane f)) ∧
      PushesLanes (.mad g d a b f) { shapeDAB 0x15 g d a b with srcs := [a, b, oldOf d] } d (of3 (madLane f)) ∧
      PushesLanes (.div g d a b f) (shapeDAB 0x16 g d a b) d (of2 (divLane f)) ∧
      PushesLanes (.divn g d a b f) (shapeDAB 0x17 g d a b) d (of2 (divnLane f)) ∧
      PushesLanes (.rem g d a b f) (shapeDAB 0x18 g d a b) d (of2 (remLane f)) ∧
      PushesLanes (.remn g d a b f) (shapeDAB 0x19 g d a b) d (of2 (remnLane f)) ∧
      PushesLanes (.min g d a b f) (shapeDAB 0x1A g d a b) d (of2 (minLane f)) ∧
      PushesLanes (.max g d a b f) (shapeDAB 0x1B g d a b) d (of2 (maxLane f)) ∧
      PushesLanes (.minn g d a b f) (shapeDAB 0x1C g d a b) d (of2 (minnLane f)) ∧
      PushesLanes (.maxn g d a b f) (shapeDAB 0x1D g d a b) d (of2 (maxnLane f)) ∧
      PushesLanes (.adds g d a b f) (shapeDAB 0x1E g d a b) d (of2 (addsLane f)) ∧
      PushesLanes (.subs g d a b f) (shapeDAB 0x1F g d a b) d (of2 (subsLane f))
  ) ∧ (
    ∀ (g : Guard) (d : Dst) (a b : Src) (f : IWidth) (e : ExtFrom) (sign : Bool),
      PushesLanes (.and g d a b f) (shapeDAB 0x20 g d a b) d (of2 (andLane f)) ∧
      PushesLanes (.or g d a b f) (shapeDAB 0x21 g d a b) d (of2 (orLane f)) ∧
      PushesLanes (.xor g d a b f) (shapeDAB 0x22 g d a b) d (of2 (xorLane f)) ∧
      PushesLanes (.andn g d a b f) (shapeDAB 0x23 g d a b) d (of2 (andnLane f)) ∧
      PushesLanes (.shl g d a b f) (shapeDAB 0x24 g d a b) d (of2 (shlLane f)) ∧
      PushesLanes (.shr g d a b f) (shapeDAB 0x25 g d a b) d (of2 (shrLane f)) ∧
      PushesLanes (.sar g d a b f) (shapeDAB 0x26 g d a b) d (of2 (sarLane f)) ∧
      PushesLanes (.rol g d a b f) (shapeDAB 0x27 g d a b) d (of2 (rolLane f)) ∧
      PushesLanes (.clz g d a f) (shapeDA 0x28 g d a) d (of1 (clzLane f)) ∧
      PushesLanes (.ctz g d a f) (shapeDA 0x29 g d a) d (of1 (ctzLane f)) ∧
      PushesLanes (.popc g d a f) (shapeDA 0x2A g d a) d (of1 (popcLane f)) ∧
      PushesLanes (.brev g d a f) (shapeDA 0x2B g d a) d (of1 (brevLane f)) ∧
      PushesLanes (.bfx g d a b f) (shapeDAB 0x2C g d a b) d (of2 (bfxLane f)) ∧
      PushesLanes (.bfi g d a b f) { shapeDAB 0x2D g d a b with srcs := [a, b, .d 0] } d (of3 (bfiLane f)) ∧
      PushesLanes (.ext g d a sign e) (shapeDA 0x2E g d a) d (of1 (extLane sign e)) ∧
      PushesLanes (.neg g d a) (shapeDA 0x2F g d a) d (of1 (fun x => 0 - x)) ∧
      PushesLanes (.abs g d a) (shapeDA 0x2F g d a) d (of1 (fun x => if x.slt 0 then 0 - x else x)) ∧
      PushesLanes (.not g d a) (shapeDA 0x2F g d a) d (of1 (fun x => ~~~x))
  )

/-- The values of row 0x1 are the two's complement operations at the width of the word: wrapping sums and products, the
high half of a product, signed and unsigned minimum and maximum, and sums clamped to the signed range.
The values of the logic row: bitwise operations, shifts by the low 6 or 5 bits of b with zeros or sign copies
entering, rotation within the width, and the extensions of the low 8, 16 or 32 bits; the zeros before the first set bit
from either end, the set bits, and the bits reversed; the field of len bits at pos taken out, or put in, its part past the
width lost, with the sign copies of a 32-bit result above (R99 to R102). -/
def Obligations.IntegerAndLogicValues : Prop :=
  (
    ∀ (f : IWidth) (x y z : Word),
      addLane f x y = atWidth true f (fun _ a b => a + b) x y ∧
      subLane f x y = atWidth true f (fun _ a b => a - b) x y ∧
      mulLane f x y = atWidth true f (fun _ a b => a * b) x y ∧
      mulhLane f x y = atWidth true f (fun n a b => (a.signExtend (n + n) * b.signExtend (n + n)).extractLsb' n n) x y ∧
      mulhnLane f x y = atWidth false f (fun n a b => (a.setWidth (n + n) * b.setWidth (n + n)).extractLsb' n n) x y ∧
      madLane f x y z = atWidth true f (fun _ a b => a + b) (mulLane f x y) z ∧
      minLane f x y = atWidth true f (fun _ a b => if b.slt a then b else a) x y ∧
      maxLane f x y = atWidth true f (fun _ a b => if a.slt b then b else a) x y ∧
      minnLane f x y = atWidth false f (fun _ a b => if b.ult a then b else a) x y ∧
      maxnLane f x y = atWidth false f (fun _ a b => if a.ult b then b else a) x y ∧
      addsLane f x y = atWidth true f (fun n a b =>
        if a.toInt + b.toInt < -2 ^ (n - 1) then BitVec.intMin n
        else if 2 ^ (n - 1) ≤ a.toInt + b.toInt then BitVec.intMax n else a + b) x y ∧
      subsLane f x y = atWidth true f (fun n a b =>
        if a.toInt - b.toInt < -2 ^ (n - 1) then BitVec.intMin n
        else if 2 ^ (n - 1) ≤ a.toInt - b.toInt then BitVec.intMax n else a - b) x y
  ) ∧ (
    ∀ (f : IWidth) (x y : Word),
      andLane f x y = atWidth true f (fun _ a b => a &&& b) x y ∧
      orLane f x y = atWidth true f (fun _ a b => a ||| b) x y ∧
      xorLane f x y = atWidth true f (fun _ a b => a ^^^ b) x y ∧
      andnLane f x y = atWidth true f (fun _ a b => a &&& ~~~b) x y ∧
      shlLane f x y = atWidth true f (fun n a b => a <<< (b.toNat % n)) x y ∧
      shrLane f x y = atWidth true f (fun n a b => a >>> (b.toNat % n)) x y ∧
      sarLane f x y = atWidth true f (fun n a b => a.sshiftRight (b.toNat % n)) x y ∧
      rolLane f x y = atWidth true f (fun n a b => a.rotateLeft (b.toNat % n)) x y ∧
      extLane false .b8 x = (x.setWidth 8).setWidth 64 ∧ extLane true .b8 x = (x.setWidth 8).signExtend 64 ∧
      extLane false .b16 x = (x.setWidth 16).setWidth 64 ∧ extLane true .b16 x = (x.setWidth 16).signExtend 64 ∧
      extLane false .b32 x = (x.setWidth 32).setWidth 64 ∧ extLane true .b32 x = (x.setWidth 32).signExtend 64 ∧
      ∀ n, n = (match f with | .w64 => 64 | .w32 => 32) →
        (∃ k, clzLane f x = BitVec.ofNat 64 k ∧ k ≤ n ∧ (∀ i, i < k → x.getLsbD (n - 1 - i) = false) ∧
          (k < n → x.getLsbD (n - 1 - k) = true)) ∧
        (∃ k, ctzLane f x = BitVec.ofNat 64 k ∧ k ≤ n ∧ (∀ i, i < k → x.getLsbD i = false) ∧ (k < n → x.getLsbD k = true)) ∧
        popcLane f x = BitVec.ofNat 64 ((List.range n).countP (fun i => x.getLsbD i)) ∧
        (∀ i, i < n → (brevLane f x).getLsbD i = x.getLsbD (n - 1 - i)) ∧
        (∀ (c z : Word) (pos len i : Nat), pos = (c.extractLsb' 0 6).toNat → len = min (c.extractLsb' 8 7).toNat 64 → i < n →
          (bfxLane f x c).getLsbD i = (decide (i < len ∧ pos + i < n) && x.getLsbD (pos + i)) ∧
          (bfiLane f x z c).getLsbD i = (if pos ≤ i ∧ i < pos + len then z.getLsbD (i - pos) else x.getLsbD i)) ∧
        ∀ (c z : Word) (i : Nat), n ≤ i → i < 64 →
          (brevLane f x).getLsbD i = (brevLane f x).getLsbD (n - 1) ∧
          (bfxLane f x c).getLsbD i = (bfxLane f x c).getLsbD (n - 1) ∧
          (bfiLane f x z c).getLsbD i = (bfiLane f x z c).getLsbD (n - 1)
  )

/-- Division in every active lane at the word's width, without a trap: a divisor of 0 gives all ones and the dividend;
the minimum by −1 gives the minimum and 0; else the quotient truncates toward zero and the remainder is a − quotient × b;
the width's extension applies afterwards, and the sample results of R98 follow. -/
def Obligations.Division : Prop :=
  (∀ (g : Guard) (d : Dst) (a b : Src) (f : IWidth),
    PushesLanes (.div g d a b f) (shapeDAB 0x16 g d a b) d (of2 (atWidth true f (fun n a b =>
      if b = 0 then BitVec.allOnes n else if a = BitVec.intMin n ∧ b = -1 then BitVec.intMin n
      else BitVec.ofInt n (a.toInt.tdiv b.toInt)))) ∧
    PushesLanes (.rem g d a b f) (shapeDAB 0x18 g d a b) d (of2 (atWidth true f (fun n a b =>
      if b = 0 then a else if a = BitVec.intMin n ∧ b = -1 then 0
      else a - BitVec.ofInt n (a.toInt.tdiv b.toInt) * b))) ∧
    PushesLanes (.divn g d a b f) (shapeDAB 0x17 g d a b) d (of2 (atWidth false f (fun n a b =>
      if b = 0 then BitVec.allOnes n else BitVec.ofNat n (a.toNat / b.toNat)))) ∧
    PushesLanes (.remn g d a b f) (shapeDAB 0x19 g d a b) d (of2 (atWidth false f (fun n a b =>
      if b = 0 then a else a - BitVec.ofNat n (a.toNat / b.toNat) * b)))) ∧
  divLane .w64 0x8000000000000000 (-1) = 0x8000000000000000 ∧ remLane .w64 0x8000000000000000 (-1) = 0 ∧
  divLane .w64 7 0 = 0xFFFFFFFFFFFFFFFF ∧ remLane .w64 7 0 = 7 ∧ divnLane .w32 7 0 = 0x00000000FFFFFFFF ∧
  divLane .w64 (-7) 2 = -3 ∧ remLane .w64 (-7) 2 = -1 ∧ addLane .w32 0x7FFFFFFF 1 = 0xFFFFFFFF80000000 ∧
  addsLane .w32 0x7FFFFFFF 1 = 0x7FFFFFFF ∧ subsLane .w64 0x8000000000000000 1 = 0x8000000000000000 ∧
  mulhLane .w64 (-1) 1 = 0xFFFFFFFFFFFFFFFF ∧ mulhnLane .w64 0xFFFFFFFFFFFFFFFF 2 = 1

/-! ### Row 0x3 -/

/-- The immediate forms push and write a value of a and the immediate, which pending hints extend: a field of w bits alone
is signed, with imm it is the sign-extended pair of w + 24 bits, with imm and immh the three of w + 48 bits (R43, R104 to
R108). -/
def Obligations.ImmediatesComplete : Prop :=
  ∀ (g : Guard) (d : Dst) (a b : Src) (i14 : BitVec 14) (i8 : BitVec 8) (i6 c : BitVec 6) (so : ShiftOp) (s : Fin 4),
    PushesLanes (.li g d i14) { op := 0x30, sel := .guard g, dst := some d, imm := true, immh := true } d
      (fun t _ _ => BitVec.ofInt 64 (extField t.ctl.hint i14)) ∧
    PushesLanes (.addi g d a i8) (shapeImm 0x31 g d a) d
      (fun t => of1 (fun x => x + BitVec.ofInt 64 (extField t.ctl.hint i8)) t) ∧
    PushesLanes (.andi g d a i6) (shapeImm 0x32 g d a) d
      (fun t => of1 (fun x => x &&& BitVec.ofInt 64 (extField t.ctl.hint i6)) t) ∧
    PushesLanes (.ori g d a i6) (shapeImm 0x32 g d a) d
      (fun t => of1 (fun x => x ||| BitVec.ofInt 64 (extField t.ctl.hint i6)) t) ∧
    PushesLanes (.xori g d a i6) (shapeImm 0x32 g d a) d
      (fun t => of1 (fun x => x ^^^ BitVec.ofInt 64 (extField t.ctl.hint i6)) t) ∧
    PushesLanes (.shi g d a so c) (shapeDA 0x33 g d a) d (of1 (fun x =>
      match so with
      | .shl => x <<< c.toNat
      | .shr => x >>> c.toNat
      | .sar => x.sshiftRight c.toNat
      | .rol => x.rotateLeft c.toNat)) ∧
    PushesLanes (.lea g d a b s) (shapeDAB 0x34 g d a b) d (of2 (fun x y => x + (y <<< s.val))) ∧
    ∀ (w : Nat) (f : BitVec w) (h : Hint) (i j : BitVec 24),
      (h.imm = none → h.immh = none → extField h f = f.toInt) ∧
      (h.imm = some i → h.immh = none → extField h f = (f.toNat + i.toNat * 2 ^ w : Nat) ∨
        extField h f + 2 ^ (w + 24) = (f.toNat + i.toNat * 2 ^ w : Nat)) ∧
      (h.imm = some i → h.immh = none → -(2 ^ (w + 23)) ≤ extField h f ∧ extField h f < 2 ^ (w + 23)) ∧
      (h.imm = some i → h.immh = some j → extField h f = (f.toNat + (i.toNat + j.toNat * 2 ^ 24) * 2 ^ w : Nat) ∨
        extField h f + 2 ^ (w + 48) = (f.toNat + (i.toNat + j.toNat * 2 ^ 24) * 2 ^ w : Nat)) ∧
      (h.imm = some i → h.immh = some j → -(2 ^ (w + 47)) ≤ extField h f ∧ extField h f < 2 ^ (w + 47))

/-- Comparisons and predicate functions write their predicate in the active lanes and nothing else.
What comparisons, predicate functions and votes decide: signed and unsigned order at the width, the eight
functions, and one decision over every active lane of every pass.
`sel` takes a where its guard is true and b elsewhere, in every enabled lane; `ballot` pushes its pass's word;
`fclass` pushes a mask with exactly one of bits 0 to 8 set, that of the code's class; the ballot word holds its pass's
votes, their number and the pass; the comparisons of binary32 codes follow the order of their values, the zeros equal and a
NaN unordered (R110, R111, R114). -/
def Obligations.PredicateInstructions : Prop :=
  (
    (
      ∀ (g : Guard) (p : Fin 7) (a b : Src) (c : Cond) (fc : FCond) (w : IWidth) (x y : PSrc) (pf : PFn) (inv : Bool)
        (v : VoteFn),
        WritesPred (.cmp g p c a b w) (shapeCmp 0x35 g a b) p
          (fun _ vs l => cmpInt true w c (lane (vs.getD 0 []) l) (lane (vs.getD 1 []) l)) ∧
        WritesPred (.cmpn g p c a b w) (shapeCmp 0x36 g a b) p
          (fun _ vs l => cmpInt false w c (lane (vs.getD 0 []) l) (lane (vs.getD 1 []) l)) ∧
        WritesPred (.fcmp g p fc a b) (shapeCmp 0x3C g a b) p
          (fun _ vs l => cmpFloat fc (lane (vs.getD 0 []) l) (lane (vs.getD 1 []) l)) ∧
        WritesPred (.pset g p x y pf) (shapeP 0x38 g) p
          (fun t _ l => psetFn pf (Mask.has (t.psrc x) l) (Mask.has (t.psrc y) l)) ∧
        WritesPred (.pmov g p x inv) (shapeP 0x39 g) p (fun t _ l => Mask.has (t.psrc x) l != inv) ∧
        WritesPred (.vote g p x v) (shapeP 0x3A g) p (fun t _ _ => voteFn v ((shapeP 0x3A g).active t) (t.psrc x))
    ) ∧ (
      (∀ x y : Word,
        cmpInt true .w64 .eq x y = (x == y) ∧ cmpInt true .w64 .ne x y = (x != y) ∧ cmpInt true .w64 .lt x y = x.slt y ∧
        cmpInt true .w64 .le x y = x.sle y ∧ cmpInt true .w64 .gt x y = y.slt x ∧ cmpInt true .w64 .ge x y = y.sle x ∧
        cmpInt false .w64 .eq x y = (x == y) ∧ cmpInt false .w64 .ne x y = (x != y) ∧
        cmpInt false .w64 .lt x y = x.ult y ∧ cmpInt false .w64 .le x y = x.ule y ∧
        cmpInt false .w64 .gt x y = y.ult x ∧ cmpInt false .w64 .ge x y = y.ule x ∧
        ∀ (sg : Bool) (c : Cond), cmpInt sg .w32 c x y =
          (if sg then cmpInt sg .w64 c ((x.setWidth 32).signExtend 64) ((y.setWidth 32).signExtend 64)
           else cmpInt sg .w64 c ((x.setWidth 32).setWidth 64) ((y.setWidth 32).setWidth 64))) ∧
      (∀ act v : Mask,
        (voteFn .some act v = true ↔ ∃ l, Mask.has act l = true ∧ Mask.has v l = true) ∧
        (voteFn .every act v = true ↔ ∀ l, Mask.has act l = true → Mask.has v l = true) ∧
        (voteFn .same act v = true ↔ ∀ l m, Mask.has act l = true → Mask.has act m = true → Mask.has v l = Mask.has v m)) ∧
      (∀ a b : Bool, psetFn .and a b = (a && b) ∧ psetFn .or a b = (a || b) ∧ psetFn .xor a b = Bool.xor a b ∧
        psetFn .andn a b = (a && !b) ∧ psetFn .nand a b = !(a && b) ∧ psetFn .nor a b = !(a || b) ∧
        psetFn .xnor a b = !(Bool.xor a b) ∧ psetFn .orn a b = (a || !b))
    )
  ) ∧ (
    ∀ (g : Guard) (d : Dst) (a b : Src) (x : PSrc),
      PushesLanes (.sel g d a b) { shapeDAB 0x37 g d a b with sel := .enabled } d (fun t vs l =>
        if Mask.has (t.cond g) l then lane (vs.getD 0 []) l else lane (vs.getD 1 []) l) ∧
      PushesLanes (.ballot g x) { shapeP 0x3B g with dst := some .drift } .drift (fun t _ l =>
        ballotWord ({ shapeP 0x3B g with dst := some .drift }.active t) (t.psrc x) (l / 32)) ∧
      PushesLanes (.fclass g d a) (shapeDA 0x3D g d a) d (of1 fclassLane) ∧
      (∀ w : Word, ∃ i, i < 9 ∧ fclassLane w = BitVec.ofNat 64 (2 ^ i)) ∧
      (∀ (w : Word) (mag : Nat) (neg : Bool), mag = w.toNat % 2 ^ 31 → neg = w.getLsbD 31 → fclassLane w =
        if 0x7F800000 < mag then 0x100 else if mag = 0x7F800000 then (if neg then 0x1 else 0x80)
        else if mag = 0 then (if neg then 0x8 else 0x10) else if mag < 0x800000 then (if neg then 0x4 else 0x20)
        else if neg then 0x2 else 0x40) ∧
      (∀ (act v : Mask) (w : Nat), w < 32 →
        (∀ j, j < 32 → (ballotWord act v w).getLsbD j = (Mask.has act (32 * w + j) && Mask.has v (32 * w + j))) ∧
        (ballotWord act v w).extractLsb' 32 6 = BitVec.ofNat 6
          ((List.range 32).countP (fun j => Mask.has act (32 * w + j) && Mask.has v (32 * w + j))) ∧
        (ballotWord act v w).extractLsb' 38 2 = 0 ∧ (ballotWord act v w).extractLsb' 40 5 = BitVec.ofNat 5 w ∧
        (ballotWord act v w).extractLsb' 45 19 = 0) ∧
      ∀ (x y : Word) (un : Bool), un = (decide (0x7F800000 < x.toNat % 2 ^ 31) || decide (0x7F800000 < y.toNat % 2 ^ 31)) →
        cmpFloat .un x y = un ∧ cmpFloat .or x y = !un ∧
        cmpFloat .eq x y = (!un && decide (orderKey x = orderKey y)) ∧
        cmpFloat .ne x y = (un || decide (orderKey x ≠ orderKey y)) ∧
        cmpFloat .lt x y = (!un && decide (orderKey x < orderKey y)) ∧
        cmpFloat .le x y = (!un && decide (orderKey x ≤ orderKey y)) ∧
        cmpFloat .gt x y = (!un && decide (orderKey y < orderKey x)) ∧
        cmpFloat .ge x y = (!un && decide (orderKey y ≤ orderKey x))
  )

/-! ### Rows 0x4 to 0x6 -/

/-- Each instruction of row 0x4 pushes and writes its correctly rounded value per element, under the rounding
attribute of a pending mod where it takes one, and leaves everything else (R121 to R126).
Each instruction of row 0x5 of one result pushes and writes its value per lane; `twosum` and `twoprod` push the
rounded result, then its error, which becomes the new d0, inactive lanes pushing a twice (R121, R127, R128).
Values of rows 0x4 and 0x5 that R73, R74, R82 and R123 to R128 fix: a NaN operand gives the canonical NaN, save that
`fmin` and `fmax` give the other operand; they order the codes, −0 below +0; a finite number less itself is +0, or −0 toward
−∞; sums and products commute; and the special operands, overflow, ties and sample results of each instruction. -/
def Obligations.FloatAndComplex : Prop :=
  (
    (
      ∀ (g : Guard) (d : Dst) (a b : Src) (f : FFmt) (m : RMode),
        PushesLanes (.fadd g d a b f) (shapeRound2 0x40 g d a b) d (rnd2 (faddLane f)) ∧
        PushesLanes (.fsub g d a b f) (shapeRound2 0x41 g d a b) d (rnd2 (fsubLane f)) ∧
        PushesLanes (.fmul g d a b f) (shapeRound2 0x42 g d a b) d (rnd2 (fmulLane f)) ∧
        PushesLanes (.ffma g d a b f) { shapeRound2 0x43 g d a b with srcs := [a, b, oldOf d] } d (rnd3 (ffmaLane f)) ∧
        PushesLanes (.fmin g d a b f) (shapeDAB 0x44 g d a b) d (of2 (fminLane f)) ∧
        PushesLanes (.fmax g d a b f) (shapeDAB 0x45 g d a b) d (of2 (fmaxLane f)) ∧
        PushesLanes (.fabs g d a f) (shapeDA 0x46 g d a) d (of1 (fabsLane f)) ∧
        PushesLanes (.fneg g d a f) (shapeDA 0x47 g d a) d (of1 (fnegLane f)) ∧
        PushesLanes (.frcp g d a) (shapeRound1 0x48 g d a) d (rnd1 frcpLane) ∧
        PushesLanes (.fsqrt g d a) (shapeRound1 0x49 g d a) d (rnd1 fsqrtLane) ∧
        PushesLanes (.frsq g d a) (shapeRound1 0x4A g d a) d (rnd1 frsqLane) ∧
        PushesLanes (.fex2 g d a) (shapeRound1 0x4B g d a) d (rnd1 fex2Lane) ∧
        PushesLanes (.flg2 g d a) (shapeRound1 0x4C g d a) d (rnd1 flg2Lane) ∧
        PushesLanes (.fdiv g d a b) (shapeRound2 0x4D g d a b) d (rnd2 fdivLane) ∧
        PushesLanes (.fround g d a m) (shapeDA 0x4E g d a) d (of1 (froundLane m))
    ) ∧ (
      ∀ (g : Guard) (d : Dst) (a b : Src) (im : Bool),
        PushesLanes (.cadd g d a b) (shapeRound2 0x50 g d a b) d (rnd2 caddLane) ∧
        PushesLanes (.csub g d a b) (shapeRound2 0x51 g d a b) d (rnd2 csubLane) ∧
        PushesLanes (.cmul g d a b) (shapeRound2 0x52 g d a b) d (rnd2 cmulLane) ∧
        PushesLanes (.cfma g d a b) { shapeRound2 0x53 g d a b with srcs := [a, b, oldOf d] } d (rnd3 cfmaLane) ∧
        PushesLanes (.cconj g d a) (shapeDA 0x54 g d a) d (of1 cconjLane) ∧
        PushesLanes (.cabs2 g d a) (shapeRound1 0x55 g d a) d (rnd1 cabs2Lane) ∧
        PushesLanes (.cpack g d a b) (shapeDAB 0x58 g d a b) d
          (of2 (fun x y => (y.setWidth 32 ++ x.setWidth 32 : BitVec 64))) ∧
        PushesLanes (.cpart g d a im) (shapeDA 0x59 g d a) d
          (of1 (fun x => if im then x >>> 32 else (x.setWidth 32).setWidth 64)) ∧
        PushesTwo (.twosum g d a b) { shapeDAB 0x56 g d a b with pushes := 2 } d twosumLane ∧
        PushesTwo (.twoprod g d a b) { shapeDAB 0x57 g d a b with pushes := 2 } d twoprodLane
    )
  ) ∧ (
    (∀ (m : RMode) (x y z : Word), f32 z = .nan → ffmaLane .f32 m x y z = 0x7FC00000) ∧
    (∀ (m : RMode) (x y z : Word), f32 x = .nan ∨ f32 y = .nan →
      faddLane .f32 m x y = 0x7FC00000 ∧ fsubLane .f32 m x y = 0x7FC00000 ∧ fmulLane .f32 m x y = 0x7FC00000 ∧
      ffmaLane .f32 m x y z = 0x7FC00000 ∧ fdivLane m x y = 0x7FC00000) ∧
    (∀ (m : RMode) (x : Word), f32 x = .nan →
      frcpLane m x = 0x7FC00000 ∧ fsqrtLane m x = 0x7FC00000 ∧ frsqLane m x = 0x7FC00000 ∧ fex2Lane m x = 0x7FC00000 ∧
      flg2Lane m x = 0x7FC00000 ∧ froundLane m x = 0x7FC00000) ∧
    (∀ x y : Word,
      (f32 x = .nan → fminLane .f32 x y = (if f32 y = .nan then 0x7FC00000 else (y.setWidth 32).setWidth 64) ∧
        fmaxLane .f32 x y = (if f32 y = .nan then 0x7FC00000 else (y.setWidth 32).setWidth 64)) ∧
      (f32 y = .nan → f32 x ≠ .nan → fminLane .f32 x y = (x.setWidth 32).setWidth 64 ∧
        fmaxLane .f32 x y = (x.setWidth 32).setWidth 64) ∧
      (f32 x ≠ .nan → f32 y ≠ .nan → orderKey x < orderKey y →
        fminLane .f32 x y = (x.setWidth 32).setWidth 64 ∧ fminLane .f32 y x = (x.setWidth 32).setWidth 64 ∧
        fmaxLane .f32 x y = (y.setWidth 32).setWidth 64 ∧ fmaxLane .f32 y x = (y.setWidth 32).setWidth 64)) ∧
    (fminLane .f32 0 0x80000000 = 0x80000000 ∧ fminLane .f32 0x80000000 0 = 0x80000000 ∧
      fmaxLane .f32 0 0x80000000 = 0 ∧ fmaxLane .f32 0x80000000 0 = 0) ∧
    (∀ (m : RMode) (x : Word), Finite32 x → fsubLane .f32 m x x = if m = .rd then 0x80000000 else 0) ∧
    (∀ (f : FFmt) (m : RMode) (x y : Word), faddLane f m x y = faddLane f m y x ∧ fmulLane f m x y = fmulLane f m y x) ∧
    -- 1 + 2 and its packed forms; a tie at 1 + 2^−24; overflow; ∞ − ∞; ∞ × 0; 3 × 0.5; 3 × 0.5 + 1
    (faddLane .f32 .rn 0x3F800000 0x40000000 = 0x40400000 ∧
      faddLane .bf16x4 .rn 0x3F803F803F803F80 0x4000400040004000 = 0x4040404040404040 ∧
      faddLane .f16x4 .rn 0x3C003C003C003C00 0x4000400040004000 = 0x4200420042004200 ∧
      faddLane .f32 .rn 0x3F800000 0x33800000 = 0x3F800000 ∧ faddLane .f32 .ru 0x3F800000 0x33800000 = 0x3F800001 ∧
      faddLane .f32 .rn 0x7F7FFFFF 0x7F7FFFFF = 0x7F800000 ∧ faddLane .f32 .rz 0x7F7FFFFF 0x7F7FFFFF = 0x7F7FFFFF ∧
      fsubLane .f32 .rn 0x7F800000 0x7F800000 = 0x7FC00000 ∧ fmulLane .f32 .rn 0x7F800000 0 = 0x7FC00000 ∧
      fmulLane .f32 .rn 0x40400000 0x3F000000 = 0x3FC00000 ∧ ffmaLane .f32 .rn 0x40400000 0x3F000000 0x3F800000 = 0x40200000) ∧
    (∀ m : RMode,
      frcpLane m 0 = 0x7F800000 ∧ frcpLane m 0x80000000 = 0xFF800000 ∧ frcpLane m 0x7F800000 = 0 ∧
      frcpLane m 0xFF800000 = 0x80000000 ∧ frcpLane m 0x40000000 = 0x3F000000 ∧
      fsqrtLane m 0x80000000 = 0x80000000 ∧ fsqrtLane m 0xBF800000 = 0x7FC00000 ∧ fsqrtLane m 0x7F800000 = 0x7F800000 ∧
      fsqrtLane m 0x40800000 = 0x40000000 ∧
      frsqLane m 0 = 0x7F800000 ∧ frsqLane m 0x80000000 = 0xFF800000 ∧ frsqLane m 0xBF800000 = 0x7FC00000 ∧
      frsqLane m 0x7F800000 = 0 ∧ frsqLane m 0x40800000 = 0x3F000000 ∧
      fex2Lane m 0xFF800000 = 0 ∧ fex2Lane m 0x7F800000 = 0x7F800000 ∧ fex2Lane m 0x40400000 = 0x41000000 ∧
      fex2Lane m 0xC3150000 = 1 ∧
      flg2Lane m 0 = 0xFF800000 ∧ flg2Lane m 0x80000000 = 0xFF800000 ∧ flg2Lane m 0xBF800000 = 0x7FC00000 ∧
      flg2Lane m 0x7F800000 = 0x7F800000 ∧ flg2Lane m 0x41000000 = 0x40400000 ∧ flg2Lane m 0x3F800000 = 0 ∧
      fdivLane m 0xBF800000 0 = 0xFF800000 ∧ fdivLane m 0 0x80000000 = 0x7FC00000 ∧
      fdivLane m 0x7F800000 0xFF800000 = 0x7FC00000 ∧ fdivLane m 0xBF800000 0x7F800000 = 0x80000000) ∧
    (fsqrtLane .rn 0x40000000 = 0x3FB504F3 ∧ fex2Lane .rn 0x43000000 = 0x7F800000 ∧ fex2Lane .rz 0x43000000 = 0x7F7FFFFF ∧
      fdivLane .rn 0x3F800000 0x40400000 = 0x3EAAAAAB ∧ fdivLane .rz 0x3F800000 0x40400000 = 0x3EAAAAAA ∧
      froundLane .rn 0xBECCCCCD = 0x80000000 ∧ froundLane .rn 0x40200000 = 0x40000000 ∧ froundLane .ru 0x40200000 = 0x40400000 ∧
      froundLane .rz 0xC0200000 = 0xC0000000 ∧ froundLane .rd 0xC0200000 = 0xC0400000) ∧
    -- a = 1 + 2i, b = 3 + 4i, c = 1 + i; the sum of 1 and 2^−30; the square of 1 + 2^−23
    (caddLane .rn 0x400000003F800000 0x4080000040400000 = 0x40C0000040800000 ∧
      csubLane .rn 0x400000003F800000 0x4080000040400000 = 0xC0000000C0000000 ∧
      cmulLane .rn 0x400000003F800000 0x4080000040400000 = 0x41200000C0A00000 ∧
      cfmaLane .rn 0x400000003F800000 0x4080000040400000 0x3F8000003F800000 = 0x41300000C0800000 ∧
      cconjLane 0x400000003F800000 = 0xC00000003F800000 ∧ cabs2Lane .rn 0x4080000040400000 = 0x41C80000 ∧
      twosumLane 0x3F800000 0x30800000 = (0x3F800000, 0x30800000) ∧ twoprodLane 0x3F800001 0x3F800001 = (0x3F800002, 0x28800000) ∧
      twosumLane 0x7F800000 0x3F800000 = (0x7F800000, 0x7FC00000) ∧ twoprodLane 0x7F800000 0 = (0x7FC00000, 0x7FC00000))
  )

/-- Decoding a code of binary32, binary16 or bfloat16 that is no NaN and rounding it back gives the code, whatever the
attribute: `fneg` only inverts the sign bit and `fabs` only clears it, a NaN giving the canonical one.
Narrowing keeps every code that the narrow format has: widening a code that is no NaN and narrowing the result
again gives the code, for binary16, bfloat16 and the five element formats, in every mode (R129 to R131). That the -0 code comes
back from it, in the element formats too, is log 87, the model's. -/
def Obligations.NumberFormatsRoundTrip : Prop :=
  (
    (∀ (m : RMode) (c : Nat), c < 2 ^ 32 → FV.decode b32 c ≠ .nan → roundIeee b32 m (FV.decode b32 c) = c) ∧
    (∀ (m : RMode) (c : Nat), c < 2 ^ 16 → FV.decode b16 c ≠ .nan → roundIeee b16 m (FV.decode b16 c) = c) ∧
    (∀ (m : RMode) (c : Nat), c < 2 ^ 16 → FV.decode Machine.bf16 c ≠ .nan →
      roundIeee Machine.bf16 m (FV.decode Machine.bf16 c) = c) ∧
    (∀ x : Word, fnegLane .f32 x =
      if f32 x = .nan then 0x7FC00000 else ((x.setWidth 32) ^^^ (0x80000000 : BitVec 32)).setWidth 64) ∧
    (∀ x : Word, fabsLane .f32 x =
      if f32 x = .nan then 0x7FC00000 else ((x.setWidth 32) &&& (0x7FFFFFFF : BitVec 32)).setWidth 64)
  ) ∧ (
    ∀ (m : RMode) (n : NarrowFmt) (bits : Nat) (c : Nat),
      (n, bits) ∈ [(NarrowFmt.f16, 16), (.bf16, 16), (.e4m3, 8), (.e5m2, 8), (.e2m3, 6), (.e3m2, 6), (.e2m1, 4)] →
      c < 2 ^ bits → narrowDecode n c ≠ .nan →
      cvtnLane n m (cvtwLane n (BitVec.ofNat 64 c)) = BitVec.ofNat 64 c
  )

/-- `twosum` is exact: where its sum is finite, the sum and its error are together the two operands, and the error is no
−0 (R128). -/
def Obligations.TwosumIsExact : Prop :=
  ∀ x y : Word, Finite32 x → Finite32 y → Finite32 (twosumLane x y).1 →
    Finite32 (twosumLane x y).2 ∧ (twosumLane x y).2 ≠ 0x80000000 ∧
    FV.cmp (FV.add .rn (f32 (twosumLane x y).1) (f32 (twosumLane x y).2)) (FV.add .rn (f32 x) (f32 y)) = 0

/-- Each conversion of row 0x6 pushes and writes its value per lane; `cvtmx` makes one block of the active lanes of
each pass (R129 to R136). An integer converts by one rounding of its exact value, and comes back where its magnitude is at
most 2^24. A binary32 value rounds to an integer in the mode of the word, is clamped to the range of the type, infinities
included, and a NaN gives 0. `pack` rounds each element by RNE with saturation and `unpk` widens it exactly. A block with a NaN
has scale 0xFF and elements 0; else its scale is the greatest exponent of its finite elements other than zero less that of the
format, within ±127, or 0 where it has none, and each element is rounded under it (R84, R87). -/
def Obligations.ConversionsComplete : Prop :=
  (∀ (g : Guard) (d : Dst) (a b : Src) (ty : IType) (m : RMode) (n : NarrowFmt) (c : BitVec 6) (pk : PackFmt)
    (u : UnpkSel),
    PushesLanes (.cvtif g d a ty) (shapeRound1 0x60 g d a) d (rnd1 (cvtifLane ty)) ∧
    PushesLanes (.cvtfi g d a ty m) (shapeDA 0x61 g d a) d (of1 (cvtfiLane ty m)) ∧
    PushesLanes (.cvtn g d a n) (shapeRound1 0x62 g d a) d (rnd1 (cvtnLane n)) ∧
    PushesLanes (.cvtw g d a n) (shapeDA 0x63 g d a) d (of1 (cvtwLane n)) ∧
    PushesLanes (.cvtmx g d a c) { shapeDA 0x64 g d a with wf := wfCvtmx c } d (fun t vs l =>
      cvtmxLane c (((List.range 32).filter (fun j => Mask.has ((shapeDA 0x64 g d a).active t) (l / 32 * 32 + j))).map
        (fun j => f32 (lane (vs.getD 0 []) (l / 32 * 32 + j)))) (f32 (lane (vs.getD 0 []) l))) ∧
    PushesLanes (.pack g d a b pk) (shapeDAB 0x65 g d a b) d (of2 (packLane pk)) ∧
    PushesLanes (.unpk g d a u) (shapeDA 0x66 g d a) d (of1 (unpkLane u))) ∧
  (∀ (m : RMode) (x : Word),
    cvtifLane .i64 m x = BitVec.ofNat 64 (roundIeee b32 m (ofInt x.toInt 0)) ∧
    cvtifLane .n64 m x = BitVec.ofNat 64 (roundIeee b32 m (ofInt x.toNat 0)) ∧
    cvtifLane .i32 m x = BitVec.ofNat 64 (roundIeee b32 m (ofInt (x.setWidth 32).toInt 0)) ∧
    cvtifLane .n32 m x = BitVec.ofNat 64 (roundIeee b32 m (ofInt (x.setWidth 32).toNat 0))) ∧
  (∀ (m n : RMode) (ty : IType) (v : Int), -(2 ^ 24) ≤ v → v ≤ 2 ^ 24 → (ty = .n64 ∨ ty = .n32 → 0 ≤ v) →
    cvtfiLane ty n (cvtifLane ty m (BitVec.ofInt 64 v)) = BitVec.ofInt 64 v) ∧
  (cvtifLane .i64 .rn 16777217 = 0x4B800000 ∧ cvtifLane .i64 .rn 0x8000000000000000 = 0xDF000000 ∧
    cvtifLane .n64 .rn 0xFFFFFFFFFFFFFFFF = 0x5F800000 ∧ cvtifLane .n64 .rz 0xFFFFFFFFFFFFFFFF = 0x5F7FFFFF ∧
    cvtifLane .i32 .rn 0xFFFFFFFF = 0xBF800000) ∧
  (∀ (ty : IType) (m : RMode) (x : Word) (lo hi : Int),
    (ty, lo, hi) ∈ [(IType.i64, (-(2 ^ 63) : Int), (2 ^ 63 - 1 : Int)), (.n64, 0, 2 ^ 64 - 1), (.i32, -(2 ^ 31), 2 ^ 31 - 1),
      (.n32, 0, 2 ^ 32 - 1)] →
    (f32 x = .nan → cvtfiLane ty m x = 0) ∧
    (∀ neg, f32 x = .inf neg → cvtfiLane ty m x = BitVec.ofInt 64 (if neg then lo else hi)) ∧
    (∀ neg n e, f32 x = .fin neg n e → cvtfiLane ty m x = BitVec.ofInt 64 (max lo (min hi (roundInt m neg n e))))) ∧
  (∀ (m : RMode) (neg : Bool) (n k : Nat) (v r : Int), v = (if neg then -(n : Int) else n) → r = roundInt m neg n (-(k : Int)) →
    (m = .rz → r = v.tdiv (2 ^ k)) ∧ (m = .rd → r = v.fdiv (2 ^ k)) ∧ (m = .ru → r = -((-v).fdiv (2 ^ k))) ∧
    (m = .rn → 2 * (r * 2 ^ k - v).natAbs ≤ 2 ^ k ∧ (2 * (r * 2 ^ k - v).natAbs = 2 ^ k → r % 2 = 0)) ∧
    roundInt m neg n (k : Int) = v * 2 ^ k) ∧
  (cvtfiLane .i32 .rz 0xC039999A = 0xFFFFFFFFFFFFFFFE ∧ cvtfiLane .n32 .rn 0x4F9502F9 = 0xFFFFFFFF) ∧
  (cvtnLane .bf16 .rn 0x3F808000 = 0x3F80 ∧ cvtnLane .bf16 .rn 0x3F818000 = 0x3F82 ∧ cvtnLane .e4m3 .rn 0x49742400 = 0x7E ∧
    cvtnLane .e4m3 .rn 0x7F800000 = 0x7E ∧ cvtnLane .e5m2 .rn 0x7F800000 = 0x7C) ∧
  (∀ (pk : PackFmt) (fm : Fmt) (nan : BitVec 16) (x y : Word) (i : Nat) (v : FV),
    (pk, fm, nan) ∈ [(PackFmt.bf16, Machine.bf16, (0x7FC0 : BitVec 16)), (.f16, b16, 0x7E00)] →
    [f32 x, f32hi x, f32 y, f32hi y][i]? = some v →
    (packLane pk x y).extractLsb' (16 * i) 16 = BitVec.ofNat 16 (roundSat fm .rn v).1 ∧
    (v = .nan → (packLane pk x y).extractLsb' (16 * i) 16 = nan)) ∧
  (packLane .f16 0x47C35000 0 = 0x7BFF ∧ packLane .bf16 0x3F8180003F808000 0xC0000000 = 0xC0003F823F80) ∧
  (∀ (pk : PackFmt) (lo hi : UnpkSel) (fm : Fmt) (x : Word),
    (pk, lo, hi, fm) ∈ [(PackFmt.bf16, UnpkSel.bf16lo, UnpkSel.bf16hi, Machine.bf16), (.f16, .f16lo, .f16hi, b16)] →
    ((∀ i, i < 4 → FV.decode fm (x.extractLsb' (16 * i) 16).toNat ≠ .nan) → packLane pk (unpkLane lo x) (unpkLane hi x) = x) ∧
    (∀ i, i < 2 → FV.decode fm (x.extractLsb' (16 * i) 16).toNat = .nan →
      (unpkLane lo x).extractLsb' (32 * i) 32 = 0x7FC00000) ∧
    (∀ i, i < 2 → FV.decode fm (x.extractLsb' (32 + 16 * i) 16).toNat = .nan →
      (unpkLane hi x).extractLsb' (32 * i) 32 = 0x7FC00000)) ∧
  (∀ (x : Word) (i : Nat), i < 2 → FV.decode Machine.bf16 (x.extractLsb' (16 * i) 16).toNat ≠ .nan →
    (unpkLane .bf16lo x).extractLsb' (32 * i) 32 = x.extractLsb' (16 * i) 16 ++ (0 : BitVec 16)) ∧
  (∀ (b : BitVec 6) (f : NarrowFmt) (emax top : Int) (block : List FV) (x : FV),
    (b, f, emax) ∈ [((7 : BitVec 6), NarrowFmt.e4m3, (8 : Int)), (8, .e5m2, 15), (9, .e2m3, 2), (10, .e3m2, 4), (11, .e2m1, 2)] →
    (FV.nan ∈ block → cvtmxLane b block x = 0xFF00) ∧
    (FV.nan ∉ block → (∀ s n e, FV.fin s n e ∈ block → n = 0) →
      cvtmxLane b block x = BitVec.ofNat 64 (127 * 256 + (narrowEncode .rn f x).1)) ∧
    (FV.nan ∉ block → (∃ s n e, FV.fin s n e ∈ block ∧ n ≠ 0 ∧ expOf n e = top) →
      (∀ s n e, FV.fin s n e ∈ block → n ≠ 0 → expOf n e ≤ top) →
      ∀ k, k = max (-127) (min 127 (top - emax)) →
        cvtmxLane b block x = BitVec.ofNat 64 ((k + 127).toNat * 256 + (narrowEncode .rn f (x.scale (-k))).1))) ∧
  cvtmxLane 7 [f32 0x3F800000] (f32 0x3F800000) = 0x7778

/-! ### Row 0x7 -/

/-- The long instructions with no yield request complete at once as R117 and R119 give; with one, a team of more than
one pass that has written none pops its operands, writes its first pass alone, stays at the word, and holds the values of
every lane and its index. One under way writes what it staged: its next pass alone while a request stands and another is
left, else all that are left, and moves on.
`shfl`, `bcast`, `tred` and `ftred` push and write per lane what R116, R118, R119 and R120 give.
What a lane takes from another: `shfl` names a place of its own pass and `shflt` a lane of the team; a source that
is not active, or outside the range, gives the lane its own a, and a wrapping one comes round; `bcast` names the lowest active
lane, the highest, or one by number and the lowest where that is not active; `tred` of a lone active lane gives that lane's
value; an inclusive scan is the exclusive one with the lane's own value added, and the last of it is the reduction; `ftred`
adds by the tree of R120, in which an absent value passes the other. -/
def Obligations.LaneInstructions : Prop :=
  (
    ∀ (g : Guard) (d : Dst) (a b : Src) (f : ShflOp) (excl : Bool) (ro : RedOp) (s : State) (t : Team),
      (Issues s (shapeDAB 0x71 g d a b) t → t.long = none →
        (t.yieldReq = false → ∃ t', exec (.shflt g d a b f) s = .next (s.putTeam t') ∧
          Pushed t t' (shapeDAB 0x71 g d a b) d (fun l => shfltValue f (ctxOf (shapeDAB 0x71 g d a b) t) l)) ∧
        (t.yieldReq = true → t.pend = [] → 32 < t.nlane → ∃ t', exec (.shflt g d a b f) s = .next (s.putTeam t') ∧
          FirstPass t t' (shapeDAB 0x71 g d a b) d (fun l => shfltValue f (ctxOf (shapeDAB 0x71 g d a b) t) l))) ∧
      (Issues s (shapeDA 0x74 g d a) t → t.long = none →
        (t.yieldReq = false → ∃ t', exec (.tscan g d a excl ro) s = .next (s.putTeam t') ∧
          Pushed t t' (shapeDA 0x74 g d a) d (fun l =>
            redOver ro (ctxOf (shapeDA 0x74 g d a) t) (fun j => if excl then decide (j < l) else decide (j ≤ l)))) ∧
        (t.yieldReq = true → t.pend = [] → 32 < t.nlane → ∃ t', exec (.tscan g d a excl ro) s = .next (s.putTeam t') ∧
          FirstPass t t' (shapeDA 0x74 g d a) d (fun l =>
            redOver ro (ctxOf (shapeDA 0x74 g d a) t) (fun j => if excl then decide (j < l) else decide (j ≤ l))))) ∧
      ∀ (i : Instr) (sh : Shape) (o : LongOp) (run : Word),
        (i, sh, run) ∈ [(Instr.shflt g d a b f, shapeDAB 0x71 g d a b, o.run),
          (.tscan g d a excl ro, shapeDA 0x74 g d a,
            redStep ro o.run (redOver ro { ctxOf (shapeDA 0x74 g d a) t with vals := [o.src] } (fun j => decide (j / 32 = o.passes))))] →
        Issues s sh t → t.long = some o → o.op = sh.op → t.pend = [] → o.passes < t.passes →
        (t.yieldReq = true → o.passes + 1 < t.passes → ∃ t', exec i s = .next (s.putTeam t') ∧
          t' = { t with regs := t'.regs, long := some { o with run, passes := o.passes + 1 } } ∧
          LaterPasses t t' sh d o (o.passes + 1)) ∧
        (t.yieldReq = false ∨ t.passes = o.passes + 1 → ∃ t', exec i s = .next (s.putTeam t') ∧
          t' = ({ t with regs := t'.regs, long := none } : Team).over { t.ctl with pc := t.ctl.pc + 4, hint := {} } ∧
          LaterPasses t t' sh d o t.passes)
  ) ∧ (
    (
      ∀ (g : Guard) (d : Dst) (a b : Src) (f : ShflOp) (bo : BcastOp) (ro : RedOp) (ft : FtredTy),
        PushesLanes (.shfl g d a b f) (shapeDAB 0x70 g d a b) d
          (fun t _ l => shflValue f (ctxOf (shapeDAB 0x70 g d a b) t) l) ∧
        (∀ sh, sh = { shapeDAB 0x72 g d a b with srcs := if bo == .lane then [a, b] else [a], wf := wfBcast bo b } →
          PushesLanes (.bcast g d a b bo) sh d (fun t vs _ => lane (vs.getD 0 []) (bcastLane bo (ctxOf sh t)))) ∧
        PushesLanes (.tred g d a ro) (shapeDA 0x73 g d a) d
          (fun t _ _ => redOver ro (ctxOf (shapeDA 0x73 g d a) t) (fun _ => true)) ∧
        PushesLanes (.ftred g d a ft) (shapeDA 0x75 g d a) d (fun t _ _ => ftredValue ft (ctxOf (shapeDA 0x75 g d a) t))
    ) ∧ (
      (∀ (c : Ctx) (l i : Nat), i < c.t.nlane → Mask.has c.act i = true →
        (l / 32 = i / 32 → (lane (c.val 1) l).toNat % 32 = i % 32 → shflValue .from c l = lane (c.val 0) i) ∧
        ((lane (c.val 1) l).toNat % 1024 = i → shfltValue .from c l = lane (c.val 0) i)) ∧
      (∀ (c : Ctx) (l i : Nat), Mask.has c.act i = false →
        (l / 32 = i / 32 → (lane (c.val 1) l).toNat % 32 = i % 32 → shflValue .from c l = lane (c.val 0) l) ∧
        ((lane (c.val 1) l).toNat % 1024 = i → shfltValue .from c l = lane (c.val 0) l)) ∧
      (∀ (c : Ctx) (l j d n : Nat) (b own : Word) (take : Nat → Word), b = lane (c.val 1) l → own = lane (c.val 0) l →
        take = (fun i => if i < c.t.nlane ∧ Mask.has c.act i = true then lane (c.val 0) i else own) →
        (j = l % 32 → d = b.toNat % 32 →
          shflValue .pair c l = take (l - j + (j ^^^ d)) ∧
          shflValue .rise c l =
            (if d ≤ j then take (l - d) else if b.getLsbD 5 then take (l + 32 - d) else own) ∧
          shflValue .fall c l =
            (if j + d < 32 then take (l + d) else if b.getLsbD 5 then take (l + d - 32) else own)) ∧
        (n = c.t.nlane → d = b.toNat % 1024 → l < n →
          shfltValue .pair c l = take (l ^^^ d) ∧
          shfltValue .rise c l =
            (if d ≤ l then take (l - d) else if b.getLsbD 10 then take (((l : Int) - d) % n).toNat else own) ∧
          shfltValue .fall c l = (if l + d < n then take (l + d) else if b.getLsbD 10 then take ((l + d) % n) else own))) ∧
      (∀ (c : Ctx) (i : Nat), c.lanes ≠ [] →
        (bcastLane .lo c ∈ c.lanes ∧ ∀ l ∈ c.lanes, bcastLane .lo c ≤ l) ∧
        (bcastLane .hi c ∈ c.lanes ∧ ∀ l ∈ c.lanes, l ≤ bcastLane .hi c) ∧
        (i = (lane (c.val 1) (bcastLane .lo c)).toNat % 1024 →
          bcastLane .lane c = if i ∈ c.lanes then i else bcastLane .lo c)) ∧
      (∀ (f : FtredTy) (c : Ctx) (v : Nat → Nat → Option Word) (one : Word → Word → Word),
        one = (fun x y => match f with
          | .f32 => BitVec.ofNat 64 (addRne (x.toNat % 2 ^ 32) (y.toNat % 2 ^ 32))
          | .c32 => BitVec.ofNat 64 (addRne (x.toNat % 2 ^ 32) (y.toNat % 2 ^ 32) +
              addRne (x.toNat / 2 ^ 32) (y.toNat / 2 ^ 32) * 2 ^ 32)) →
        (∀ l, l < 1024 → v 0 l = if Mask.has c.act l then some (lane (c.val 0) l) else none) →
        (∀ h i, v (h + 1) i = match v h (2 * i), v h (2 * i + 1) with
          | none, y => y
          | some x, none => some x
          | some x, some y => some (one x y)) →
        ftredValue f c = match f with
          | .f32 => (((v 10 0).getD 0).setWidth 32).setWidth 64
          | .c32 => (v 10 0).getD 0) ∧
      (∀ (c : Ctx) (l : Nat), c.lanes = [l] →
        redOver .add c (fun _ => true) = lane (c.val 0) l ∧ redOver .min c (fun _ => true) = lane (c.val 0) l ∧
        redOver .max c (fun _ => true) = lane (c.val 0) l ∧ redOver .or c (fun _ => true) = lane (c.val 0) l) ∧
      (∀ (f : RedOp) (c : Ctx) (l : Nat), l < c.t.nlane → Mask.has c.act l = true →
        redOver f c (fun j => decide (j ≤ l)) = redStep f (redOver f c (fun j => decide (j < l))) (lane (c.val 0) l)) ∧
      (∀ (f : RedOp) (c : Ctx), redOver f c (fun j => decide (j ≤ c.t.nlane)) = redOver f c (fun _ => true))
    )
  )

/-! ### Row 0x0: control -/

/-- `nop` under any guard, with a lane active, only moves on; `ill` and every word of opcode 0x00 or 0xFF trap with an
enabled lane, marking the enabled lanes, and change nothing but the pc without one (R39, R64). That every enabled lane is
marked, whatever the word's guard bits, is log 72, the model's.
A hint word fills its slot, leaves the others, and moves on; misuse with an enabled lane is the hint-word trap,
and with none it writes its slot all the same (R42, R65; the last is the model's reading, log 78). -/
def Obligations.NopIllAndHintWords : Prop :=
  (
    (∀ (g : Guard) (s : State) (t : Team), Issues s { op := 0x01, sel := .guard g } t →
      movesOn s t (exec (.nop g) s)) ∧
    (∀ (w : Code) (s : State) (t : Team), wfIll w = true → s.curTeam? = some t → t.enabled ≠ 0 →
      exec (.ill w) s = .next (s.trapAt t (w.toNat / 2 ^ 24) 0 0x01 t.enabled)) ∧
    (∀ w : Code, wfIll w = true → decode w = .ok (.ill w))
  ) ∧ (
    ∀ (s : State) (t : Team) (v : BitVec 24) (p : BitVec 12) (h : Hint), s.curTeam? = some t → h = t.ctl.hint →
      (h.imm = none ∨ t.enabled = 0 → exec (.imm v) s = .next (s.putTeam { t with
        wake := none,
        ctl := { t.ctl with hint := { h with imm := some v }, pc := t.ctl.pc + 4 } })) ∧
      ((h.immh = none ∧ h.imm ≠ none) ∨ t.enabled = 0 → exec (.immh v) s = .next (s.putTeam { t with
        wake := none,
        ctl := { t.ctl with hint := { h with immh := some v }, pc := t.ctl.pc + 4 } })) ∧
      (h.mod = none ∨ t.enabled = 0 → exec (.mod p) s = .next (s.putTeam { t with
        wake := none,
        ctl := { t.ctl with hint := { h with mod := some (p ++ (0 : BitVec 12)) }, pc := t.ctl.pc + 4 } })) ∧
      (t.enabled ≠ 0 →
        (h.imm ≠ none → Traps (.imm v) s t 0xF0 0 0x04 t.enabled) ∧
        (h.immh ≠ none ∨ h.imm = none → Traps (.immh v) s t 0xF1 0 0x04 t.enabled) ∧
        (h.mod ≠ none → Traps (.mod p) s t 0xF2 0 0x04 t.enabled))
  )

/-- Branches with an enabled lane: `br` goes to its target when the condition holds in every enabled lane, on when in
none, and traps "non-uniform branch" marking the lanes where it holds otherwise; `brany` and `brall` as R62 gives. The
target is pc + disp20 × 4, disp20 extended by a pending imm; that it is so too where an immh is pending, which no branch with an
enabled lane takes, is log 104, the model's. Nothing else of the team changes.
`call`, `jmpi`, `calli` and `ret` are taken when every enabled lane is active: the pc goes to the target, the two
calls leave pc + 4 in s7, `calli` reading its register first. An active set that is not the enabled set is "non-uniform
branch"; a target off a multiple of 4 is "alignment", naming it for every active lane (R30, R63). -/
def Obligations.BranchesCallsAndReturns : Prop :=
  (
    (∀ (g : Guard) (disp : BitVec 20) (s : State) (t : Team), Issues s (shapeBranch 0x02) t →
      (t.enabled &&& t.cond g = t.enabled → exec (.br g disp) s = .next (s.putTeam (t.finish (branchTarget t disp)))) ∧
      (t.enabled &&& t.cond g = 0 → exec (.br g disp) s = .next (s.putTeam (t.finish (t.ctl.pc + 4)))) ∧
      (t.enabled &&& t.cond g ≠ t.enabled → t.enabled &&& t.cond g ≠ 0 →
        Traps (.br g disp) s t 0x02 2 0x01 (t.enabled &&& t.cond g))) ∧
    (∀ (g : Guard) (disp : BitVec 20) (s : State) (t : Team), Issues s (shapeBranch 0x03) t →
      exec (.brany g disp) s = .next (s.putTeam (t.finish
        (if t.enabled &&& t.cond g = 0 then t.ctl.pc + 4 else branchTarget t disp)))) ∧
    (∀ (g : Guard) (disp : BitVec 20) (s : State) (t : Team), Issues s (shapeBranch 0x04) t →
      exec (.brall g disp) s = .next (s.putTeam (t.finish
        (if t.enabled &&& t.cond g = t.enabled then branchTarget t disp else t.ctl.pc + 4)))) ∧
    (∀ (t : Team) (disp : BitVec 20),
      (t.ctl.hint.imm = none → branchTarget t disp = t.ctl.pc + disp.signExtend 64 * 4) ∧
      (∀ i, t.ctl.hint.imm = some i → branchTarget t disp = t.ctl.pc + (i ++ disp : BitVec 44).signExtend 64 * 4)) ∧
    (∀ (i : Instr) (g : Guard) (disp : BitVec 20) (s : State) (t : Team),
      i ∈ [Instr.br g disp, .brany g disp, .brall g disp] →
      s.curTeam? = some t → t.enabled = 0 → t.pend = [] → movesOn s t (exec i s))
  ) ∧ (
    ∀ (g : Guard) (disp : BitVec 20) (n : Fin 8) (s : State) (t : Team) (i : Instr) (sh : Shape) (pc : Word) (link : Bool),
      (i, sh, pc, link) ∈ [
        (Instr.call g disp, ({ op := 0x05, sel := .guard g, imm := true, srcs := [.s 7] } : Shape), branchTarget t disp, true),
        (.jmpi g n, { op := 0x06, sel := .guard g, srcs := [.s n] }, t.s n.val, false),
        (.calli g n, { op := 0x06, sel := .guard g, srcs := [.s n, .s 7] }, t.s n.val, true),
        (.ret g, { op := 0x07, sel := .guard g, srcs := [.s 7] }, t.s 7, false)] →
      Issues s sh t →
        (sh.active t = t.enabled → pc.extractLsb' 0 2 = 0 →
          exec i s = .next (s.putTeam ((if link then t.setS 7 (t.ctl.pc + 4) else t).finish pc))) ∧
        (sh.active t ≠ t.enabled → Traps i s t sh.op 2 0x01 (sh.active t)) ∧
        (sh.active t = t.enabled → pc.extractLsb' 0 2 ≠ 0 →
          exec i s = .next (s.trapList (ctxOf sh t) 4 0x01 ((ctxOf sh t).lanes.map (fun l => (l, pc)))))
  )

/-- `if`, `else`, `endif`, `loop`, `brk`, `cont` and `endloop` change C, B and the mask stack as R59 gives, with or
without an enabled lane (R60), and nothing else.
A full mask stack at `if` and `loop` is "mask stack overflow"; a closing word that does not match the top level,
and a `brk` or `cont` in no loop, is "structure mismatch"; either marks the enabled lanes (R59). A pending imm extends the
displacement of `if`, `else`, `loop` and `endloop` (R43, R65); what their target is where an immh is pending and no lane is
enabled is log 104, the model's. -/
def Obligations.StructuredControl : Prop :=
  (
    ∀ (g : Guard) (disp : BitVec 20) (s : State) (t : Team) (c : Ctl) (l : Level) (r : List Level), c = t.ctl →
      s.curTeam? = some t → (t.enabled = 0 ∨ hintOk true false .none c.hint = true) →
      (c.stack.length < 16 →
        exec (.ifThen g disp) s = .next (s.putTeam (t.over { c with
          stack := { image := c.cur, isLoop := false, inElse := false, target := branchTarget t disp, body := 0 } :: c.stack,
          cur := c.cur &&& t.cond g, pc := c.pc + 4, hint := {} })) ∧
        exec (.loop disp) s = .next (s.putTeam (t.over { c with
          stack := { image := c.cur, isLoop := true, inElse := false, target := branchTarget t disp, body := c.pc + 4 } :: c.stack,
          pc := c.pc + 4, hint := {} }))) ∧
      (c.stack = l :: r → l.isLoop = false → l.target = c.pc →
        (l.inElse = false → exec (.elseArm disp) s = .next (s.putTeam (t.over { c with
          cur := l.image &&& c.live &&& ~~~c.cur, stack := { l with inElse := true, target := branchTarget t disp } :: r,
          pc := c.pc + 4, hint := {} }))) ∧
        (t.enabled = 0 ∨ hintOk false false .none c.hint = true → exec .endIf s = .next (s.putTeam (t.over { c with
          cur := l.image &&& c.live, stack := r, pc := c.pc + 4, hint := {} })))) ∧
      (∀ above x, t.enabled = 0 ∨ hintOk false false .none c.hint = true → c.stack = above ++ l :: r → l.isLoop = true → (∀ y ∈ above, y.isLoop = false) → x = c.cur &&& t.cond g →
        exec (.brk g) s = .next (s.putTeam (t.over { c with
          cur := c.cur &&& ~~~x, brk := c.brk ||| x,
          stack := above.map (fun y => { y with image := y.image &&& ~~~x }) ++ l :: r, pc := c.pc + 4, hint := {} })) ∧
        exec (.cont g) s = .next (s.putTeam (t.over { c with
          cur := c.cur &&& ~~~x,
          stack := above.map (fun y => { y with image := y.image &&& ~~~x }) ++ l :: r, pc := c.pc + 4, hint := {} }))) ∧
      (c.stack = l :: r → l.isLoop = true → l.target = c.pc → branchTarget t disp = l.body →
        (l.image &&& c.live &&& ~~~c.brk ≠ 0 → exec (.endLoop disp) s = .next (s.putTeam (t.over { c with
            cur := l.image &&& c.live &&& ~~~c.brk, pc := l.body, hint := {} }))) ∧
        (l.image &&& c.live &&& ~~~c.brk = 0 → exec (.endLoop disp) s = .next (s.putTeam (t.over { c with
            cur := l.image &&& c.live, brk := c.brk &&& ~~~l.image, stack := r, pc := c.pc + 4, hint := {} }))))
  ) ∧ (
    ∀ (g : Guard) (disp : BitVec 20) (s : State) (t : Team),
      s.curTeam? = some t → (t.enabled = 0 ∨ hintOk true false .none t.ctl.hint = true) →
      (16 ≤ t.ctl.stack.length → Traps (.ifThen g disp) s t 0x08 1 0x05 t.enabled ∧
        Traps (.loop disp) s t 0x0B 1 0x05 t.enabled) ∧
      ((∀ l r, t.ctl.stack = l :: r → l.isLoop = true ∨ l.inElse = true ∨ l.target ≠ t.ctl.pc) →
        Traps (.elseArm disp) s t 0x09 2 0x02 t.enabled) ∧
      (t.enabled = 0 ∨ hintOk false false .none t.ctl.hint = true →
        (∀ l r, t.ctl.stack = l :: r → l.isLoop = true ∨ l.target ≠ t.ctl.pc) →
        Traps .endIf s t 0x0A 2 0x02 t.enabled) ∧
      (t.enabled = 0 ∨ hintOk false false .none t.ctl.hint = true → (∀ l ∈ t.ctl.stack, l.isLoop = false) →
        Traps (.brk g) s t 0x0C 2 0x02 t.enabled ∧ Traps (.cont g) s t 0x0D 2 0x02 t.enabled) ∧
      ((∀ l r, t.ctl.stack = l :: r → l.isLoop = false ∨ l.target ≠ t.ctl.pc ∨ branchTarget t disp ≠ l.body) →
        Traps (.endLoop disp) s t 0x0E 2 0x02 t.enabled)
  )

/-- `exit` clears its active lanes from V, C, B and every level image. The last lanes, with no matrix instruction,
command, remote operation, reduction or deferred trap left, release the matrix unit and the team retires, loads dropped
and commands held in an open set discarded (R61). That `exit` waits for commands and remote operations is the model's
reading, log 75. -/
def Obligations.Exit : Prop :=
  ∀ (g : Guard) (s : State) (t : Team) (sh : Shape), sh = { op := 0x0F, sel := .guard g } → Issues s sh t →
    t.tx.live = false →
    (t.ctl.live &&& ~~~sh.active t ≠ 0 → (∀ d ∈ t.deferred, d.w.isMatrix = false) →
      ∃ t', exec (.exit g) s = .next (s.putTeam t') ∧ t' = t.over t'.ctl ∧ t'.ctl.pc = t.ctl.pc + 4 ∧
      t'.ctl.live = t.ctl.live &&& ~~~sh.active t ∧ t'.ctl.cur = t.ctl.cur &&& ~~~sh.active t ∧
      t'.ctl.brk = t.ctl.brk &&& ~~~sh.active t ∧
      t'.ctl.stack = t.ctl.stack.map (fun l => { l with image := l.image &&& ~~~sh.active t })) ∧
    (t.ctl.live &&& ~~~sh.active t = 0 → s.matrixAll t = [] → t.mwr = [] → t.deferred = [] → t.handles = [] →
      (∀ k ∈ s.cmds, k.team = some t.id → k.state = CmdState.heldInSet) → (∀ o ∈ s.ops, o.team ≠ t.id) →
      ∃ t', exec (.exit g) s = .next ({ s.releaseMatrix t with
        cmds := s.cmds.filter (fun k => !(k.team == some t.id && k.state == CmdState.heldInSet)) }.putTeam t') ∧
      t'.status = .retiring ∧ t'.ctl.live = 0 ∧ t'.id = t.id ∧ t'.regs = t.regs ∧
      (∀ p ∈ t'.pend, p ∈ t.pend ∧ ∃ o w, p.op = .atom o w) ∧
      ((s.releaseMatrix t).core t.coreKey).mx.holder ≠ some t.id)

/-- `sget` pushes and writes the special register's value in each active lane and changes nothing else; the values are
those of R67, for the registers that are fields of the team and for MSUM, DEPTH, QOCC and the queues' depths.
`sset` with the value of its lowest active lane: TENANT, TVB, FMT, MSEL and MWORD take it as R67 and R68 give,
sources pop, and nothing else of the machine changes; a value the register does not take traps and changes nothing; level 1 is
the oldest of the mask stack. That MWORD's upper bits are ignored is log 89, the model's.
`qcfg` with a legal depth empties its queue, gives it the depth, and pushes the value read count times in every
lane; depths beyond the header's total are "queue capacity" and change nothing (R69). -/
def Obligations.SpecialRegisters : Prop :=
  (
    (
      (∀ (g : Guard) (d : Dst) (n : BitVec 6) (sh : Shape) (s : State) (t : Team),
        sh = { op := 0xF3, sel := .guard g, dst := some d, wf := wfSget n } → Issues s sh t →
        ∃ t', exec (.sget g d n) s = .next (s.putTeam t') ∧ Pushed t t' sh d (fun l => s.special t n.toNat l)) ∧
      (∀ (s : State) (t : Team) (l : Nat),
        s.special t 0 l = BitVec.ofNat 64 l ∧ s.special t 1 l = BitVec.ofNat 64 t.hdr.lanes ∧
        s.special t 18 l = t.ctl.acting.setWidth 64 ∧ s.special t 19 l = BitVec.ofNat 64 t.ctl.priv ∧
        s.special t 20 l = t.ctl.tvb ∧ s.special t 22 l = t.ctl.fmt.setWidth 64 ∧ s.special t 24 l = t.ctl.msel ∧
        s.special t 17 l = BitVec.ofNat 64 t.ctl.stack.length ∧
        (∀ w, w < 32 → ((s.special t 16 l).getLsbD w = true ↔
          ∃ i, i < 32 ∧ Mask.has t.ctl.cur (32 * w + i) = true)) ∧
        (∀ w, 32 ≤ w → (s.special t 16 l).getLsbD w = false) ∧
        (∀ q, q < 8 → (t.queue q).items.length < 256 → (t.queue q).depth < 256 →
          (∀ i, i < 8 → (t.queue i).items.length < 256 ∧ (t.queue i).depth < 256) →
          ((s.special t 26 l) >>> (8 * q)).setWidth 8 = BitVec.ofNat 8 (t.queue q).items.length ∧
          ((s.special t 27 l) >>> (8 * q)).setWidth 8 = BitVec.ofNat 8 (t.queue q).depth))
    ) ∧ (
      (∀ (g : Guard) (a : Src) (n : BitVec 6) (sh : Shape) (s : State) (t : Team),
        sh = { op := 0xF4, sel := .guard g, srcs := [a], wf := wfSset n, priv := ssetPriv n.toNat } → Issues s sh t →
        ∀ v, v = lane ((valsOf sh t).getD 0 []) (Mask.first (sh.active t) t.nlane) →
        (ssetCheck n.toNat v = none →
          exec (.sset g a n) s = .next (s.putTeam ((popped sh t).setSpecial n.toNat v).next)) ∧
        (∀ cls code, ssetCheck n.toNat v = some (cls, code) → exec (.sset g a n) s = .next (s.trapAt t 0xF4 cls code
          (sh.active t) (if cls = 4 then (ctxOf sh t).lanes.map (fun l => (l, v)) else [])))) ∧
      (∀ (t : Team) (v : Word),
        t.setSpecial 18 v = t.withCtl { t.ctl with acting := v.setWidth 16 } ∧
        t.setSpecial 20 v = t.withCtl { t.ctl with tvb := v } ∧
        t.setSpecial 22 v = t.withCtl { t.ctl with fmt := v.setWidth 32 } ∧
        t.setSpecial 24 v = t.withCtl { t.ctl with msel := v } ∧
        (∀ l, Mask.has (t.setSpecial 25 v).ctl.live l = true → Mask.has t.ctl.live l = true) ∧
        (t.ctl.msel.toNat / 32 = 1 → ∀ l, l / 32 = t.ctl.msel.toNat % 32 →
          Mask.has (t.setSpecial 25 v).ctl.live l = (Mask.has t.ctl.live l && v.getLsbD (l % 32))) ∧
        (t.ctl.msel.toNat / 32 = 0 → ∀ l, l < t.nlane → l < 1024 → l / 32 = t.ctl.msel.toNat % 32 →
          Mask.has (t.setSpecial 25 v).ctl.cur l = (Mask.has t.ctl.live l && v.getLsbD (l % 32))) ∧
        (t.ctl.msel.toNat / 32 = 2 →
          t.setSpecial 25 v = t.withCtl { t.ctl with brk := (t.setSpecial 25 v).ctl.brk } ∧
          ∀ l, l < t.nlane → l < 1024 → Mask.has (t.setSpecial 25 v).ctl.brk l =
            if l / 32 = t.ctl.msel.toNat % 32 then Mask.has t.ctl.live l && v.getLsbD (l % 32) else Mask.has t.ctl.brk l) ∧
        (∀ k r, t.ctl.msel.toNat / 32 = k + 3 → r = (t.setSpecial 25 v).ctl.stack.reverse → k < t.ctl.stack.length →
          t.setSpecial 25 v = t.withCtl { t.ctl with stack := r.reverse } ∧ r.length = t.ctl.stack.length ∧
          ∀ j x y, t.ctl.stack.reverse[j]? = some x → r[j]? = some y → y = { x with image := y.image } ∧
            (j ≠ k → y = x) ∧
            ∀ l, l < t.nlane → l < 1024 → Mask.has y.image l =
              if j = k ∧ l / 32 = t.ctl.msel.toNat % 32 then Mask.has t.ctl.live l && v.getLsbD (l % 32)
              else Mask.has x.image l) ∧
        (t.ctl.stack.length ≤ t.ctl.msel.toNat / 32 - 3 → 3 ≤ t.ctl.msel.toNat / 32 → t.setSpecial 25 v = t))
    )
  ) ∧ (
    ∀ (g : Guard) (q : Fin 8) (a : Src) (d1 c : BitVec 4) (sh : Shape) (s : State) (t : Team),
      sh = { op := 0xF5, sel := .guard g, srcs := if c = 0 then [] else [a], wf := wfQcfg a d1 c, reset := some q } →
      Issues s sh t → ∀ total,
      total = (d1.toNat + 1) + (((List.range 8).filter (fun i => i != q.val)).map (fun i => (t.queue i).depth)).sum →
      (total ≤ t.hdr.qdepth → ∃ t', exec (.qcfg g q a d1 c) s = .next (s.putTeam t') ∧
        t' = ({ t with regs := { t.regs with q := t'.regs.q } } : Team).over
               { t.ctl with pc := t.ctl.pc + 4, hint := {} } ∧
        t'.queue q.val = { depth := d1.toNat + 1, items := List.replicate c.toNat ((valsOf sh t).getD 0 []) } ∧
        ∀ n, n ≠ q.val → (t'.queue n).depth = (t.queue n).depth ∧
          (t'.queue n).items = (t.queue n).items.drop (sh.pops n)) ∧
      (t.hdr.qdepth < total → Traps (.qcfg g q a d1 c) s t 0xF5 1 0x04 (sh.active t))
  )

/-- `trap` raises a class-7 trap whose code is its imm14, 0 to 16,383, marking every active lane; its word with a
destination field other than zero is no instruction and an illegal-class trap; outside a handler and a transaction EPC
is the next word, and an `eret` that finds EPC unchanged goes on there; `trap 5` is 0xF6F0_0005 (R356). -/
def Obligations.SoftwareTrap : Prop :=
  (∀ (g : Guard) (c : BitVec 14) (s : State) (t : Team), Issues s { op := 0xF6, sel := .guard g } t →
    Traps (.trap g c) s t 0xF6 7 c.toNat (({ op := 0xF6, sel := .guard g } : Shape).active t) ∧ c.toNat ≤ 16383 ∧
    (s.memOk → t.pend = [] → t.tx.live = false → t.ctl.inHandler = false → t.nlane ≤ 1024 →
      ∃ s', exec (.trap g c) s = .next s' ∧ Mem.word s'.mem (t.frameBase + 0x22000) = t.ctl.pc + 4)) ∧
  (∀ (s : State) (t : Team) (n : Word), Issues s { op := 0xF7, sel := .enabled } t → t.pend = [] →
    (∀ e ∈ (s.core t.coreKey).wbuf, e.team ≠ t.id) → t.ctl.inHandler = true →
    Mem.word s.mem (t.frameBase + 0x22000) = n + 4 → n.extractLsb' 0 2 = 0 →
    ∀ es, es = Mem.word s.mem (t.frameBase + 0x22008) → ((es.extractLsb' 0 2).toNat ≤ 1 ∨ 2 ≤ t.ctl.priv) →
    es.extractLsb' 16 48 = 0 → es.extractLsb' 2 6 = 0 → (es.extractLsb' 11 5).toNat = t.ctl.stack.length →
    ∃ t', exec .eret s = .next (s.putTeam t') ∧ t'.ctl.pc = n + 4) ∧
  (∀ w : Code, w.extractLsb' 24 8 = 0xF6 → w.extractLsb' 14 6 ≠ 0 → (∃ e, decode w = .error e) ∧
    ∀ (s : State) (t : Team) (g : Guard), s.curTeam? = some t → gOf w = .ok g →
      t.enabled &&& t.cond g ≠ 0 → s.illegalWord w = s.trapAt t 0xF6 0 0x01 (t.enabled &&& t.cond g)) ∧
  decode 0xF6F00005 = .ok (.trap .always 5)

/-- Taking a trap outside a handler and a transaction, nothing outstanding: the frame of the team's slot holds INFO,
COUNT, MASK, LIST, the drift, EPC (pc, or pc + 4 for class 7), ESTAT, the hint payloads, C, B and the predicates as they
stood; the drift is zero, the hint empty, C the live lanes, B empty, the level at least supervisor, the pc at TVB +
class × 0x100; every byte outside the frame, and everything else, is as before (R351 to R354).
A trap raised in a handler is a double trap: the team retires with no lane live, its launch fails, and the site's
fault buffer takes an event of code 0x05 with the EPC that stands in its frame, and the commands held in its open set go; no
frame is written (R355, R359). -/
def Obligations.TrapEntry : Prop :=
  (
    ∀ (s : State) (t : Team) (i : TrapInfo), s.memOk → s.team? t.id = some t → t.pend = [] → t.tx.live = false →
      t.ctl.inHandler = false → t.nlane ≤ 1024 → i.op < 256 → i.cls < 8 → i.code < 65536 →
      ∀ base, base = t.frameBase →
      ∃ m, s.takeTrap t.id i = { s with mem := m }.putTeam { t with
          status := .running, wake := none, did := 0, stalled := none, held := false, long := none, spawning := [],
          unsent := [], regs := { t.regs with drift := emptyDrift t.nlane },
          ctl := { t.ctl with
                              hint := {}, cur := t.ctl.live, brk := 0, inHandler := true, priv := max t.ctl.priv 1,
                              pc := t.ctl.tvb + BitVec.ofNat 64 (i.cls * 0x100) } } ∧
        Mem.word m base = BitVec.ofNat 64 (i.op * 2 ^ 56 + i.cls * 2 ^ 53 + i.code * 2 ^ 32) ∧
        Mem.word m (base + 0x18) = BitVec.ofNat 64 (Mask.lanes i.mask t.nlane).length ∧
        BitVec.ofNat 1024 (Mem.read m (base + 0x40) 128) = i.mask ∧
        (∀ n l, n < 1000 → (Mask.lanes i.mask t.nlane)[n]? = some l → Mem.word m (base + 0xC0 + 8 * n) =
          match i.list.find? (fun x => x.1 == l) with | some x => x.2 | none => 0) ∧
        (∀ e l, e < 16 → l < t.nlane → Mem.word m (base + 0x2000 + e * 0x2000 + l * 8) = lane (t.d e) l) ∧
        Mem.word m (base + 0x22000) = (if i.cls = 7 then t.ctl.pc + 4 else t.ctl.pc) ∧
        Mem.word m (base + 0x22008) =
          BitVec.ofNat 64 (t.ctl.stack.length * 2 ^ 11 + hintBits t.ctl.hint * 2 ^ 8 + t.ctl.priv) ∧
        Mem.word m (base + 0x22010) = (t.ctl.hint.imm.getD 0).setWidth 64 ∧
        Mem.word m (base + 0x22018) = (t.ctl.hint.immh.getD 0).setWidth 64 ∧
        Mem.word m (base + 0x22020) = (t.ctl.hint.mod.getD 0).setWidth 64 ∧
        BitVec.ofNat 1024 (Mem.read m (base + 0x22040) 128) = t.ctl.cur ∧
        BitVec.ofNat 1024 (Mem.read m (base + 0x220C0) 128) = t.ctl.brk ∧
        (∀ n, n < 7 → BitVec.ofNat 1024 (Mem.read m (base + 0x22140 + 128 * n) 128) = t.p n) ∧
        ∀ a, a < base ∨ base + 0x40000 ≤ a → Mem.get m a = Mem.get s.mem a
  ) ∧ (
    ∀ (s : State) (t : Team) (i : TrapInfo), s.team? t.id = some t → t.pend = [] → t.tx.live = false →
      t.ctl.inHandler = true → (∀ e ∈ (s.core t.coreKey).wbuf, e.team ≠ t.id) →
      ∃ t', s.takeTrap t.id i = (({ s with
            cmds := s.cmds.filter (fun k => !(k.team == some t.id && k.state == CmdState.heldInSet)) }.putTeam t').failLaunch
            t.place.part t.place.launch).event t.place.site t.ctl.home.toNat 0x05
              (Mem.word s.mem (t.frameBase + 0x22000)) ∧
        t'.id = t.id ∧ t'.status = .retiring ∧ t'.ctl.live = 0 ∧ t'.ctl.cur = 0 ∧ t'.regs = t.regs
  )

/-- `eret` in a handler, its frame legal and the team's stores applied, restores the drift, the predicates, C, B, the
hint, the level and the pc from the frame and leaves the handler; a frame R357 refuses is a double trap; outside a
handler `eret` is illegal. -/
def Obligations.ReturnFromTrap : Prop :=
  ∀ (s : State) (t : Team) (epc es : Word), Issues s { op := 0xF7, sel := .enabled } t → t.pend = [] →
    (∀ e ∈ (s.core t.coreKey).wbuf, e.team ≠ t.id) →
    epc = Mem.word s.mem (t.frameBase + 0x22000) → es = Mem.word s.mem (t.frameBase + 0x22008) →
    (t.ctl.inHandler = false → Traps .eret s t 0xF7 0 0x01 t.enabled) ∧
    (t.ctl.inHandler = true →
      (epc.extractLsb' 0 2 ≠ 0 ∨ (1 < (es.extractLsb' 0 2).toNat ∧ t.ctl.priv < 2) ∨ es.extractLsb' 16 48 ≠ 0 ∨
        es.extractLsb' 2 6 ≠ 0 ∨ (es.extractLsb' 11 5).toNat ≠ t.ctl.stack.length →
        exec .eret s = .next (s.doubleTrap t.id)) ∧
      (epc.extractLsb' 0 2 = 0 → ((es.extractLsb' 0 2).toNat ≤ 1 ∨ 2 ≤ t.ctl.priv) → es.extractLsb' 16 48 = 0 →
        es.extractLsb' 2 6 = 0 → (es.extractLsb' 11 5).toNat = t.ctl.stack.length →
        ∃ t', exec .eret s = .next (s.putTeam t') ∧
          t' = { t with
                 wake := none, did := 0, regs := { t.regs with drift := t'.regs.drift, p := t'.regs.p },
                 ctl := t'.ctl } ∧
          (∀ e l, e < 16 → l < t.nlane →
            lane (t'.d e) l = Mem.word s.mem (t.frameBase + (0x2000 + e * 0x2000 + l * 8))) ∧
          (∀ n, n < 7 → t'.p n = BitVec.ofNat 1024 (Mem.read s.mem (t.frameBase + (0x22140 + 128 * n)) 128)) ∧
          t'.ctl = { t.ctl with
            cur := BitVec.ofNat 1024 (Mem.read s.mem (t.frameBase + 0x22040) 128) &&& t.ctl.live,
            brk := BitVec.ofNat 1024 (Mem.read s.mem (t.frameBase + 0x220C0) 128) &&& t.ctl.live,
            hint := t'.ctl.hint, priv := (es.extractLsb' 0 2).toNat, inHandler := false, pc := epc } ∧
          t'.ctl.hint.imm =
            (if es.getLsbD 8 then some ((Mem.word s.mem (t.frameBase + 0x22010)).setWidth 24) else none) ∧
          t'.ctl.hint.immh =
            (if es.getLsbD 9 then some ((Mem.word s.mem (t.frameBase + 0x22018)).setWidth 24) else none) ∧
          t'.ctl.hint.mod =
            (if es.getLsbD 10 then some ((Mem.word s.mem (t.frameBase + 0x22020)).setWidth 24) else none)))

/-- Taking a trap and leaving the handler at once gives the team back its control state, drift, predicates and registers
as they stood at the trap: what R354 saves is what R357 restores. -/
def Obligations.TrapThenReturnRestores : Prop :=
  ∀ (s : State) (t : Team) (i : TrapInfo), s.memOk → s.team? t.id = some t → t.pend = [] → t.tx.live = false →
    t.ctl.inHandler = false → t.nlane ≤ 1024 → i.cls < 7 → t.ctl.pc.extractLsb' 0 2 = 0 → t.ctl.priv ≤ 1 →
    t.ctl.stack.length ≤ 16 → t.ctl.cur &&& t.ctl.live = t.ctl.cur → t.ctl.brk &&& t.ctl.live = t.ctl.brk →
    (∀ e ∈ (s.core t.coreKey).wbuf, e.team ≠ t.id) →
    ∃ t', (s.takeTrap t.id i).leaveHandler t.id = (s.takeTrap t.id i).putTeam t' ∧ t'.ctl = t.ctl ∧
      (∀ e l, e < 16 → l < t.nlane → lane (t'.d e) l = lane (t.d e) l) ∧ (∀ n, n < 7 → t'.p n = t.p n) ∧
      t'.regs.k = t.regs.k ∧ t'.regs.q = t.regs.q ∧ t'.regs.s = t.regs.s

/-- The checks before an instruction's own effect come in the order of R49, each with its trap, marking the active
lanes: encoding, privilege, hint, register bound, queue empty, queue full. For every instruction with operands. -/
def Obligations.ChecksInOrder : Prop :=
  ∀ (s : State) (t : Team) (sh : Shape) (f : State → Ctx → State), s.curTeam? = some t → t.pend = [] →
    sh.active t ≠ 0 →
    (sh.wf = false → s.run sh f = .next (s.trapAt t sh.op 0 0x01 (sh.active t))) ∧
    (sh.wf = true → t.ctl.priv < sh.priv → s.run sh f = .next (s.trapAt t sh.op 0 0x02 (sh.active t))) ∧
    (sh.wf = true → sh.priv ≤ t.ctl.priv →
      (hintOk sh.imm sh.immh sh.mod t.ctl.hint = false → s.run sh f = .next (s.trapAt t sh.op 0 0x03 (sh.active t))) ∧
      (hintOk sh.imm sh.immh sh.mod t.ctl.hint = true →
        (sh.boundOk t = false → s.run sh f = .next (s.trapAt t sh.op 1 0x01 (sh.active t))) ∧
        (sh.boundOk t = true → sh.emptyOk t = false → s.run sh f = .next (s.trapAt t sh.op 1 0x02 (sh.active t))) ∧
        (sh.boundOk t = true → sh.emptyOk t = true → sh.fullOk t = false →
          s.run sh f = .next (s.trapAt t sh.op 1 0x03 (sh.active t)))))

/-! ### Rows 0x8 and 0x9: loads, stores, atomics -/

/-- Every load whose lanes pass their checks, outside a transaction and with no strong store of the team undrained, issues:
it pushes an entry and names a destination that wait for the value, records one outstanding access with each lane's physical
address, and moves on; an acquire of site scope or wider completes that access at once, one of a narrower scope notes the
addresses that its scope orders. Memory does not change (R165, R190, R216 to R222, R232). A queued matrix instruction whose
reads go before the load makes it stall instead, and is none here. What an acquire does at its issue is the model's reading
of R188 and R190, log 15, and that `ldacq` takes a pending imm is log 109. The base is read as R36 gives; the addresses are
base + offset × size, or base + index × scale. A load with a lane in a control window, its team having nothing outstanding,
completes at once: such a lane takes the register, every other lane the bytes at its address, and no memory and no site
changes (R393). A load in a live transaction, no other transaction holding its lines and room for them, completes at once:
the transaction holds every line it reads, as reader where it did not hold it before; at 256 lines a further one aborts it
with 0x02, and a line that an older transaction has written with 0x01 (R235, R236). What a load's lanes take when they
return, no transaction live: each the bytes at its address, its team's own undrained stores first, extended as the load says;
the access is then over, everything else of the team as before, but for the note of which bytes of its matrix stores it has
read (R165, R169, R219, R220). A delivered access puts into every active lane of its destination, and of the drift entry that
waits for it, the value of that lane, of the one lane for `ldu`, and for `ldp` its second word into the next register; a
scalar takes the first active lane's. At a site that has stopped no load returns (R364). -/
def Obligations.Loads : Prop :=
  ((
    ∀ (g : Guard) (d : Dst) (a b : Src) (off : BitVec 8) (f : Fin 4) (s : State) (t : Team) (x : LoadForm) (xs : List LaneX),
      x ∈ loadForms t g d a b off f → Issues s x.sh t → t.tx.live = false →
      (∀ i ∈ s.incs, i.team ≠ some t.id) → (∀ e ∈ (s.core t.coreKey).wbuf, e.team = t.id → e.kind ≠ .strong) →
      s.checkLanes t { size := x.size, write := false, plain := true, cross := false } x.addrs = .ok xs →
      (∀ y ∈ xs, y.ctl = false) → (∀ y ∈ xs, s.mxAhead t (kindUnder (x.ord == .strong) y.kind) = false) →
      (∀ y ∈ xs, s.mxOver t y.phys x.size = false) →
      ∃ (t1 : Team) (u : State), Pushed t t1 x.sh d (fun _ => 0) ∧
        u = (({ s with uid := s.uid + 1 } : State).putTeam { t1 with
          seq := t.seq + 1,
          pend := t1.pend ++ [{ id := s.uid, seq := t.seq, op := .load x.size x.sign, release := none,
                                acquire := x.ord.span t, dst := some d, uniform := x.uniform, age := 0, act := x.sh.active t,
                                lanes := xs.map (fun y => {
                                  lane := y.lane, addr := y.phys, kind := kindUnder (x.ord == .strong) y.kind, repl := [],
                                  opnd := 0, expect := 0, got := none }) }] }).noteAccess
            t xs true ∧
        u.mem = s.mem ∧ u.sites = s.sites ∧
        exec x.i s = .next (if x.ord.span t = some allSpan then u.force (u.depth t.coreKey) (.pend t.id s.uid) else u)
  ) ∧ (
    ∀ (g : Guard) (d : Dst) (a b : Src) (off : BitVec 8) (f : Fin 4) (s : State) (t : Team) (x : LoadForm) (xs : List LaneX),
      x ∈ loadForms t g d a b off f → Issues s x.sh t → Quiet s t → t.mwr = [] →
      s.checkLanes t { size := x.size, write := false, plain := true, cross := false } x.addrs = .ok xs →
      (∀ y ∈ xs, s.mxAhead t (kindUnder (x.ord == .strong) y.kind) = false ∧ s.mxOver t y.phys x.size = false) →
      ∀ (done : Team → List TxLine → Team), done = (fun t1 ls => Team.deliver { t1 with seq := t.seq + 1, tx := { t.tx with lines := ls } }
          { id := s.uid, seq := t.seq, op := .load x.size x.sign, release := none, acquire := x.ord.span t, dst := some d,
            uniform := x.uniform, age := 0, act := x.sh.active t,
            lanes := xs.map (fun y => {
              lane := y.lane, addr := y.phys, kind := kindUnder (x.ord == Ord.strong) y.kind, repl := [], opnd := 0, expect := 0,
              got := some (if isReg y then (s.ctlRead (y.phys / 2 ^ 37) (y.phys % 2 ^ 37), 0)
                else s.loadValue t.coreKey t.id y.phys x.size x.sign) }) }) →
      ((∃ y ∈ xs, y.ctl = true) → (∀ u ∈ s.teams, u.tx.live = false) →
        ∃ (t1 : Team) (u : State), Pushed t t1 x.sh d (fun _ => 0) ∧ exec x.i s = .next u ∧ u.mem = s.mem ∧
          u.sites = s.sites ∧ u.teams = (s.putTeam (done t1 t.tx.lines)).teams) ∧
      (t.tx.live = true → (∀ y ∈ xs, y.ctl = false) →
        ((∀ y ∈ xs, s.txHolders t.id (y.phys / 64) = []) → t.tx.lines.length + xs.length ≤ 256 →
          ∃ (t1 : Team) (u : State) (ls : List TxLine), Pushed t t1 x.sh d (fun _ => 0) ∧ exec x.i s = .next u ∧
            u.mem = s.mem ∧ u.sites = s.sites ∧ u.teams = (s.putTeam (done t1 ls)).teams ∧
            (∀ l ∈ t.tx.lines, l ∈ ls) ∧ (∀ y ∈ xs, ∃ l ∈ ls, l.line = y.phys / 64) ∧
            (∀ l ∈ ls, l ∈ t.tx.lines ∨ (l.write = false ∧ l.undo = [] ∧ ∃ y ∈ xs, l.line = y.phys / 64))) ∧
        (∀ y r, xs = y :: r →
          (s.txHolders t.id (y.phys / 64) = [] → 256 ≤ t.tx.lines.length → (∀ l ∈ t.tx.lines, l.line ≠ y.phys / 64) →
            exec x.i s = .next (s.txAbort t.id 0x02)) ∧
          (∀ v, s.txHolders t.id (y.phys / 64) = [v] → (∃ l ∈ v.tx.lines, l.line = y.phys / 64 ∧ l.write = true) →
            tsOlder v.tx.ts t.tx.ts = true → exec x.i s = .next (s.txAbort t.id 0x01))))
  )) ∧ (
    (∀ (s : State) (t : Team) (p : Pend) (size : Nat) (sign : Bool) (m : Mask), s.team? t.id = some t →
      t.pend.find? (fun q => q.id == p.id) = some p → p.op = .load size sign → s.before (.pend t.id p.id) = [] →
      (s.live t.place.site = false → exec (.loadReturn t.id p.id m) s = .next s) ∧
      (s.live t.place.site = true → (∀ a ∈ p.lanes, a.got = none ∧ Mask.has m a.lane = true) → (∀ u ∈ s.teams, u.tx.live = false) →
      ∀ done, done = { p with lanes := p.lanes.map (fun a =>
        { a with got := some (s.loadValue t.coreKey t.id a.addr size sign) }) } →
      ∃ w, exec (.loadReturn t.id p.id m) s = .next (s.putTeam { (t.putPend p.id none).deliver done with mwr := w }) ∧
        w.map (fun x => { x with seen := [] }) = t.mwr.map (fun x => { x with seen := [] }))) ∧
    (∀ (s : State) (t : Team) (a size : Nat) (sign : Bool), (∀ e ∈ (s.core t.coreKey).wbuf, e.team ≠ t.id) →
      s.team? t.id = some t → t.mwr = [] →
      (size ≠ 16 → s.loadValue t.coreKey t.id a size sign =
        (if sign then signExt (8 * size) (Mem.read s.mem a size) else BitVec.ofNat 64 (Mem.read s.mem a size), 0)) ∧
      s.loadValue t.coreKey t.id a 16 sign = (Mem.word s.mem a, Mem.word s.mem (a + 8))) ∧
    (∀ (t : Team) (p : Pend) (size : Nat) (sign : Bool) (v : Word × Word) (l : Nat) (e : Dst),
      p.op = .load size sign → p.dst = some e → (p.lanes.map (fun b => b.lane)).Nodup → l < t.nlane →
      (Mask.has p.act l = true → ∃ a ∈ p.lanes, a.got = some v ∧ (p.uniform = false → a.lane = l) ∧
        (p.uniform = true → p.lanes.head? = some a)) →
      (p.age < 16 → lane ((t.deliver p).d p.age) l = if Mask.has p.act l then v.1 else lane (t.d p.age) l) ∧
      (∀ n, n ≠ p.age → n < 16 → (t.deliver p).d n = t.d n) ∧
      (∀ n, e = .k n →
        lane ((t.deliver p).k n.val) l = (if Mask.has p.act l then v.1 else lane (t.k n.val) l) ∧
        (size = 16 → lane ((t.deliver p).k (n.val + 1)) l =
          if Mask.has p.act l then v.2 else lane (t.k (n.val + 1)) l)) ∧
      (∀ n, (∀ i : Fin 32, e = .k i → n ≠ i.val ∧ (size = 16 → n ≠ i.val + 1)) → (t.deliver p).k n = t.k n) ∧
      (∀ n front last, e = .q n → (t.queue n.val).items = front ++ [last] →
        ∃ x, ((t.deliver p).queue n.val).items = front ++ [x] ∧
          lane x l = if Mask.has p.act l then v.1 else lane last l) ∧
      (∀ n, e = .s n → l = Mask.first p.act t.nlane → Mask.has p.act l = true → (t.deliver p).s n.val = v.1))
  )

/-- Every store whose lanes pass their checks, with nothing outstanding that it must follow and room in the write buffer,
enters the buffer: no byte of memory changes yet, the team itself reads the bytes it stored, the last lane at an address
winning, every other team reads what it read, no site changes but in the names of a replicated page's sites, and the team
moves on with its queues popped (R169, R219, R220, R222, R232). Where base and data name one queue the base pops first, which
is log 80, the model's, and that `strel` takes a pending imm is log 109. No lane of an access runs over the end of its line
(R169,
R216).
A store in a live transaction, no other transaction holding its lines and room for them, puts its bytes into memory in place:
the transaction holds every line it writes as its writer, with the bytes the line had when it first wrote it, and nothing enters
the buffer; a store to a replicated page aborts it with 0x03, at 256 lines a further line with 0x02, and a line that an older
transaction holds with 0x01 (R235, R236).
A store whose lanes all lie in control windows acts at once, lane by lane: a register takes its word by its own rule, the tenant
table and a trap frame take the bytes; a lane that is refused traps "protection", and where a lane is refused by itself none
acts (R393).
The head of a bank drains when nothing ordered before it is outstanding: its bytes stand in memory at its line,
every other byte is as before, and the entry is gone; a bank with no entry, or whose head must wait, and a bank at a
site that has stopped, does nothing (R169, R364). For an entry that no replica shares and no one listens to. -/
def Obligations.StoresAndTheirDrain : Prop :=
  (
    ∀ (g : Guard) (d a b : Src) (off : BitVec 8) (f : Fin 4) (s : State) (t : Team) (x : StoreForm) (xs : List LaneX),
      x ∈ storeForms t g d a b off f → Issues s x.sh t → t.tx.live = false → t.pend = [] →
      (∀ i ∈ s.incs, i.team ≠ some t.id) → (s.core t.coreKey).wbuf.length + xs.length ≤ 8 →
      (∀ scope, x.ord = .release scope → s.remoteUnder t scope = [] ∧ s.mxReads t (fun _ => true) = false) →
      (∀ y ∈ xs, s.mxAhead t (kindUnder (x.ord == .strong) y.kind) = false) →
      s.checkLanes t { size := x.size, write := true, plain := true, cross := true } x.addrs = .ok xs →
      (∀ y ∈ xs, y.ctl = false ∧ y.phys % 64 + x.size ≤ 64) →
      ∃ u, exec x.i s = .next u ∧ u.mem = s.mem ∧ ((∀ y ∈ xs, y.repl = []) → u.sites = s.sites) ∧
        (∀ k, { u.site k with names := [] } = { s.site k with names := [] }) ∧
        u.teams = (s.putTeam { (popped x.sh t).next with seq := t.seq + 1 }).teams ∧
        (∀ a, u.forwardByte t.coreKey t.id a = (storedByte xs x.size x.data a).getD (s.forwardByte t.coreKey t.id a)) ∧
        (∀ o a, o ≠ t.id → u.forwardByte t.coreKey o a = s.forwardByte t.coreKey o a)
  ) ∧ (
    ∀ (s : State) (t : Team) (k : AccKind) (ls : List (Nat × Word)) (xs : List LaneX),
      (k.size = 1 ∨ k.size = 2 ∨ k.size = 4 ∨ k.size = 8 ∨ k.size = 16) →
      (∀ e ∈ (s.core t.coreKey).tlb, e.leaf.frame % 64 = 0) → s.checkLanes t k ls = .ok xs →
      ∀ y ∈ xs, y.phys % 64 + k.size ≤ 64
  ) ∧ (
    ∀ (g : Guard) (d a b : Src) (off : BitVec 8) (f : Fin 4) (s : State) (t : Team) (x : StoreForm) (xs : List LaneX),
      x ∈ storeForms t g d a b off f → Issues s x.sh t → Quiet s t →
      (∀ scope, x.ord = .release scope → s.remoteUnder t scope = []) →
      (∀ y ∈ xs, s.mxAhead t (kindUnder (x.ord == .strong) y.kind) = false) →
      s.checkLanes t { size := x.size, write := true, plain := true, cross := true } x.addrs = .ok xs →
      (t.tx.live = true → (∀ y ∈ xs, y.ctl = false) →
        ((∃ y ∈ xs, y.repl ≠ []) → exec x.i s = .next (s.txAbort t.id 0x03)) ∧
        ((∀ y ∈ xs, y.repl = []) → (∀ v ∈ s.teams, v.id ≠ t.id → v.fetched = []) → (t.tx.lines.map (fun l => l.line)).Nodup →
          (s.memOk → (∀ y ∈ xs, s.txHolders t.id (y.phys / 64) = [] ∧ y.phys % 64 + x.size ≤ 64) →
            t.tx.lines.length + xs.length ≤ 256 →
            ∃ (u : State) (ls : List TxLine), exec x.i s = .next u ∧ u.sites = s.sites ∧
              (∀ a, Mem.get u.mem a = (storedByte xs x.size x.data a).getD (Mem.get s.mem a)) ∧
              (u.core t.coreKey).wbuf = (s.core t.coreKey).wbuf ∧
              u.teams = (s.putTeam { (popped x.sh t).next with
                seq := t.seq + 1, tx := { t.tx with lines := ls } }).teams ∧
              (∀ y ∈ xs, ∃ l ∈ ls, l.line = y.phys / 64 ∧ l.write = true) ∧
              (∀ l ∈ t.tx.lines, (l.write = true ∨ ∀ y ∈ xs, l.line ≠ y.phys / 64) → l ∈ ls) ∧
              (∀ l ∈ ls, l ∈ t.tx.lines ∨ (l.write = true ∧ l.undo = Mem.bytes s.mem (l.line * 64) 64 ∧
                ∃ y ∈ xs, l.line = y.phys / 64))) ∧
          (∀ y r, xs = y :: r →
            (s.txHolders t.id (y.phys / 64) = [] → 256 ≤ t.tx.lines.length → (∀ l ∈ t.tx.lines, l.line ≠ y.phys / 64) →
              exec x.i s = .next (s.txAbort t.id 0x02)) ∧
            (∀ v, s.txHolders t.id (y.phys / 64) = [v] → tsOlder v.tx.ts t.tx.ts = true →
              exec x.i s = .next (s.txAbort t.id 0x01))))) ∧
      (t.tx.live = false → (∀ y ∈ xs, y.ctl = true) →
        ∀ items bad, items = xs.map (fun y => (y, x.data y.lane)) →
          bad = items.filter (fun i => (s.ctlStore t [i]).toOption.isNone) →
          (bad ≠ [] → exec x.i s =
            .next (s.trapList (ctxOf x.sh t) 4 0x03 (bad.map (fun i => (i.1.lane, i.1.vaddr))))) ∧
          (∀ y, bad = [] → s.ctlStore t items = .error y →
            exec x.i s = .next (s.trapList (ctxOf x.sh t) 4 0x03 [(y.lane, y.vaddr)])) ∧
          (∀ s2 t2, bad = [] → s.ctlStore t items = .ok s2 → s2.team? t.id = some t2 →
            exec x.i s = .next (s2.putTeam { (popped x.sh t2).next with seq := t2.seq + 1 })))
  ) ∧ (
    ∀ (s : State) (t : Team) (y : LaneX) (bs : List Byte) (r : List (LaneX × List Byte)) (site ofs : Nat), y.ctl = true →
      site = y.phys / 2 ^ 37 → ofs = y.phys % 2 ^ 37 →
      (ctlPlace site ofs = .register → s.ctlStore t ((y, bs) :: r) =
        (s.ctlWrite site ofs (BitVec.ofNat 64 (leNat bs)) t.mon).elim (.error y) (fun s1 => s1.ctlStore t r)) ∧
      (ctlPlace site ofs = .table →
        (s.tableWriteOk site (Mem.setBytes s.mem y.phys bs) = true → s.ctlStore t ((y, bs) :: r) =
          ({ s with mem := Mem.setBytes s.mem y.phys bs } : State).ctlStore t r) ∧
        (s.tableWriteOk site (Mem.setBytes s.mem y.phys bs) = false → s.ctlStore t ((y, bs) :: r) = .error y)) ∧
      (∀ c k, ctlPlace site ofs = .frame c k → s.ctlStore t ((y, bs) :: r) =
        ({ s with mem := Mem.setBytes s.mem y.phys bs } : State).ctlStore t r) ∧
      (ctlPlace site ofs = .none → s.ctlStore t ((y, bs) :: r) = .error y)
  ) ∧ (
    ∀ (s : State) (core bank : Nat), s.memOk →
      ((s.core core).wbuf.find? (fun e => e.line % 8 == bank) = none → exec (.writeBufferDrain core bank) s = .next s) ∧
      ∀ e, (s.core core).wbuf.find? (fun e => e.line % 8 == bank) = some e →
        (s.before (.entry core e.id) ≠ [] ∨ s.live (coreSite core) = false →
          exec (.writeBufferDrain core bank) s = .next s) ∧
        (s.before (.entry core e.id) = [] → s.live (coreSite core) = true → e.repl = [] → NoListeners s (e.line * 64 / 2 ^ 37) →
          ∃ u, exec (.writeBufferDrain core bank) s = .next u ∧
            (∀ a, Mem.get u.mem a = match e.bytes.reverse.find? (fun b => e.line * 64 + b.1 == a) with
              | some b => b.2
              | none => Mem.get s.mem a) ∧
            (u.core core).wbuf = (s.core core).wbuf.filter (fun f => f.id != e.id) ∧
            u.teams = s.teams ∧ u.sites = s.sites)
  )

/-- Loads and stores that fail a check: an address off a multiple of the size traps "alignment", marking and naming the
lanes that miss; the checks' trap is raised as they answer it; a translation fault parks the team with everything else
of it as it was, and in a live transaction enters the fault buffer and aborts it with 0x05 (R49, R175, R216, R236). That a
store's misaligned lanes trap where another lane's translation, which decides a seam check, faults is log 107, the model's. -/
def Obligations.AccessTraps : Prop :=
  (∀ (g : Guard) (d : Dst) (a b : Src) (off : BitVec 8) (f : Fin 4) (s : State) (t : Team) (x : LoadForm),
    x ∈ loadForms t g d a b off f → Issues s x.sh t →
    (∀ bad, bad = x.addrs.filter (fun y => y.2.toNat % x.size != 0) → bad ≠ [] →
      exec x.i s = .next (s.trapList (ctxOf x.sh t) 4 0x01 bad)) ∧
    (∀ cls code bad, s.checkLanes t { size := x.size, write := false, plain := true, cross := false } x.addrs =
      .trap cls code bad → exec x.i s = .next (s.trapList (ctxOf x.sh t) cls code bad)) ∧
    (∀ y l, s.checkLanes t { size := x.size, write := false, plain := true, cross := false } x.addrs = .fault y l →
      exec x.i s = .next (if t.tx.live
        then (s.pageFault t.place.site t.ctl.acting.toNat (gOfs y / 65536) false false false l y (.team t.id)).2.txAbort t.id 0x05
        else s.parkFault t t.ctl.acting.toNat (gOfs y / 65536) false false l y))) ∧
  (∀ (g : Guard) (d a b : Src) (off : BitVec 8) (f : Fin 4) (s : State) (t : Team) (x : StoreForm),
    x ∈ storeForms t g d a b off f → Issues s x.sh t →
    (∀ bad, bad = x.addrs.filter (fun y => y.2.toNat % x.size != 0) → bad ≠ [] →
      exec x.i s = .next (s.trapList (ctxOf x.sh t) 4 0x01 bad)) ∧
    (∀ cls code bad, s.checkLanes t { size := x.size, write := true, plain := true, cross := true } x.addrs =
      .trap cls code bad → exec x.i s = .next (s.trapList (ctxOf x.sh t) cls code bad)) ∧
    (∀ y l, s.checkLanes t { size := x.size, write := true, plain := true, cross := true } x.addrs = .fault y l →
      exec x.i s = .next (if t.tx.live
        then (s.pageFault t.place.site t.ctl.acting.toNat (gOfs y / 65536) true false false l y (.team t.id)).2.txAbort t.id 0x05
        else s.parkFault t t.ctl.acting.toNat (gOfs y / 65536) true false l y)))

/-- Every atomic and `red` whose lanes pass their checks, with nothing of the team outstanding and no transaction, enters its
port's write queue as one outstanding access with each lane's address, operand and expected value, and what its ordering
orders under its scope; an acquire of site scope or wider completes it at once. Returning forms push an entry that waits;
memory does not change yet, and no site but in the names of a replicated page's sites (R223 to R225, R228). That an acquire
of site scope or wider completes at once is the model's reading of R188 and R190, log 15.
In a live transaction an atomic or `red` of one lane, no other transaction holding its line and room for it, completes at once:
its location holds the new value in place, every other byte is as before, the transaction holds the line as its writer with the
bytes that the line had before, and the old value is delivered; on a replicated page it aborts the transaction with 0x03, at 256
lines a further line with 0x02, and a line that an older transaction holds with 0x01 (R235, R236).
A lane's atomic applied at its port, alone in its access: the location holds the new value at the atomic's width,
every other byte is as before, and the access is over with the old value delivered (R223, R224, R227, R228).
The new value of each atomic at 64 bits and, for an old value read at 32 bits, at 32: wrapping sum, bitwise
operations, signed and unsigned minimum and maximum, swap, and compare and swap (R224, R225); `afadd` adds as `cadd` does at 64
bits and as `fadd.f32` at 32, to nearest even (R226). -/
def Obligations.Atomics : Prop :=
  (
    (∀ (g : Guard) (d : Dst) (a b : Src) (f : AOrd) (s : State) (t : Team) (x : AtomForm) (xs : List LaneX) (w : Bool),
      x ∈ atomForms g d a b f → Issues s x.sh t → t.tx.live = false → Quiet s t → w = atom32 t.ctl.hint →
      (AOrd.rel f = true → s.remoteUnder t (scopeOf t.ctl.hint) = []) →
      s.checkLanes t { size := if w then 4 else 8, write := true, plain := false, cross := false }
        ((ctxOf x.sh t).lanes.map (fun l => (l, lane ((valsOf x.sh t).getD 0 []) l))) = .ok xs →
      ∃ (t1 : Team) (u : State), Pushed t t1 x.sh d (fun _ => 0) ∧
        u = (({ s with uid := s.uid + 1 } : State).putTeam { t1 with
          seq := t.seq + 1,
          pend := t1.pend ++ [{ id := s.uid, seq := t.seq, op := .atom x.op w,
                                release := if AOrd.rel f then some (t.spanOf (scopeOf t.ctl.hint)) else none,
                                acquire := if AOrd.acq f then some (t.spanOf (scopeOf t.ctl.hint)) else none, dst := some d,
                                uniform := false, age := 0, act := x.sh.active t,
                                lanes := xs.map (fun y => { lane := y.lane, addr := y.phys, kind := y.kind, repl := y.repl,
                                                            opnd := lane ((valsOf x.sh t).getD 1 []) y.lane,
                                                            expect := lane ((valsOf x.sh t).getD 2 []) y.lane,
                                                            got := none }) }] }).noteAccess t xs false ∧
        u.mem = s.mem ∧ ((∀ y ∈ xs, y.repl = []) → u.sites = s.sites) ∧
        (∀ k, { u.site k with names := [] } = { s.site k with names := [] }) ∧
        exec x.i s = .next (if AOrd.acq f = true ∧ t.spanOf (scopeOf t.ctl.hint) = allSpan
          then u.force (u.depth t.coreKey) (.pend t.id s.uid) else u)) ∧
    (∀ (g : Guard) (o : AtomOp) (a b : Src) (f : AOrd) (s : State) (t : Team) (sh : Shape) (xs : List LaneX) (w : Bool),
      sh = { op := 0x9B, sel := .guard g, srcs := [a, b], mod := .atomic } → Issues s sh t → t.tx.live = false →
      Quiet s t → w = atom32 t.ctl.hint → (AOrd.rel f = true → s.remoteUnder t (scopeOf t.ctl.hint) = []) →
      s.checkLanes t { size := if w then 4 else 8, write := true, plain := false, cross := false }
        ((ctxOf sh t).lanes.map (fun l => (l, lane ((valsOf sh t).getD 0 []) l))) = .ok xs →
      ∃ u : State, u = (({ s with uid := s.uid + 1 } : State).putTeam { (popped sh t).next with
          seq := t.seq + 1,
          pend := [{ id := s.uid, seq := t.seq, op := .atom (.op o) w,
                     release := if AOrd.rel f then some (t.spanOf (scopeOf t.ctl.hint)) else none,
                     acquire := if AOrd.acq f then some (t.spanOf (scopeOf t.ctl.hint)) else none, dst := none, uniform := false,
                     age := 0, act := sh.active t,
                     lanes := xs.map (fun y => { lane := y.lane, addr := y.phys, kind := y.kind, repl := y.repl,
                                                 opnd := lane ((valsOf sh t).getD 1 []) y.lane,
                                                 expect := lane ((valsOf sh t).getD 2 []) y.lane, got := none }) }] }).noteAccess
            t xs false ∧
        u.mem = s.mem ∧ ((∀ y ∈ xs, y.repl = []) → u.sites = s.sites) ∧
        (∀ k, { u.site k with names := [] } = { s.site k with names := [] }) ∧
        exec (.red g o a b f) s = .next (if AOrd.acq f = true ∧ t.spanOf (scopeOf t.ctl.hint) = allSpan then
          u.force (u.depth t.coreKey) (.pend t.id s.uid) else u))
  ) ∧ (
    ∀ (g : Guard) (d : Dst) (a b : Src) (f : AOrd) (ao : AtomOp) (s : State) (t : Team) (i : Instr) (sh : Shape) (o : RatomOp)
      (xs : List LaneX) (w : Bool) (n : Nat),
      ((∃ x ∈ atomForms g d a b f, i = x.i ∧ sh = x.sh ∧ o = x.op) ∨
        (i = .red g ao a b f ∧ sh = { op := 0x9B, sel := .guard g, srcs := [a, b], mod := .atomic } ∧ o = .op ao)) →
      Issues s sh t → t.tx.live = true → Quiet s t → (∀ v ∈ s.teams, v.id ≠ t.id → v.fetched = []) →
      w = atom32 t.ctl.hint → n = (if w then 4 else 8) →
      s.checkLanes t { size := n, write := true, plain := false, cross := false }
        ((ctxOf sh t).lanes.map (fun l => (l, lane ((valsOf sh t).getD 0 []) l))) = .ok xs →
      ((∃ y ∈ xs, y.repl ≠ []) → exec i s = .next (s.txAbort t.id 0x03)) ∧
      ((∀ y ∈ xs, y.repl = []) → (AOrd.rel f = true → s.remoteUnder t (scopeOf t.ctl.hint) = []) →
        (∀ y r, xs = y :: r →
          (s.txHolders t.id (y.phys / 64) = [] → 256 ≤ t.tx.lines.length → (∀ l ∈ t.tx.lines, l.line ≠ y.phys / 64) →
            exec i s = .next (s.txAbort t.id 0x02)) ∧
          (∀ v, s.txHolders t.id (y.phys / 64) = [v] → tsOlder v.tx.ts t.tx.ts = true →
            exec i s = .next (s.txAbort t.id 0x01))) ∧
        (∀ y v, xs = [y] → s.memOk → s.txHolders t.id (y.phys / 64) = [] → t.tx.lines.length < 256 →
          (t.tx.lines.map (fun l => l.line)).Nodup → v = BitVec.ofNat 64 (Mem.read s.mem y.phys n) →
          ∃ (t1 : Team) (u : State) (ls : List TxLine),
            (match sh.dst with | some e => Pushed t t1 sh e (fun _ => 0) | none => t1 = (popped sh t).next) ∧
            exec i s = .next u ∧ u.sites = s.sites ∧
            Mem.read u.mem y.phys n =
              (atomNew o w v (lane ((valsOf sh t).getD 1 []) y.lane) (lane ((valsOf sh t).getD 2 []) y.lane)).toNat % 2 ^ (8 * n) ∧
            (∀ c, c < y.phys ∨ y.phys + n ≤ c → Mem.get u.mem c = Mem.get s.mem c) ∧
            u.teams = (s.putTeam (Team.deliver { t1 with seq := t.seq + 1, tx := { t.tx with lines := ls } }
              { id := s.uid, seq := t.seq, op := .atom o w,
                release := if AOrd.rel f then some (t.spanOf (scopeOf t.ctl.hint)) else none,
                acquire := if AOrd.acq f then some (t.spanOf (scopeOf t.ctl.hint)) else none, dst := sh.dst, uniform := false,
                age := 0, act := sh.active t,
                lanes := [{ lane := y.lane, addr := y.phys, kind := y.kind, repl := y.repl,
                            opnd := lane ((valsOf sh t).getD 1 []) y.lane, expect := lane ((valsOf sh t).getD 2 []) y.lane,
                            got := some (v, 0) }] })).teams ∧
            (∃ l ∈ ls, l.line = y.phys / 64 ∧ l.write = true) ∧
            (∀ l ∈ t.tx.lines, (l.write = true ∨ l.line ≠ y.phys / 64) → l ∈ ls) ∧
            (∀ l ∈ ls, l ∈ t.tx.lines ∨ (l.write = true ∧ l.line = y.phys / 64 ∧
              l.undo = Mem.bytes s.mem (y.phys / 64 * 64) 64))))
  ) ∧ (
    (
      ∀ (s : State) (t : Team) (p : Pend) (a : LaneAcc) (o : RatomOp) (w : Bool) (v : Word) (n : Nat), s.memOk →
        s.team? t.id = some t → t.pend.find? (fun q => q.id == p.id) = some p → p.op = .atom o w → p.lanes = [a] →
        a.lane < 1024 → a.got = none → a.repl = [] → s.before (.pend t.id p.id) = [] → s.live t.place.site = true →
        NoListeners s (a.addr / 2 ^ 37) →
        n = (if w then 4 else 8) → v = BitVec.ofNat 64 (Mem.read s.mem a.addr n) →
        ∃ u, exec (.writeQueueApply t.id p.id a.lane) s = .next u ∧
          Mem.read u.mem a.addr n = (atomNew o w v a.opnd a.expect).toNat % 2 ^ (8 * n) ∧
          (∀ x, x < a.addr ∨ a.addr + n ≤ x → Mem.get u.mem x = Mem.get s.mem x) ∧
          u.teams = (s.putTeam ((t.putPend p.id none).deliver { p with lanes := [{ a with got := some (v, 0) }] })).teams ∧
          u.sites = s.sites
    ) ∧ (
      (∀ v b e : Word,
        atomNew (.op .add) false v b e = v + b ∧ atomNew (.op .and) false v b e = v &&& b ∧
        atomNew (.op .or) false v b e = v ||| b ∧ atomNew (.op .xor) false v b e = v ^^^ b ∧
        atomNew (.op .min) false v b e = (if b.slt v then b else v) ∧
        atomNew (.op .max) false v b e = (if v.slt b then b else v) ∧
        atomNew (.op .minn) false v b e = (if b.ult v then b else v) ∧
        atomNew (.op .maxn) false v b e = (if v.ult b then b else v) ∧
        atomNew .swp false v b e = b ∧ atomNew .cas false v b e = if v = e then b else v) ∧
      (∀ (v : BitVec 32) (b e : Word),
        let x := v.setWidth 64
        let y : BitVec 32 := b.setWidth 32
        let z : BitVec 32 := e.setWidth 32
        atomNew (.op .add) true x b e = (v + y).setWidth 64 ∧ atomNew (.op .and) true x b e = (v &&& y).setWidth 64 ∧
        atomNew (.op .or) true x b e = (v ||| y).setWidth 64 ∧ atomNew (.op .xor) true x b e = (v ^^^ y).setWidth 64 ∧
        atomNew (.op .min) true x b e = (if y.slt v then y else v).setWidth 64 ∧
        atomNew (.op .max) true x b e = (if v.slt y then y else v).setWidth 64 ∧
        atomNew (.op .minn) true x b e = (if y.ult v then y else v).setWidth 64 ∧
        atomNew (.op .maxn) true x b e = (if v.ult y then y else v).setWidth 64 ∧
        atomNew .swp true x b e = y.setWidth 64 ∧ atomNew .cas true x b e = (if v = z then y else v).setWidth 64 ∧
        atomNew (.op .fadd) true x b e = faddLane .f32 .rn x b) ∧
      (∀ v b e : Word, atomNew (.op .fadd) false v b e = caddLane .rn v b)
    )
  )

/-! ### Row 0xA: ordering and transactions -/

/-- `fence`, `xfence`, `cdrain` and `rfence` only move on when nothing they wait for is outstanding; `pfetch` moves on
whatever its addresses, and changes no memory and nothing of any team but its own words' operands (R229 to R231, R233,
R276). With a remote operation that its scope counts a `fence` stalls; with any outstanding `cdrain remote` parks the
team. An `xfence` marks the place its later commands come after.
That `pfetch` takes a pending imm is log 109, the model's. -/
def Obligations.Fences : Prop :=
  ∀ (g : Guard) (p : CPath) (s : State) (t : Team),
    (Quiet s t → (∀ o ∈ s.ops, o.team ≠ t.id) → Issues s { op := 0xA0, sel := .guard g, mod := .scope } t →
      movesOn s t (exec (.fence g) s)) ∧
    (Quiet s t → s.remoteUnder t (scopeOf t.ctl.hint) ≠ [] → Issues s { op := 0xA0, sel := .guard g, mod := .scope } t →
      exec (.fence g) s = .next (s.putTeam { t with held := true })) ∧
    (Quiet s t → t.tx.live = false → Issues s { op := 0xA1, sel := .guard g } t →
      exec (.xfence g) s = .next (s.putTeam { t.next with xseq := t.seq })) ∧
    (t.tx.live = false → (∀ o ∈ s.ops, o.team ≠ t.id) → (∀ k ∈ s.cmds, k.core ≠ t.coreKey) → t.deferred = [] →
      Issues s { op := 0xA2, sel := .guard g } t → movesOn s t (exec (.cdrain g p) s)) ∧
    (t.tx.live = false → (∀ o ∈ s.ops, o.team ≠ t.id) → t.deferred = [] → Issues s { op := 0xE8, sel := .guard g } t →
      movesOn s t (exec (.rfence g) s)) ∧
    (∀ ids, t.status = .running → t.tx.live = false → ids = (s.ops.filter (fun o => o.team == t.id)).map (fun o => o.id) →
      ids ≠ [] → Issues s { op := 0xA2, sel := .guard g } t →
      exec (.cdrain g .remote) s = .next (s.park t (.remote ids))) ∧
    (∀ (b : Src) (off : BitVec 8) (sh : Shape), sh = { op := 0xA9, sel := .guard g, srcs := [b], imm := true } →
      Issues s sh t → ∃ u, exec (.pfetch g b off) s = .next u ∧ u.mem = s.mem ∧ u.sites = s.sites ∧
        u.teams = (s.putTeam (popped sh t).next).teams)

/-- `txbeg` opens the transaction at depth 1 with the masks saved and a timestamp, which is kept when held for the same
`txbeg`, or deepens it; `txend` shallows it or, at depth 1 with the stack as it was, ends it with the timestamp given
up; `txabt` aborts with 0x80 + a; `txst` pushes TSTAT and with `.rel` gives the timestamp up (R234, R238, R239). That a
nested `txend` too compares the stack's depth is log 22, the model's. -/
def Obligations.Transactions : Prop :=
  ∀ (s : State) (t : Team) (disp : BitVec 20) (g : Guard) (a : Src) (d : Dst) (rel : Bool) (st : Site),
    st = s.site t.place.site →
    (Issues s { op := 0xA3, sel := .enabled, imm := true, wf := s.curUsesTx } t →
      (t.tx.live = false → ∃ (keep : Bool) (t' : Team),
        exec (.txbeg disp) s = .next ((if keep then s else s.putSite { st with txClock := st.txClock + 1 }).putTeam t') ∧
        (keep = true ↔ t.tx.held = true ∧ t.tx.heldpc = t.ctl.pc ∧ (st.txClock - t.tx.ts).toNat < 2 ^ 47) ∧
        t' = { t.next with tx := t'.tx } ∧ t'.tx.live = true ∧ t'.tx.held = true ∧ t'.tx.depth = 1 ∧
        t'.tx.ts = (if keep then t.tx.ts else st.txClock) ∧ t'.tx.handler = branchTarget t disp ∧
        t'.tx.saveV = t.ctl.live ∧ t'.tx.saveC = t.ctl.cur ∧ t'.tx.saveB = t.ctl.brk ∧
        t'.tx.saveStack = t.ctl.stack ∧ t'.tx.lines = []) ∧
      (t.tx.live = true → t.tx.depth < 8 → exec (.txbeg disp) s =
        .next (s.putTeam { t.next with tx := { t.tx with depth := t.tx.depth + 1 } })) ∧
      (t.tx.live = true → t.tx.depth = 8 → exec (.txbeg disp) s = .next (s.txAbort t.id 0x04))) ∧
    (Issues s { op := 0xA4, sel := .enabled } t →
      (t.tx.live = true → t.ctl.stack.length = t.tx.saveStack.length → 1 < t.tx.depth → exec .txend s =
        .next (s.putTeam { t.next with tx := { t.tx with depth := t.tx.depth - 1 } })) ∧
      (t.tx.live = true → t.ctl.stack.length = t.tx.saveStack.length → t.tx.depth ≤ 1 → Quiet s t → exec .txend s =
        .next ((s.putTeam { t.next with
          tx := { t.tx with live := false, held := false, depth := 0, code := 0, lines := [] } }).txWoke t.tx.lines)) ∧
      (t.tx.live = true → t.ctl.stack.length ≠ t.tx.saveStack.length → exec .txend s = .next (s.txAbort t.id 0x09)) ∧
      (t.tx.live = false → Traps .txend s t 0xA4 2 0x02 t.enabled)) ∧
    (∀ sh, sh = { op := 0xA5, sel := .guard g, srcs := [a] } → Issues s sh t →
      (t.tx.live = true → exec (.txabt g a) s = .next ((s.putTeam (popped sh t).next).txAbort t.id
        (0x80 + (lane ((valsOf sh t).getD 0 []) (Mask.first (sh.active t) t.nlane)).toNat % 128))) ∧
      (t.tx.live = false → exec (.txabt g a) s = .next (s.putTeam (popped sh t).next))) ∧
    (∀ sh, sh = { op := 0xA6, sel := .guard g, dst := some d } → Issues s sh t →
      ∃ t1, Pushed t t1 sh d (fun _ => t.tx.stat) ∧ exec (.txst g d rel) s =
        .next (s.putTeam (if rel then { t1 with tx := { t1.tx with held := false } } else t1)))

/-- An abort puts every written line back as the transaction found it and nothing else of memory, restores V, C, B and
the mask stack, ends the transaction with its code, and goes on at the handler (R237).
When a transaction touches a line that another holds and one of the two writes, the older of them goes on: the
toucher aborts with 0x01 when some holder is older, and otherwise takes the line; an access from outside aborts every
holder with 0x08 (R235, R236). For a line with one other holder. -/
def Obligations.TransactionAborts : Prop :=
  (
    ∀ (s : State) (t : Team) (code : Nat), s.memOk → s.team? t.id = some t → t.tx.live = true →
      (t.tx.lines.map (fun l => l.line)).Nodup → (∀ l ∈ t.tx.lines, l.write = true → l.undo.length = 64) →
      ∃ m t', s.txAbort t.id code = { s with mem := m }.putTeam t' ∧
        (∀ l ∈ t.tx.lines, l.write = true → ∀ i, i < 64 → some (Mem.get m (l.line * 64 + i)) = l.undo[i]?) ∧
        (∀ a, (∀ l ∈ t.tx.lines, l.write = true → a / 64 ≠ l.line) → Mem.get m a = Mem.get s.mem a) ∧
        t'.id = t.id ∧ t'.regs = t.regs ∧ t'.ctl.live = t.tx.saveV ∧ t'.ctl.cur = t.tx.saveC ∧ t'.ctl.brk = t.tx.saveB ∧
        t'.ctl.stack = t.tx.saveStack ∧ t'.ctl.pc = t.tx.handler ∧ t'.ctl.hint = {} ∧ t'.tx.live = false ∧
        t'.tx.depth = 0 ∧ t'.tx.code = BitVec.ofNat 8 code ∧ t'.tx.lines = [] ∧ t'.tx.held = t.tx.held ∧ t'.tx.ts = t.tx.ts
  ) ∧ (
    ∀ (s : State) (t u : Team) (line : Nat) (write : Bool), s.team? t.id = some t → s.team? u.id = some u → t.tx.live = true →
      s.txHolders t.id line = [u] → u.tx.live = true → u.id ≠ t.id → t.tx.lines.length < 256 →
      (write = true ∨ u.tx.lines.any (fun l => l.line == line && l.write) = true) →
      (tsOlder u.tx.ts t.tx.ts = true → s.txTouch t.id line write = (false, s.txAbort t.id 0x01)) ∧
      (tsOlder t.tx.ts u.tx.ts = true → ∃ t' r, s.txTouch t.id line write = (true, r) ∧
        r = (s.txAbort u.id 0x01).putTeam t' ∧ t'.id = t.id ∧ ∃ l ∈ t'.tx.lines, l.line = line ∧ (write = true → l.write = true)) ∧
      s.txOutside t.id line = s.txAbort u.id 0x08
  )

/-! ### Row 0xB: engines, counters, fork sets -/

/-- Each active lane of an engine command whose checks pass, with entries left on the core and room in an open fork set,
takes an entry with its arguments as read at issue, held in the open set or in flight; the team moves on and no byte of
memory changes (R242 to R245, R257).
An engine moves bytes of a copy's segment: it reads bytes of the chunk it stands at, from memory itself, which the
segment then holds; it writes bytes it holds to the destination, every other byte of memory as before; and a chunk written
whole is behind it. A segment that is tried again moves the bytes it lacks, read or written as they would have been, (R178,
R179, R244, R246). For pages no replica shares, with no one listening.
A command with every chunk written ends: it leaves, its C counter and its set's counter are each due one increment,
and nothing else changes. The scheduler's rewrite marks a command that no engine took within 2 µs in a partition with
reserved rows (R244, R248, R257). -/
def Obligations.EngineCommands : Prop :=
  (
    ∀ (g : Guard) (kb : Fin 32) (z : Fin 7) (b : Bool) (s : State) (t : Team) (i : Instr) (op fn n : Nat) (sh : Shape) (ls : List Nat),
      (i, op, fn) ∈ [(Instr.cpy g kb b, 0xB0, b.toNat), (.cpy2 g kb b, 0xB1, b.toNat),
        (.gath g kb z b, 0xB2, z.val * 2 + b.toNat), (.scat g kb z b, 0xB3, z.val * 2 + b.toNat),
        (.cfill g kb b, 0xB4, b.toNat)] →
      n = cmdArgs op + fn % 2 → sh = { op, sel := .guard g, blk := some (kb, n) } → Issues s sh t →
      t.tx.live = false → t.did = 0 → s.mxReads t (fun e => decide (e.seq < t.xseq)) = false →
      (∀ p ∈ t.pend, t.xseq ≤ p.seq) → ls = (ctxOf sh t).lanes →
      (∀ l ∈ ls, cmdOver op fn (laneArgs (ctxOf sh t) n l) = false ∧
        ∀ r ∈ s.cmdChecks (ctxOf sh t) op fn l (laneArgs (ctxOf sh t) n l), ∃ p, r.2.2 = .ok p false) →
      s.coreEntries t.coreKey + ls.length ≤ 256 → (t.forkOpen = true → (s.heldOf t.id).length + ls.length ≤ 64) →
      (t.forkOpen = true ∨ ∀ l ∈ ls, cmdTotal op (laneArgs (ctxOf sh t) n l) ≠ 0) → (∀ k ∈ s.cmds, k.id < s.uid) →
      ∃ u, exec i s = .next u ∧ u.mem = s.mem ∧ u.sites = s.sites ∧ u.teams = (s.putTeam t.next).teams ∧
        u.cmds = s.cmds ++ ls.zipIdx.map (fun x =>
          { id := s.uid + x.2, team := some t.id, site := t.place.site, core := t.coreKey, op, fn, lane := x.1,
            args := laneArgs (ctxOf sh t) n x.1, tenant := t.ctl.acting.toNat, user := !t.sup,
            state := if t.forkOpen then CmdState.heldInSet else CmdState.flight,
            token := if t.forkOpen then some t.forkTok else none, setCtr := if t.forkOpen then t.forkCtr else none,
            rewritten := false, issued := s.now,
            bigs := s.bigBlocks t.place.site (some t.coreKey) t.ctl.acting.toNat op fn (laneArgs (ctxOf sh t) n x.1),
            upto := 0, done := [], segs := [] })
  ) ∧ (
    (
      ∀ (s : State) (k : Cmd) (g : Seg) (i n phys : Nat), s.memOk → s.cmd? k.id = some k → k.op = 0xB0 → k.state = .flight →
        s.live k.site = true → g.stuck = false →
        (k.beginSeg g.lo = some g → k.within g g.rd i n = true → apart g.heldRuns i n = true →
          s.xlateRun k.party .read 2 (sideAt k.op k.args true (g.lo + i)) n = .ok [(phys, n, [])] →
          (∀ u ∈ s.teams, u.tx.live = false) →
          exec (.engineCommandComplete k.id (.read g.lo i n)) s =
            .next (s.putCmd { k.putSeg (g.afterRead (k.len g) i (Mem.bytes s.mem phys n)) with issued := s.now })) ∧
        (k.beginSeg g.lo = some g → k.nextAct g = .read g.lo i n → k.within g g.rd i n = true → apart g.heldRuns i n = true →
          s.xlateRun k.party .read 2 (sideAt k.op k.args true (g.lo + i)) n = .ok [(phys, n, [])] →
          (∀ u ∈ s.teams, u.tx.live = false) →
          exec (.segmentReplay k.id g.lo) s =
            .next (s.putCmd { k.putSeg (g.afterRead (k.len g) i (Mem.bytes s.mem phys n)) with issued := s.now })) ∧
        (k.beginSeg g.lo = some g → k.segs.find? (fun h => h.lo == g.lo) = some g → k.nextAct g = .write g.lo i n →
          k.within g g.wr i n = true → chunkEnd g.wr (k.len g) ≤ g.rd → apart g.put i n = true →
          s.xlateRun k.party .write 2 (sideAt k.op k.args false (g.lo + i)) n = .ok [(phys, n, [])] →
          (∀ site, NoListeners s site) →
          ∃ u, exec (.segmentReplay k.id g.lo) s = .next u ∧
            (∀ a, Mem.get u.mem a = if phys ≤ a ∧ a < phys + n then g.byte (i + (a - phys)) else Mem.get s.mem a) ∧
            u.teams = s.teams ∧ u.sites = s.sites ∧ u.cmds = (s.putCmd { k.afterWrite g i n with issued := s.now }).cmds) ∧
        (k.segs.find? (fun h => h.lo == g.lo) = some g → k.within g g.wr i n = true → chunkEnd g.wr (k.len g) ≤ g.rd →
          apart g.put i n = true →
          s.xlateRun k.party .write 2 (sideAt k.op k.args false (g.lo + i)) n = .ok [(phys, n, [])] →
          (∀ site, NoListeners s site) →
          ∃ u, exec (.engineCommandComplete k.id (.write g.lo i n)) s = .next u ∧
            (∀ a, Mem.get u.mem a = if phys ≤ a ∧ a < phys + n then g.byte (i + (a - phys)) else Mem.get s.mem a) ∧
            u.teams = s.teams ∧ u.sites = s.sites ∧
            u.cmds = (s.putCmd { k.afterWrite g i n with issued := s.now }).cmds) ∧
        (covered ((i, n) :: g.put) g.wr (k.len g) = true → chunkEnd g.wr (k.len g) = k.len g → k.upto = g.lo → k.done = [] →
          (k.afterWrite g i n).upto = g.lo + k.len g ∧ (k.afterWrite g i n).done = [])
    ) ∧ (
      ∀ (s : State) (k : Cmd), s.cmd? k.id = some k → k.state = .flight → s.live k.site = true →
        (k.upto = k.total → ∃ u, exec (.engineCommandComplete k.id .finish) s = .next u ∧
          u.cmds = s.cmds.filter (fun j => j.id != k.id) ∧ u.mem = s.mem ∧ u.teams = s.teams ∧
          u.fills.map (fun f => (f.target, f.value, f.kind)) = s.fills.map (fun f => (f.target, f.value, f.kind)) ++
            (if k.fn % 2 = 1 then [(cArg k.args (cmdArgs k.op), (1 : Word), (1 : Nat))] else []) ++
            (match k.setCtr with | some a => [(a, (1 : Word), (1 : Nat))] | none => [])) ∧
        (∀ p, s.part? (s.partOf k.site) = some p → 0 < p.reserved → k.rewritten = false → k.upto = 0 → k.done = [] →
          k.segs = [] → k.issued + us 2 ≤ s.now →
          exec (.copyKernelRewrite k.id) s = .next (s.putCmd { k with rewritten := true }))
    )
  )

/-- `cinc` with every counter good and every amount below 2^32 sends one increment per active lane, in lane order, to
its counter; at its port an increment adds its amount to the word, every other byte as before, and an armed fill whose
threshold it crosses fires and goes (R250 to R252, R254).
`cwait` on a counter that has reached its target moves on; on one that has not it parks the team on the counter,
with its bound; after the bound the park ends in "wait expired", and a stall of 1 ms for an engine or remote entry in
"entries exhausted", each raised at the instruction (R242, R253, R270). -/
def Obligations.Counters : Prop :=
  (
    (∀ (g : Guard) (kb : Fin 32) (s : State) (t : Team) (sh : Shape) (phys : Nat → Nat),
      sh = { op := 0xB5, sel := .guard g, blk := some (kb, 2) } → Issues s sh t → t.tx.live = false → Quiet s t →
      (∀ l ∈ (ctxOf sh t).lanes, s.checkWord t.party ((ctxOf sh t).arg 0 l) 8 .write = .ok (phys l) false ∧
        ((ctxOf sh t).arg 1 l).toNat < 2 ^ 32) →
      ∃ u, exec (.cinc g kb) s = .next u ∧ u.mem = s.mem ∧ u.sites = s.sites ∧ u.teams = (s.putTeam t.next).teams ∧
        u.incs.map (fun i => (i.team, i.ctr, i.amount)) = s.incs.map (fun i => (i.team, i.ctr, i.amount)) ++
          (ctxOf sh t).lanes.map (fun l => (some t.id, phys l, ((ctxOf sh t).arg 1 l).toNat))) ∧
    (∀ (s : State) (i : Inc) (site : Nat), s.memOk → site = i.ctr / 2 ^ 37 → s.live site = true →
      s.incs.filter (fun j => j.id == i.id) = [i] → s.incWaits i = false → NoListeners s site →
      ∀ hits, hits = (s.site site).armed.filter (fun a => a.ctr == i.ctr &&
        decide (1 ≤ (a.thr - Mem.word s.mem i.ctr).toNat ∧ (a.thr - Mem.word s.mem i.ctr).toNat ≤ i.amount)) →
      ∃ u, exec (.counterIncrement i.id) s = .next u ∧
        Mem.word u.mem i.ctr = Mem.word s.mem i.ctr + BitVec.ofNat 64 i.amount ∧
        (∀ a, a < i.ctr ∨ i.ctr + 8 ≤ a → Mem.get u.mem a = Mem.get s.mem a) ∧
        u.incs = s.incs.filter (fun j => j.id != i.id) ∧ u.teams = s.teams ∧
        (hits = [] → u.fills = s.fills ∧ u.sites = s.sites) ∧
        (∀ a, hits = [a] → a.kind < 2 → (u.site site).armed = (s.site site).armed.filter (fun b => b != a) ∧
          ∃ f, u.fills = s.fills ++ [f] ∧ f.target = a.target ∧ f.value = a.value ∧ f.kind = a.kind))
  ) ∧ (
    (∀ (g : Guard) (kb : Fin 32) (s : State) (t : Team) (sh : Shape) (c : Ctx) (phys : Nat),
      sh = { op := 0xB6, sel := .guard g, blk := some (kb, 3) } → c = ctxOf sh t → Issues s sh t → t.tx.live = false →
      Quiet s t → c.diverges [1, 2] = none → s.checkWord t.party (c.arg1 0) 8 .read = .ok phys false →
      s.txHolders t.id (phys / 64) = [] →
      ((Mem.word s.mem phys - c.arg1 1).toNat < 2 ^ 63 → movesOn s t (exec (.cwait g kb) s)) ∧
      (2 ^ 63 ≤ (Mem.word s.mem phys - c.arg1 1).toNat → t.status = .running →
        exec (.cwait g kb) s = .next (s.park t (.counter phys (c.arg1 1) (c.arg1 2).toNat)))) ∧
    (∀ (s : State) (t : Team) (why : Park) (since : Nat), s.team? t.id = some t → t.status = .parked why since →
      s.live t.place.site = true →
      (∀ w v n, why = .counter w v n → n ≠ 0 → since + n * Config.ticksPerNs ≤ s.now →
        exec (.cwaitExpiry t.id) s = .next (s.putTeam { t with
          status := .running, wake := some (.trap 5 0x0A 0 none), lastIssue := (s.core t.coreKey).slots })) ∧
      (why = .entries ∨ why = .remoteEntries → since + us 1000 ≤ s.now →
        exec (.entriesExhaustedExpiry t.id) s = .next (s.putTeam { t with
          status := .running, wake := some (.trap 6 0x01 0 none), lastIssue := (s.core t.coreKey).slots }))) ∧
    (∀ (s : State) (t : Team) (sh : Shape) (f : State → Ctx → State) (cls code aux : Nat),
      s.curTeam? = some t → t.wake = some (.trap cls code aux none) → t.pend = [] → sh.active t ≠ 0 → sh.wf = true →
      sh.priv ≤ t.ctl.priv → hintOk sh.imm sh.immh sh.mod t.ctl.hint = true → sh.boundOk t = true → sh.emptyOk t = true →
      sh.fullOk t = true →
      s.run sh f = .next (s.trapAt t sh.op cls code (sh.active t) [] 0 aux))
  )

/-- `arm` with a good counter, a target on a site of the partition, aligned for its kind, and for a prepared command a
good record: the action joins the counter's list, in order, or when the threshold is reached already acts at once; with
eight armed it is "arm limit" (R254, R255). A cell or counter in a control window as the target fails protection (R393). -/
def Obligations.ArmActions : Prop :=
  ∀ (g : Guard) (kb : Fin 32) (s : State) (t : Team) (sh : Shape) (c : Ctx) (phys kind home : Nat) (hp : Party)
    (ws : List Word) (a : Armed) (x : Site),
    sh = { op := 0xB7, sel := .guard g, blk := some (kb, 5) } → c = ctxOf sh t → Issues s sh t → t.tx.live = false →
    Quiet s t → c.diverges [1, 2, 4] = none → s.checkWord t.party (c.arg1 0) 8 .read = .ok phys false →
    s.txHolders t.id (phys / 64) = [] →
    kind = (c.arg1 2).toNat → kind < 3 →
    (c.arg1 3).toNat % (if kind = 0 then 16 else if kind = 1 then 8 else 64) = 0 →
    gDev (c.arg1 3) = t.place.ldev → s.partSite t.place.part (gSite (c.arg1 3)) = some home →
    hp = { t.party with site := home, lsite := gSite (c.arg1 3), core := if home = t.place.site then some t.coreKey else none } →
    (kind = 1 → (c.arg1 4).toNat < 2 ^ 32) →
    (kind = 2 → c.arg1 4 = 0 ∧ s.recordOk hp ws = true ∧ ∃ q r, s.checkWord hp (c.arg1 3) 64 .read = .ok q r ∧
      s.txHolders t.id (q / 64) = [] ∧ ws = (List.range 8).map (fun i => Mem.word s.mem (q + 8 * i))) → (kind ≠ 2 → ws = []) →
    a = { ctr := phys, thr := c.arg1 1, kind, target := c.arg1 3, value := c.arg1 4, recd := ws,
          tenant := t.ctl.acting.toNat, user := !t.sup } → x = s.site t.place.site →
    (kind ≠ 2 → region (gOfs (c.arg1 3)) = .control → exec (.arm g kb) s = .next (s.trapList c 4 0x03 [(c.first, c.arg1 3)])) ∧
    ((kind = 2 ∨ region (gOfs (c.arg1 3)) ≠ .control) →
    (reached (Mem.word s.mem phys) (c.arg1 1) = true →
      exec (.arm g kb) s = .next ((s.fire t.place.site a).putTeam t.next)) ∧
    (reached (Mem.word s.mem phys) (c.arg1 1) = false → (x.armed.filter (fun b => b.ctr == phys)).length < 8 →
      exec (.arm g kb) s = .next ((s.putSite { x with armed := x.armed ++ [a] }).putTeam t.next)) ∧
    (reached (Mem.word s.mem phys) (c.arg1 1) = false → 8 ≤ (x.armed.filter (fun b => b.ctr == phys)).length →
      Traps (.arm g kb) s t 0xB7 6 0x07 (sh.active t)))

/-- `fork` opens a set under a new token, which it pushes, and `fork.c` gives it a counter; an open set is "set open".
`join` of the set's token closes it, moving on when no member is left and parking the team on the members otherwise,
its held commands started; another token is "bad token". `cstat` pushes the status word, `cstat.arm` the number of
actions armed on a counter (R257 to R259). -/
def Obligations.ForkSets : Prop :=
  (∀ (g : Guard) (d : Dst) (a : Src) (f : Bool) (s : State) (t : Team) (sh : Shape) (v : Word),
    sh = { op := 0xB8, sel := .guard g, srcs := if f then [a] else [], dst := some d, pass := some a, wf := wfOptA f a } →
    Issues s sh t → t.tx.live = false → v = lane ((valsOf sh t).getD 0 []) (Mask.first (sh.active t) t.nlane) →
    (f = true → ∃ p, s.checkWord t.party v 8 .write = .ok p false) →
    (t.forkOpen = false → ∃ t1, Pushed t t1 sh d (fun _ => BitVec.ofNat 64 t.nextToken) ∧
      exec (.fork g d a f) s = .next (s.putTeam { t1 with
        forkOpen := true, forkCtr := if f then some v else none, forkCount := t.forkCount + 1,
        forkTok := t.nextToken, joinPc := none })) ∧
    (t.forkOpen = true → Traps (.fork g d a f) s t 0xB8 6 0x08 (sh.active t))) ∧
  (∀ (g : Guard) (a : Src) (s s1 : State) (t t1 : Team) (sh : Shape) (v : Word),
    sh = { op := 0xB9, sel := .guard g, srcs := [a] } → Issues s sh t → t.tx.live = false → t.status = .running →
    v = lane ((valsOf sh t).getD 0 []) (Mask.first (sh.active t) t.nlane) →
    voteOf (ctxOf sh t) ((valsOf sh t).getD 0 []) = [] →
    t1 = { t with forkOpen := false, joinPc := some t.ctl.pc } → s1 = (s.startCmds (s.heldOf t.id)).putTeam t1 →
    (t.forkOpen = true → v = BitVec.ofNat 64 t.forkTok →
      (s.setMembers t = [] → s.heldOf t.id = [] → t.deferred = [] → exec (.join g a) s =
        .next (s.putTeam { (popped sh t).next with forkOpen := false, forkCtr := none, joinPc := none })) ∧
      (s1.setMembers t ≠ [] → exec (.join g a) s = .next (s1.park t1 (.forkSet (s1.setMembers t))))) ∧
    (v ≠ BitVec.ofNat 64 t.forkTok → Traps (.join g a) s t 0xB9 6 0x0A (sh.active t))) ∧
  (∀ (g : Guard) (d : Dst) (a : Src) (s : State) (t : Team) (sh : Shape) (arm : Bool) (v : Word) (phys : Nat),
    sh = { op := 0xBA, sel := .guard g, srcs := if arm then [a] else [], dst := some d, pass := some a,
           wf := wfOptA arm a } → Issues s sh t → t.tx.live = false →
    v = lane ((valsOf sh t).getD 0 []) (Mask.first (sh.active t) t.nlane) →
    (arm = true → Quiet s t ∧ s.checkWord t.party v 8 .read = .ok phys false) →
    ∃ t', exec (.cstat g d a arm) s = .next (s.putTeam t') ∧ Pushed t t' sh d (fun _ =>
      if arm then BitVec.ofNat 64 ((s.site t.place.site).armed.filter (fun b => b.ctr == phys)).length
      else s.engineStatus t))

/-! ### Row 0xC: matrix -/

/-- Each queued matrix instruction whose checks pass, its team holding the unit, with no deferred trap and a place in
the queue, enters the queue with its word and its lowest active lane's arguments, sets FMT where it names a format word,
and moves on; nothing else of the machine changes (R138, R149, R150, R153 to R159). -/
def Obligations.MatrixInstructionsQueue : Prop :=
  ∀ (s : State) (t : Team) (g : Guard) (m : MRows) (n : BitVec 6) (kb : Fin 32) (tile : Fin 8) (b : Bool) (k : TKind)
    (o : XferOp) (x : MForm) (y : Core),
    x ∈ matrixForms s t g m n kb tile b k o → x.ok → (∀ r ∈ x.ranges, r.bad = none ∧ r.broken = none) →
    Issues s x.sh t → t.tx.live = false → t.deferred = [] → t.pend = [] →
    y = s.core t.coreKey → y.mx.holder = some t.id → (y.mx.queue.filter (fun e => !e.again)).length < 4 →
    exec x.i s = .next ((s.putCore { y with mx := { y.mx with
        queue := y.mx.queue ++ [{ seq := t.seq, keep := x.ranges.any (fun r => r.keep), word := x.word, args := x.args,
                                  tenant := t.ctl.acting.toNat, user := !t.sup, prog := 0, stuck := false,
                                  again := false, spans := x.ranges.flatMap (fun r => r.spans), old := none }],
        moved := s.now } }).putTeam
      { (match x.fmt with | some w => t.withCtl { t.ctl with fmt := BitVec.ofNat 32 w } | none => t).next with
        seq := t.seq + 1 })

/-- `mprog` pushes the tile's status and with CLR clears its SAT; `mwait` moves on when what it waits for is complete, the
stores of those instructions taking their place in memory there, `.rel` giving the unit up, and parks otherwise; it stalls
while those stores must follow reads of other queued instructions (R186); a team that
does not hold a held unit parks for it; a full queue stalls the team (R138, R150, R151, R160, R161).
The sequencer works on its head entry: `mzero` clears its tile's bytes and sets its kind, and is over; a row of
`mload` puts the bytes read into the tile, the first row setting the tile's kind and clearing SAT, ROWSUM and STEP; `rload`
puts its
columns' codes and scale bytes in place, `mcol` its columns' records; a step of `mloop` or `mloop.sp` reads its rows and adds
each
group's value to each element by the accumulation that the format word names, the first one without `.acc` to a tile of zeros,
and adds to the row sums; its end puts the row sums out; a row of `mdrain` puts its codes out, packed; `mxfer` copies the source
tile, or adds it element by element (R90 to R92, R153 to R159). What is put out is a store of the team's that its own matrix
instructions read from then on (R151). A page fault keeps the entry, with its progress, and parks the running
holder; an address that fails empties the queue and owes the team a deferred trap (R150 to R152, R155, R156), which the
team's next `mwait` raises, FAULT cleared and every active lane marked with the address (R152, R352; that it concerns every
active lane is the model's reading, log 84).
That `mwait.all` and `mwait.rel` wait for an rload that a resume still repeats is log 102, the model's. -/
def Obligations.MatrixWaitsAndSequencer : Prop :=
  (
    ∀ (s : State) (t : Team) (g : Guard) (tile : Fin 8) (clr rel all : Bool) (y : Core) (which : Option Nat) (sp sw : Shape),
      y = s.core t.coreKey → t.tx.live = false → t.deferred = [] → which = (if all || rel then none else some tile.val) →
      sp = { op := 0xC8, sel := .guard g, dst := some .drift } → sw = { op := 0xC9, sel := .guard g, wf := wfMwait tile all } →
      (y.mx.holder = some t.id → Issues s sp t →
        ∃ t', exec (.mprog g tile clr) s = .next ((if clr then s.putCore { y with
            mx := y.mx.setSlot tile.val (fun w => { w with sat := false }) } else s).putTeam t') ∧
          Pushed t t' sp .drift (fun _ => y.mx.status tile.val)) ∧
      (y.mx.holder = some t.id → Issues s sw t →
        (y.mx.waitedFor which = [] → rel = false → t.mwr = [] →
          exec (.mwait g tile rel all) s = .next (s.putTeam t.next)) ∧
        (y.mx.waitedFor which = [] → rel = true → t.mwr = [] → exec (.mwait g tile rel all) s =
          .next ((s.putCore { y with mx := { y.mx with holder := none } }).putTeam t.next)) ∧
        (y.mx.waitedFor which = [] → t.mwr.any (fun w => (all || rel || w.tile == tile.val) && s.mxAhead t w.kind) = true →
          exec (.mwait g tile rel all) s = .next (s.putTeam { t with held := true })) ∧
        (∀ w, y.mx.waitedFor which = [] → rel = false → t.mwr = [w] → s.mxAhead t w.kind = false →
          (all = true ∨ w.tile = tile.val) → s.memOk →
          t.pend = [] → y.wbuf = [] → w.repl = [] → w.addr % 64 + w.bytes.length ≤ 64 → NoListeners s (w.addr / 2 ^ 37) →
          ∃ u, exec (.mwait g tile rel all) s = .next u ∧
            u.team? t.id = some { t.next with mwr := [], seq := t.seq + 1 } ∧
            ∀ a, Mem.get u.mem a =
              if w.addr ≤ a ∧ a < w.addr + w.bytes.length then w.bytes.getD (a - w.addr) 0 else Mem.get s.mem a) ∧
        (y.mx.waitedFor which ≠ [] → t.status = .running →
          exec (.mwait g tile rel all) s = .next (s.park t (.matrixDone which)))) ∧
      (∀ h, y.mx.holder = some h → h ≠ t.id → t.status = .running →
        (Issues s sp t → exec (.mprog g tile clr) s = .next (s.park t .matrixUnit)) ∧
        (Issues s sw t → exec (.mwait g tile rel all) s = .next (s.park t .matrixUnit))) ∧
      (∀ (m : MRows) (n : BitVec 6) (k : TKind), y.mx.holder = some t.id → t.status = .running →
        tile.val + spanOf (rowsOf m) (16 * (n.toNat + 1)) k ≤ 8 → 4 ≤ (y.mx.queue.filter (fun e => !e.again)).length →
        Issues s { op := 0xC4, sel := .guard g } t →
        exec (.mzero g m n tile k) s = .next (s.putTeam { t with held := true }))
  ) ∧ (
    ∀ (s : State) (core : Nat) (t : Team) (e : MEntry) (r : List MEntry) (x : Matrix), x = (s.core core).mx →
      x.queue = e :: r → x.holder = some t.id → s.team? t.id = some t → t.coreKey = core → e.stuck = false → e.again = false →
      s.live (coreSite core) = true →
      (e.op = 0xC4 → ∃ y, exec (.matrixSequencerProgress core) s = .next (s.putCore { s.core core with mx := y }) ∧
        y.queue = r ∧ y.holder = x.holder ∧ y.cols = x.cols ∧ y.rl = x.rl ∧
        (∀ o, e.tile * 32768 ≤ o → o < e.tile * 32768 + e.m * e.n * elemSizeOf (kindOfCode (e.fl % 4)) → Mem.get y.acc o = 0) ∧
        (∀ i, i < spanOf e.m e.n (kindOfCode (e.fl % 4)) → (y.slot (e.tile + i)).kind = kindOfCode (e.fl % 4))) ∧
      (∀ ps bs n, e.op = 0xC6 → n = e.n * elemSizeOf (kindOfCode (e.fl % 4)) → Mem.wf x.acc = true →
        s.mxRead t e (e.a 0 + BitVec.ofNat 64 e.prog * e.a 1) n = (.ok ps, s, bs) →
        ∃ y, exec (.matrixSequencerProgress core) s = .next (s.putCore { s.core core with mx := y }) ∧
          y.queue = (if e.prog + 1 = e.m then r else { e with prog := e.prog + 1 } :: r) ∧
          (∀ o, Mem.get y.acc o =
            if e.tile * 32768 + e.prog * n ≤ o ∧ o < e.tile * 32768 + e.prog * n + bs.length
            then bs.getD (o - (e.tile * 32768 + e.prog * n)) 0 else Mem.get x.acc o) ∧
          (0 < e.prog → y.slots = x.slots) ∧
          (e.prog = 0 → (y.slot e.tile).sat = false ∧ (y.slot e.tile).rowsum = [] ∧ (y.slot e.tile).step = 0 ∧
            ∀ i, i < spanOf e.m e.n (kindOfCode (e.fl % 4)) → (y.slot (e.tile + i)).kind = kindOfCode (e.fl % 4))) ∧
      (∀ (ps : Nat → List (Nat × Nat × List Nat)) (bss : Nat → List Byte) (w cb n : Nat), e.op = 0xC0 → w = e.num 3 →
        cb = e.num 2 * elemBits (fwB w) / 8 → n = cb + (if trailing w (fwB w) then e.num 2 / 32 else 0) →
        (∀ i, i < e.n → s.mxRead t e (e.a 0 + BitVec.ofNat 64 i * e.a 1) n = (.ok (ps i), s, bss i)) →
        ∃ y rl, exec (.matrixSequencerProgress core) s = .next (s.putCore { s.core core with mx := y }) ∧ y.queue = r ∧
          y.holder = x.holder ∧ y.acc = x.acc ∧ y.slots = x.slots ∧ y.cols = x.cols ∧ y.rl = some rl ∧
          rl.kres = e.num 2 ∧ rl.nres = e.n ∧ rl.fmt = BitVec.ofNat 32 w ∧ rl.src = e.a 0 ∧ rl.stride = e.a 1 ∧
          (∀ i j, i < e.n → j < e.num 2 → (rl.codes.getD i []).getD j 0 =
            leNat ((bss i).take cb) / 2 ^ (elemBits (fwB w) * j) % 2 ^ elemBits (fwB w)) ∧
          (∀ i, i < e.n → rl.scales.getD i [] = ((bss i).drop cb).map (fun b => b.toNat))) ∧
      (∀ ps bs, e.op = 0xC5 → s.mxRead t e (e.a 0) (16 * e.n) = (.ok ps, s, bs) →
        ∃ y, exec (.matrixSequencerProgress core) s = .next (s.putCore { s.core core with mx := y }) ∧ y.queue = r ∧
          y.holder = x.holder ∧ y.acc = x.acc ∧ y.slots = x.slots ∧ y.rl = x.rl ∧
          (∀ c, c < e.n → y.cols.find? (fun q => q.col == c) = some {
            col := c, mult := BitVec.ofNat 32 (leNat ((bs.drop (16 * c)).take 4)), shift := bs.getD (16 * c + 4) 0,
            zout := bs.getD (16 * c + 5) 0, bias := BitVec.ofNat 32 (leNat ((bs.drop (16 * c + 8)).take 4)) }) ∧
          (∀ c, e.n ≤ c → y.cols.find? (fun q => q.col == c) = x.cols.find? (fun q => q.col == c))) ∧
      (∀ (ps : Nat → List (Nat × Nat × List Nat)) (bss : Nat → List Byte) (w count k0 size : Nat) (rl : RLoad) (fresh : Bool),
        (e.op = 0xC1 ∨ e.op = 0xC2) → w = e.num 4 → count = e.num 3 % 2 ^ 16 → e.prog < count → x.rl = some rl →
        Mem.wf x.acc = true → k0 = e.num 3 / 2 ^ 16 % 2 ^ 16 + e.prog * kStep (fmtClass (fwA w)) →
        size = elemSizeOf (kindOfAcc (fwAcc w)) → fresh = (e.prog == 0 && e.fl % 2 == 0) →
        (∀ m, m < e.m → s.mxRead t e (e.a 0 + BitVec.ofNat 64 m * e.a 1 + BitVec.ofNat 64 e.prog * e.a 2)
          (rowBytes w (e.op == 0xC2)) = (.ok (ps m), s, bss m)) →
        ∃ y, exec (.matrixSequencerProgress core) s = .next (s.putCore { s.core core with mx := y }) ∧
          y.queue = (if e.prog + 1 = count ∧ ¬(fwRsum w = true ∧ e.a 5 ≠ 0) then r else { e with prog := e.prog + 1 } :: r) ∧
          y.holder = x.holder ∧ y.rl = x.rl ∧ y.cols = x.cols ∧ (y.slot e.tile).step = e.prog + 1 ∧
          (∀ m n o vs old, m < e.m → n < e.n → o = e.tile * 32768 + (m * e.n + n) * size →
            vs = groupValues w (rowValues w (e.op == 0xC2) (bss m)) (columnOf w rl n k0) →
            old = (fun i => if fresh then 0 else Mem.read x.acc (o + i) 4) →
            (fwAcc w = 0 → Mem.read y.acc o 4 = vs.foldl (fun c v => accF32 c v.1 % 2 ^ 32) (old 0)) ∧
            (fwAcc w = 1 ∨ fwAcc w = 2 → Mem.read y.acc o 4 =
              vs.foldl (fun c v => (accI32 (fwAcc w == 2) c (FV.over 0 v.1)).1 % 2 ^ 32) (old 0)) ∧
            (fwAcc w = 3 → (Mem.read y.acc o 4, Mem.read y.acc (o + 4) 4) =
                vs.foldl (fun p v => pairTakes p v.1) (old 0, old 4) ∧
              (Mem.read y.acc (o + 8) 4, Mem.read y.acc (o + 12) 4) =
                vs.foldl (fun p v => pairTakes p v.2) (old 8, old 12))) ∧
          (∀ o, o < e.tile * 32768 ∨ e.tile * 32768 + e.m * e.n * size ≤ o → Mem.get y.acc o = Mem.get x.acc o) ∧
          (fresh = true → ∀ i, i < spanOf e.m e.n (kindOfAcc (fwAcc w)) →
            (y.slot (e.tile + i)).kind = kindOfAcc (fwAcc w)) ∧
          (fwRsum w = true → ∀ i, i < e.m → i < 32 → (y.slot e.tile).sum i =
            (if fresh then 0 else (x.slot e.tile).sum i) + rowSum (rowValues w (e.op == 0xC2) (bss i)))) ∧
      (∀ s1 ps, (e.op = 0xC1 ∨ e.op = 0xC2) → e.num 3 % 2 ^ 16 ≤ e.prog → 0 < e.prog → fwRsum (e.num 4) = true → e.a 5 ≠ 0 →
        (s.putCore (s.core core)).mxWrite t e (e.a 5)
          ((List.range e.m).flatMap (fun i => leBytes 8 ((x.slot e.tile).sum i).toNat)) = (.ok ps, s1) →
        exec (.matrixSequencerProgress core) s =
          .next (s1.putCore { s.core core with mx := { x with queue := r, moved := s.now } })) ∧
      ((e.op = 0xC1 ∨ e.op = 0xC2) → e.num 3 % 2 ^ 16 = 0 → e.prog = 0 → ¬(fwRsum (e.num 4) = true ∧ e.a 5 ≠ 0) →
        ∃ y, exec (.matrixSequencerProgress core) s = .next (s.putCore { s.core core with mx := y }) ∧ y.queue = r ∧
          (y.slot e.tile).step = 0 ∧ (e.fl % 2 = 1 → y.acc = x.acc) ∧
          (e.fl % 2 = 0 → ∀ o, e.tile * 32768 ≤ o →
            o < e.tile * 32768 + e.m * e.n * elemSizeOf (kindOfAcc (fwAcc (e.num 4))) → Mem.get y.acc o = 0)) ∧
      (∀ s1 ps, e.op = 0xC3 → s.mxWrite t e (e.a 0 + BitVec.ofNat 64 e.prog * e.a 1)
          (packCodes (drainCodes x e) (elemBits (fwD (e.num 2)))) = (.ok ps, s1) →
        exec (.matrixSequencerProgress core) s = .next (s1.putCore { s.core core with mx := { x with
          queue := if e.prog + 1 = e.m then r else { e with prog := e.prog + 1 } :: r, moved := s.now } })) ∧
      (∀ k n so d, e.op = 0xC7 → Mem.wf x.acc = true → k = (x.slot (e.num 0)).kind → n = e.m * e.n * elemSizeOf k →
        so = e.num 0 * 32768 → d = e.tile * 32768 →
        ∃ y, exec (.matrixSequencerProgress core) s = .next (s.putCore { s.core core with mx := y }) ∧ y.queue = r ∧
          y.holder = x.holder ∧ y.rl = x.rl ∧ y.cols = x.cols ∧
          (e.fl % 4 = 0 → (∀ o, Mem.get y.acc o = Mem.get x.acc (if d ≤ o ∧ o < d + n then so + (o - d) else o)) ∧
            (y.slot e.tile).sat = (x.slot (e.num 0)).sat ∧ (y.slot e.tile).rowsum = (x.slot (e.num 0)).rowsum ∧
            ∀ i, i < spanOf e.m e.n k → (y.slot (e.tile + i)).kind = k) ∧
          (e.fl % 4 ≠ 0 → (∀ o, o < d ∨ d + n ≤ o → Mem.get y.acc o = Mem.get x.acc o) ∧
            (∀ i, i < 32 → (y.slot e.tile).sum i = (x.slot e.tile).sum i + (x.slot (e.num 0)).sum i) ∧
            (∀ i rd, i < e.m * e.n → rd = (fun m o => Mem.read (Matrix.acc m) o 4) →
              (k = .f32 → rd y (d + 4 * i) = accF32 (rd x (d + 4 * i)) (.decode b32 (rd x (so + 4 * i))) % 2 ^ 32) ∧
              (k = .i32 → rd y (d + 4 * i) = (accI32 (e.fl % 4 == 2) (rd x (d + 4 * i))
                (BitVec.ofNat 32 (rd x (so + 4 * i))).toInt).1 % 2 ^ 32) ∧
              (k = .cf32 → ∀ c, c = 0 ∨ c = 8 → (rd y (d + 16 * i + c), rd y (d + 16 * i + c + 4)) =
                pairTakes (pairTakes (rd x (d + 16 * i + c), rd x (d + 16 * i + c + 4)) (.decode b32 (rd x (so + 16 * i + c))))
                  (.decode b32 (rd x (so + 16 * i + c + 4))))))) ∧
      (∀ a bs phys repl, 0 < bs.length → gOfs a % 65536 + bs.length ≤ 65536 →
        s.xlateRun (e.party t) .write (bs.length / 65536 + 2) a bs.length = .ok [(phys, bs.length, repl)] →
        ∃ ws, s.mxWrite t e a bs = (.ok [(phys, bs.length, repl)], s.putTeam { t with mwr := t.mwr ++ ws }) ∧
          (∀ w ∈ ws, w.tile = e.tile ∧ w.repl = repl ∧ w.seen = [] ∧
            w.kind = (s.kindsOf (e.party t) a bs.length).getD 0 .strong) ∧
          ∀ b, ({ t with mwr := t.mwr ++ ws } : Team).mwrByte b =
            if phys ≤ b ∧ b < phys + bs.length then bs[b - phys]? else t.mwrByte b) ∧
      (∀ s1 a l prog w, s.mxUnit t e = .stop s1 (.fault a l) prog w → s1.team? t.id = some t → t.status = .running →
        (s1.core core).mx.queue = e :: r → (s1.core core).mx.holder = some t.id →
        ∃ u, exec (.matrixSequencerProgress core) s = .next u ∧
          (u.core core).mx = { (s1.core core).mx with queue := { e with prog, stuck := true } :: r } ∧
          u.team? t.id = some { t with status := .parked .matrixFault s1.now }) ∧
      (∀ s1 a prog w, s.mxUnit t e = .stop s1 (.bad a) prog w → s1.team? t.id = some t →
        ∃ u, exec (.matrixSequencerProgress core) s = .next u ∧ (u.core core).mx.queue = [] ∧
          (e.hasTile = true → ((u.core core).mx.slot e.tile).fault = true) ∧
          ∃ d, u.team? t.id = some { t with deferred := t.deferred ++ [d] } ∧
            d.w = .matrix (if e.hasTile then some e.tile else none) ∧ d.cls = 4 ∧ d.code = 0x03 ∧ d.op = e.op ∧ d.addr = a ∧
            d.pidx = prog) ∧
      (∀ (g : Guard) (tile : Fin 8) (rel all : Bool) (sw : Shape) (d : Deferred) (i : Option Nat) (t1 : Team),
        sw = { op := 0xC9, sel := .guard g, wf := wfMwait tile all } → Issues s sw t → t.tx.live = false → t.deferred = [d] →
        d.w = .matrix i → t1 = { t with deferred := [] } →
        exec (.mwait g tile rel all) s = .next (((s.putTeam t1).putCore { s.core core with
          mx := x.clearFault t.ctl.home.toNat i }).trapAt t1 0xC9 d.cls d.code (sw.active t)
          ((Mask.lanes (sw.active t) t.nlane).map (fun l => (l, d.addr))) d.pidx d.op))
  )

/-- The numbers of the matrix unit: a group of integers is its exact sum of products; an INT32 element takes a value
modulo 2^32, or clamped to the signed range, the flag saying that it was (R88, R91). A group of another format is placed in the
window below its greatest exponent, and once more at twice the quantum where an element carries out of it; its value is NaN
or an
infinity as R82 checks in order, and else the sum of products scaled (R82, R85, R88; the worked group of R85). A binary32
element
takes a value by two roundings, and a pair (H, L) by the steps of R92, with an infinity or NaN apart (R90, R92). A drained row
carries each residual on, from 0 at each block of 32 columns and after a saturated output; its codes are the element's word, for
CF32 the sum of each pair, or what the carried rounding of the element, or of its requantised value, gives (R86, R158).
A free unit goes to its first waiter, which holds it with its home tenant and wakes; 10 ms parked for the unit is
"matrix unit held"; a scrub that finds a bad row raises the freeze line, and one that finds none changes nothing (R138,
R153). That the scrub's fault is of the sequencer's unit, 256 + core, is log 85, the model's.
That an accumulator −0 with a residual +0 is +0 is log 87, the model's. -/
def Obligations.MatrixNumbersAndUnit : Prop :=
  (
    (∀ (w : Nat) (xs ys : List Int), xs.length = ys.length →
      groupReal true true w (xs.map (fun x => ⟨ofInt x 0, .fin false 0 0⟩)) (ys.map (fun y => ⟨ofInt y 0, .fin false 0 0⟩)) =
        (let v := ((xs.zip ys).map (fun p => p.1 * p.2)).sum; if v = 0 then .fin false 0 0 else ofInt v 0)) ∧
    (∀ (c : Nat) (v : Int),
      (accI32 false c v).1 = ((BitVec.ofNat 32 c) + BitVec.ofInt 32 v).toNat ∧ (accI32 false c v).2 = false) ∧
    (∀ (c : Nat) (v : Int), let sum := (BitVec.ofNat 32 c).toInt + v
      (BitVec.ofNat 32 (accI32 true c v).1).toInt = max (-(2 ^ 31)) (min (2 ^ 31 - 1) sum) ∧
      ((accI32 true c v).2 = true ↔ sum < -(2 ^ 31) ∨ 2 ^ 31 ≤ sum)) ∧
    (∀ (w : Nat) (xs : List FV) (top : Int),
      (∀ x ∈ xs, ∃ n m e, x = .fin n m e ∧ (m ≠ 0 → expOf m e ≤ top)) →
      (∃ n m e, FV.fin n m e ∈ xs ∧ m ≠ 0 ∧ expOf m e = top) →
      align false w xs =
        if ∀ x ∈ xs, (alignOne (top - w + 1) x).natAbs ≠ 2 ^ w then (xs.map (alignOne (top - w + 1)), top - w + 1)
        else (xs.map (alignOne (top - w + 2)), top - w + 2)) ∧
    (∀ (w : Nat) (as_ bs : List Elem), as_.length = bs.length →
      ((∃ x ∈ as_ ++ bs, x.re = .nan) → groupReal false false w as_ bs = .nan) ∧
      ((∀ x ∈ as_ ++ bs, x.re ≠ .nan) →
        ((∃ p ∈ as_.zip bs, p.1.re.isInf = true ∧ p.2.re.isZero = true ∨ p.1.re.isZero = true ∧ p.2.re.isInf = true) →
          groupReal false false w as_ bs = .nan) ∧
        ((∀ p ∈ as_.zip bs, ¬(p.1.re.isInf = true ∧ p.2.re.isZero = true) ∧
            ¬(p.1.re.isZero = true ∧ p.2.re.isInf = true)) →
          (FV.inf true ∈ (as_.zip bs).map (fun p => FV.mul p.1.re p.2.re) →
            FV.inf false ∈ (as_.zip bs).map (fun p => FV.mul p.1.re p.2.re) → groupReal false false w as_ bs = .nan) ∧
          (∀ sg, FV.inf sg ∈ (as_.zip bs).map (fun p => FV.mul p.1.re p.2.re) →
            FV.inf (!sg) ∉ (as_.zip bs).map (fun p => FV.mul p.1.re p.2.re) → groupReal false false w as_ bs = .inf sg))) ∧
      ((∀ x ∈ as_ ++ bs, ∃ n m e, x.re = .fin n m e) → ∀ ax qx ay qy v, align false w (as_.map (fun x => x.re)) = (ax, qx) →
        align false w (bs.map (fun x => x.re)) = (ay, qy) → v = ((ax.zip ay).map (fun p => p.1 * p.2)).sum →
        groupReal false false w as_ bs = if v = 0 then .fin false 0 0 else ofInt v (qx + qy))) ∧
    groupReal false false 8 ([0x46, 0x22, 0x8C, 0x04].map (elemValue 0x5 false)) (List.replicate 4 (elemValue 0x5 false 0x38)) =
      .fin false 29696 (-13) ∧
    (∀ (c : Nat) (v : FV), accF32 c v =
      (roundSat b32 .rn (FV.add .rn (.decode b32 c) (.decode b32 (roundSat b32 .rn v).1))).1) ∧
    (∀ (h l : Nat) (v : FV) (nan : Nat × Nat), nan = (0x7FC00000, 0x7FC00000) →
      (v = .nan ∨ FV.decode b32 h = .nan → accPair h l v = nan) ∧
      (∀ sg, v = .inf sg → FV.decode b32 h = .inf (!sg) → accPair h l v = nan) ∧
      (∀ sg, v = .inf sg → FV.decode b32 h ≠ .nan → FV.decode b32 h ≠ .inf (!sg) →
        accPair h l v = (if sg then 0xFF800000 else 0x7F800000, 0)) ∧
      (∀ n m e sg, v = .fin n m e → FV.decode b32 h = .inf sg → accPair h l v = (h, l)) ∧
      (∀ n m e n' m' e', v = .fin n m e → FV.decode b32 h = .fin n' m' e' →
        let h1 := satV v
        let l1 := satV (FV.add .rn v h1.neg)
        let p := twoSumSat (.decode b32 h) h1
        let t := satV (FV.add .rn (.decode b32 l) l1)
        let e2 := satV (FV.add .rn p.2 t)
        let q := twoSumSat p.1 e2
        (q.1 ≠ .nan → q.2 ≠ .nan → e2 ≠ .nan → t ≠ .nan → accPair h l v = (satF q.1, satF q.2)) ∧
        (q.1 = .nan ∨ q.2 = .nan ∨ e2 = .nan ∨ t = .nan → accPair h l v = nan))) ∧
    (∀ (f : NarrowFmt) (y : Nat → FV → FV) (n k : Nat) (c z : FV), z = y n (if n % 32 = 0 then .fin false 0 0 else c) →
      rnef f y n 0 c = [] ∧ rnef f y n (k + 1) c = (narrowEncode .rn f z).1 :: rnef f y (n + 1) k
        (if (narrowEncode .rn f z).2 = true ∨ z = .nan ∨ z.isInf = true then .fin false 0 0
          else FV.add .rn z (narrowDecode f (narrowEncode .rn f z).1).neg)) ∧
    rnef .e4m3 (fun _ c => FV.add .rn (.fin false 17 (-4)) c) 0 4 (.fin false 0 0) = [0x38, 0x39, 0x38, 0x39] ∧
    (∀ (x : Matrix) (e : MEntry) (w first count size : Nat) (off : Nat → Nat), w = e.num 2 → first = e.num 3 % 2 ^ 16 →
      count = e.num 3 / 2 ^ 16 % 2 ^ 16 → size = elemSizeOf (kindOfAcc (fwAcc w)) →
      off = (fun n => e.tile * 32768 + (e.prog * e.n + n) * size) →
      (fwAcc w ≠ 3 → drainFmt (fwD w) (e.fl % 2 == 1) = none →
        drainCodes x e = (List.range count).map (fun i => Mem.read x.acc (off (first + i)) 4)) ∧
      (fwAcc w = 3 → drainCodes x e = (List.range count).map (fun i =>
        let v (o : Nat) : FV := .decode b32 (Mem.read x.acc o 4)
        let o := off (first + i)
        (roundSat b32 .rn (FV.add .rn (v o) (v (o + 4)))).1 +
          2 ^ 32 * (roundSat b32 .rn (FV.add .rn (v (o + 8)) (v (o + 12)))).1)) ∧
      (∀ f, fwAcc w = 0 → fwReq w = false → drainFmt (fwD w) (e.fl % 2 == 1) = some f →
        drainCodes x e = rnef f (fun n c => FV.add .rn (.decode b32 (Mem.read x.acc (off n) 4)) c) first count
          (.fin false 0 0)) ∧
      (∀ f, fwAcc w ≠ 3 → fwReq w = true → drainFmt (fwD w) (e.fl % 2 == 1) = some f →
        (∀ n, first ≤ n → n < first + count → ∃ q ∈ x.cols, q.col = n) →
        drainCodes x e = rnef f (fun n c =>
          let q := (x.cols.find? (fun q => q.col == n)).getD { col := n, mult := 0, shift := 0, zout := 0, bias := 0 }
          let acc := (BitVec.ofNat 32 (Mem.read x.acc (off n) 4)).toInt
          let sh := max 0 (min 63 q.shift.toInt)
          FV.add .rn (FV.add .rn (ofInt ((acc - zeroPoint w * ((x.slot e.tile).sum e.prog).toInt + q.bias.toInt) * q.mult.toInt)
            (-sh)) (ofInt q.zout.toInt 0)) c) first count (.fin false 0 0)))
  ) ∧ (
    (∀ (s : State) (core : Nat) (t : Team) (since : Nat), (s.core core).mx.holder = none → s.live (coreSite core) = true →
      firstWaiter (s.matrixWaiters core) = some (t, since) → t.status = .parked .matrixUnit since → t.coreKey = core →
      s.team? t.id = some t → ∃ u, exec (.matrixUnitHandover core) s = .next u ∧
        (u.core core).mx.holder = some t.id ∧ (u.core core).mx.tenant = some t.ctl.home.toNat ∧
        ∃ t', u.team? t.id = some t' ∧ t' = { t with status := .running, wake := none, savedMx := none, lastIssue := t'.lastIssue }) ∧
    (∀ (s : State) (t : Team) (since : Nat), s.team? t.id = some t → t.status = .parked .matrixUnit since →
      s.live t.place.site = true → since + us 10000 ≤ s.now →
      exec (.matrixUnitWaitExpiry t.id) s = .next (s.putTeam { t with
        status := .running, wake := some (.trap 5 0x09 0 none), lastIssue := (s.core t.coreKey).slots })) ∧
    (∀ (s : State) (core : Nat), exec (.rimeScrub core none) s = .next s) ∧
    (∀ (s : State) (core row : Nat), row < 4096 → s.live (coreSite core) = true → (s.site (coreSite core)).lsite < 64 →
      (s.core core).mx.tenant.getD 0 < 65536 → ∃ d,
      exec (.rimeScrub core (some row)) s = .next (s.freezePart (s.partOf (coreSite core)) (coreSite core) (256 + coreIdx core) d) ∧
      (d.extractLsb' 91 5).toNat = 2 ∧ (d.extractLsb' 88 3).toNat = 2 ∧ (d.extractLsb' 59 12).toNat = row)
  )

/-! ### Row 0xD: barrier words, promise cells, spawn, launch, yield -/

/-- `bari` sets EXPECT of a barrier word in whose phase nobody has arrived, and of no other it is "barrier misuse". `barr`
arrives and pushes the token, `bard` arrives, drops and pushes nothing; the last arrival advances the phase, clears ARRIVED
and takes the drops off EXPECT, and wakes who waits for the token. `barw` waits while the phase is its token's, and else
pushes the phase and says whether it is the next (R296 to R301).
That barrier misuse at a voted address marks every active lane, with 0 for each, is log 67, the model's. -/
def Obligations.BarrierWords : Prop :=
  (∀ (g : Guard) (kb : Fin 32) (s : State) (t : Team) (sh : Shape) (c : Ctx) (w : Nat) (b : Barrier),
    sh = { op := 0xD0, sel := .guard g, blk := some (kb, 2) } → c = ctxOf sh t → Issues s sh t → t.tx.live = false →
    Quiet s t → s.memOk → c.diverges [0, 1] = none → s.checkWord t.party (c.arg1 0) 16 .write = .ok w false →
    s.txHolders 0 (w / 64) = [] →
    b = Barrier.ofNat (Mem.read s.mem w 8) →
    (1 ≤ (c.arg1 1).toNat → (c.arg1 1).toNat ≤ 65535 → b.arrived = 0 → b.drops = 0 → NoListeners s (w / 2 ^ 37) →
      ∃ u, exec (.bari g kb) s = .next u ∧ u.teams = (s.putTeam t.next).teams ∧ u.sites = s.sites ∧
        Barrier.ofNat (Mem.read u.mem w 8) = { b with expect := (c.arg1 1).toNat } ∧ KeepsOutside s.mem u.mem w (w + 8)) ∧
    ((c.arg1 1).toNat = 0 ∨ 65535 < (c.arg1 1).toNat ∨ b.arrived ≠ 0 ∨ b.drops ≠ 0 →
      Traps (.bari g kb) s t 0xD0 5 0x01 (sh.active t))) ∧
  (∀ (g : Guard) (d : Dst) (a : Src) (off : BitVec 8) (drop : Bool) (s : State) (t : Team) (sh : Shape) (c : Ctx) (w : Nat)
      (b : Barrier) (i : Instr),
    sh = (if drop then { op := 0xD3, sel := .guard g, srcs := [a], imm := true }
          else { op := 0xD1, sel := .guard g, srcs := [a], dst := some d, pass := some a, imm := true }) →
    i = (if drop then .bard g a off else .barr g d a off) → c = ctxOf sh t → Issues s sh t → t.tx.live = false →
    Quiet s t → s.memOk → voteOf c (addrs16 c off) = [] →
    s.checkWord t.party (lane (addrs16 c off) c.first) 16 .write = .ok w false → s.txHolders 0 (w / 64) = [] →
    b = Barrier.ofNat (Mem.read s.mem w 8) →
    (b.arrived < b.expect → b.drops ≤ b.arrived → NoListeners s (w / 2 ^ 37) →
      ∃ u t', exec i s = .next u ∧ u.teams = (s.putTeam t').teams ∧ u.sites = s.sites ∧
        (if drop then t' = (popped sh t).next else Pushed t t' sh d (fun _ => BitVec.ofNat 64 b.phase)) ∧
        Barrier.ofNat (Mem.read u.mem w 8) =
          (if b.arrived + 1 = b.expect then
            { phase := (b.phase + 1) % 65536, expect := b.expect - (b.drops + drop.toNat), arrived := 0, drops := 0 }
           else { b with arrived := b.arrived + 1, drops := b.drops + drop.toNat }) ∧
        KeepsOutside s.mem u.mem w (w + 8)) ∧
    (b.expect ≤ b.arrived ∨ b.arrived < b.drops → (∀ u ∈ s.teams, u.fetched = []) →
      Traps i s t (if drop then 0xD3 else 0xD1) 5 0x01 (sh.active t))) ∧
  (∀ (s : State) (t : Team) (word token since : Nat), s.team? t.id = some t → t.status = .parked (.barrier word token) since →
    (s.wakePhase word token).team? t.id = some { t with
      status := .running, wake := some (.phase true (BitVec.ofNat 64 ((token + 1) % 65536))),
      lastIssue := (s.core t.coreKey).slots }) ∧
  (∀ (g : Guard) (p : Fin 7) (off : BitVec 5) (a b : Src) (s : State) (t : Team) (sh : Shape) (c : Ctx) (tv av : LaneVec)
      (w token phase d : Nat),
    sh = { op := 0xD2, sel := .guard g, srcs := [a, b], dst := some .drift, pass := some a, imm := true } → c = ctxOf sh t →
    Issues s sh t → t.tx.live = false → Quiet s t → tv = vtab t.nlane (fun l => lane (c.val 0) l &&& 0xFFFF) →
    av = vtab t.nlane (fun l => lane (c.val 1) l + BitVec.ofInt 64 (extOff5 t.ctl.hint off * 16)) → voteOf c tv = [] →
    voteOf c av = [] → s.checkWord t.party (lane av c.first) 16 .read = .ok w false → s.txHolders 0 (w / 64) = [] →
    token = (lane tv c.first).toNat →
    phase = (Barrier.ofNat (Mem.read s.mem w 8)).phase → d = (phase + 65536 - token) % 65536 →
    (d = 0 → t.status = .running → exec (.barw g p off a b) s = .next (s.park t (.barrier w token))) ∧
    (0 < d → d < 32768 → ∃ t1, Pushed t t1 sh .drift (fun _ => BitVec.ofNat 64 phase) ∧
      exec (.barw g p off a b) s =
        .next (s.putTeam (t1.writeP p.val (sh.active t) (if d = 1 then BitVec.allOnes 1024 else 0)))) ∧
    (32768 ≤ d → Traps (.barw g p off a b) s t 0xD2 5 0x01 (sh.active t)))

/-- FIND: a cell that is empty or full is its own root, one linked to such a cell has that one as its root, and an
invalid cell is "cell invalid". A chain of at most 256 links leads to the root at its end, or to what stops at its last cell;
one of more is "chain too long". The links followed, all of them for `pcomp` and else those in the root's slice, then name the
root, and no other byte changes. Reaching a cell of the own site changes nothing, of another enters its name in the name
cache and uses a delivery context. A fill puts the value into the root, with STATE full, no other byte changing, takes its
waiter list, and wakes
every parked waiter with the value (R177, R303, R305, R307, R310). With no transaction live.
The promise instructions on cells that pass the checks of R304. `pinit` makes each named cell empty; `pfill` fills
every named root, or when a value differs none, "conflicting fill"; `pwait` pushes a full root's value, parks on an empty
one, and pushes the value of its fill when it comes back; `ptest` pushes a full root's value with a true predicate, else
0 with a false one; `peq` equates its two roots, the lower-addressed one staying a root, whichever of them is full; `pcomp`
finds each named cell's root (R309 to R314). That a word naming one queue twice pops its base first is the model's choice,
log 80.
That `pwait` and `ptest` ask read permission and the others write permission is log 66, and which lane and address `peq`
marks for a conflicting fill log 123, both the model's. -/
def Obligations.PromiseCells : Prop :=
  (
    (∀ (s s1 : State) (p : Party) (need : Need) (every : Bool) (a : Word) (phys : Nat), (∀ u ∈ s.teams, u.tx.live = false) →
      s.cellAt p need a = .ok phys false → s1 = s.reachCell p a phys →
      (gDev a = p.ldev → gSite a = p.lsite → s1 = s) ∧
      (∀ k inc, gDev a ≠ p.ldev ∨ gSite a ≠ p.lsite → s.lookupName p.site p.tenant (gDev a) (gSite a) = some (k, inc) →
        s1 = if k = p.site then s else (s.fillName p.site p.tenant (gDev a) (gSite a)).touchPdc p.site k false none) ∧
      (s1.cellSt phys = .empty → s.findRoot p need every a = (s1, .root a phys false)) ∧
      (s1.cellSt phys = .full → s.findRoot p need every a = (s1, .root a phys true)) ∧
      (s1.cellSt phys = .invalid → s.findRoot p need every a = (s1, .trap 5 0x03)) ∧
      (∀ b q s2, s1.cellSt phys = .linked b → s1.cellAt p need b = .ok q false → s2 = s1.reachCell p b q →
        (s2.cellSt q = .empty → s.findRoot p need every a = (s2, .root b q false)) ∧
        (s2.cellSt q = .full → s.findRoot p need every a = (s2, .root b q true)))) ∧
    (∀ (s : State) (p : Party) (need : Need) (every : Bool) (n : Nat) (a : Nat → Word) (ph : Nat → Nat) (at_ : Nat → State),
      (∀ u ∈ s.teams, u.tx.live = false ∧ u.fetched = []) → s.memOk → at_ 0 = s →
      (∀ i, i < n → (at_ i).cellAt p need (a i) = .ok (ph i) false ∧ at_ (i + 1) = (at_ i).reachCell p (a i) (ph i) ∧
        (at_ (i + 1)).cellSt (ph i) = .linked (a (i + 1))) →
      (257 ≤ n → s.findRoot p need every (a 0) = (at_ 257, .trap 5 0x04)) ∧
      (n ≤ 256 →
        (∀ r, ((at_ n).cellAt p need (a n)).stop (a n) = some r → s.findRoot p need every (a 0) = (at_ n, r)) ∧
        ((at_ n).cellAt p need (a n) = .ok (ph n) false → at_ (n + 1) = (at_ n).reachCell p (a n) (ph n) →
          ((at_ (n + 1)).cellSt (ph n) = .invalid → s.findRoot p need every (a 0) = (at_ (n + 1), .trap 5 0x03)) ∧
          (∀ (full : Bool) (follows : Nat → Prop), (at_ (n + 1)).cellSt (ph n) = (if full then .full else .empty) →
            (∀ i, follows i ↔ i < n ∧ (every = true ∨ ph i / 2 ^ 37 = ph n / 2 ^ 37)) →
            (∀ i j, i < j → j ≤ n → ph i + 16 ≤ ph j ∨ ph j + 16 ≤ ph i) →
            ∃ u, s.findRoot p need every (a 0) = (u, .root (a n) (ph n) full) ∧
              (∀ i, follows i → Mem.word u.mem (ph i + 8) = linkWord (a n)) ∧
              ∀ x, (∀ i, follows i → x < ph i + 8 ∨ ph i + 16 ≤ x) → Mem.get u.mem x = Mem.get s.mem x)))) ∧
    (∀ (s : State) (root : Nat) (v : Word) (u : State), s.memOk → u = s.fillRoot root v →
      (∀ t ∈ s.teams, t.tx.live = false ∧ t.fetched = [] ∧ ∀ w k n, t.parkedIn ≠ some (.barrier w k, n)) →
      Mem.word u.mem root = v ∧ Mem.word u.mem (root + 8) = BitVec.ofNat 64 (2 ^ 63) ∧
      KeepsOutside s.mem u.mem root (root + 16) ∧ u.waitList? root = none ∧ u.cellSt root = .full ∧
      (∀ w t l a since, s.waitList? root = some w → CWaiter.team t.id ∈ w.who → s.team? t.id = some t →
        t.status = .parked (.cell l a) since →
        u.team? t.id = some { t with
          status := .running, wake := some (.value v), lastIssue := (s.core t.coreKey).slots }))
  ) ∧ (
    (∀ (g : Guard) (a : Src) (off : BitVec 8) (s : State) (t : Team) (sh : Shape) (c : Ctx) (ls : List (Nat × Word))
        (phys : Word → Nat) (at_ done : List (Nat × Word) → State),
      sh = { op := 0xD4, sel := .guard g, srcs := [a], imm := true } → c = ctxOf sh t → ls = cellsM c off → Issues s sh t →
      t.tx.live = false → t.did = 0 → t.status = .running → Quiet s t →
      done = (fun l => l.foldl (fun s x => ((s.reachCell t.party x.2 (phys x.2)).cellWrite (phys x.2) (leBytes 16 0)).laneDone
        t.id x.1) s) →
      (∀ x ∈ ls, ∃ q r, s.cellAt t.party .write x.2 = .ok q r) →
      (∀ pre x post, ls = pre ++ x :: post → (done pre).cellAt t.party .write x.2 = .ok (phys x.2) false ∧
        at_ pre = (done pre).reachCell t.party x.2 (phys x.2) ∧ (at_ pre).cellSt (phys x.2) ≠ .invalid ∧
        ((at_ pre).cellSt (phys x.2) = .empty → (at_ pre).waitList? (phys x.2) = none)) →
      exec (.pinit g a off) s = .next ((done ls).putTeam (popped sh t).next)) ∧
    (∀ (g : Guard) (a b : Src) (off : BitVec 8) (s s1 : State) (t : Team) (sh : Shape) (c : Ctx) (ls : List (Nat × Word))
        (xs : List Stop) (given : List (Nat × Word)) (bad : List Nat),
      sh = { op := 0xD5, sel := .guard g, srcs := [b, a], imm := true } → c = ctxOf sh t → ls = cellsM c off → Issues s sh t →
      t.tx.live = false → t.status = .running → Quiet s t →
      (∀ x ∈ ls, ∃ q, s.cellAt t.party .write x.2 = .ok q false) →
      s.findAll c true ls = (s1, xs) →
      fillPlan s1 (fun l => lane (c.val 1) l) (rootsOf xs) [] [] = (given, bad) →
      ((∀ x ∈ xs, ∃ r phys full, x.2.2 = .root r phys full) → bad = [] → exec (.pfill g a b off) s =
        .next ((given.foldl (fun s x => s.fillRoot x.1 x.2) s1).putTeam (popped sh t).next)) ∧
      ((∀ x ∈ xs, ∀ cls code, x.2.2 ≠ .trap cls code) → bad ≠ [] →
        exec (.pfill g a b off) s = .next (s1.trapList c 5 0x06 (ls.filter (fun x => bad.contains x.1)))) ∧
      (∀ l x cls code, xs = [(l, x, .trap cls code)] → exec (.pfill g a b off) s = .next (s1.trapList c cls code [(l, x)]))) ∧
    (∀ (g : Guard) (d : Dst) (b : Src) (off : BitVec 8) (s s1 : State) (t : Team) (sh : Shape) (c : Ctx) (a r : Word)
        (q phys : Nat) (full : Bool),
      sh = { op := 0xD6, sel := .guard g, srcs := [b], dst := some d, pass := some b, imm := true } → c = ctxOf sh t →
      a = lane (addrs16 c off) c.first → c.lanes ≠ [] → Issues s sh t → t.tx.live = false → t.status = .running → Quiet s t →
      s.cellAt t.party .read a = .ok q false → s.findRoot t.party .read false a = (s1, .root r phys full) →
      (full = true → ∃ t', exec (.pwait g d b off) s = .next (s1.putTeam t') ∧
        Pushed t t' sh d (fun _ => Mem.word s1.mem phys)) ∧
      (full = false → exec (.pwait g d b off) s = .next ((s1.addWaiters phys [.team t.id]).park t (.cell c.first a)))) ∧
    (∀ (g : Guard) (d : Dst) (b : Src) (off : BitVec 8) (s : State) (t t0 : Team) (sh : Shape) (v : Word),
      sh = { op := 0xD6, sel := .guard g, srcs := [b], dst := some d, pass := some b, imm := true } →
      s.curTeam? = some t → t.wake = some (.value v) → t0 = { t with wake := none } → t.tx.live = false →
      Issues (s.putTeam t0) sh t0 →
      ∃ t', exec (.pwait g d b off) s = .next (s.putTeam t') ∧ Pushed t0 t' sh d (fun _ => v)) ∧
    (∀ (g : Guard) (p : Fin 7) (off : BitVec 5) (b : Src) (s s1 : State) (t : Team) (sh : Shape) (c : Ctx) (a r : Word)
        (q phys : Nat) (full : Bool),
      sh = { op := 0xD7, sel := .guard g, srcs := [b], dst := some .drift, imm := true } → c = ctxOf sh t →
      a = lane (c.val 0) c.first + BitVec.ofInt 64 (extOff5 t.ctl.hint off * 16) → Issues s sh t → t.tx.live = false →
      t.status = .running → Quiet s t → s.cellAt t.party .read a = .ok q false →
      s.findRoot t.party .read false a = (s1, .root r phys full) →
      ∃ t1, Pushed t t1 sh .drift (fun _ => if full then Mem.word s1.mem phys else 0) ∧
        exec (.ptest g p off b) s =
          .next (s1.putTeam (t1.writeP p.val (sh.active t) (if full then BitVec.allOnes 1024 else 0)))) ∧
    (∀ (g : Guard) (a b : Src) (s s1 s2 : State) (t : Team) (sh : Shape) (c : Ctx) (x y gx gy : Word) (px py : Nat)
        (fx fy : Bool) (r : Option State),
      sh = { op := 0xD8, sel := .guard g, srcs := [a, b] } → c = ctxOf sh t → x = lane (c.val 0) c.first →
      y = lane (c.val 1) c.first → Issues s sh t → t.tx.live = false → t.status = .running → Quiet s t →
      (∀ z ∈ [x, y], ∃ q, s.cellAt t.party .write z = .ok q false) →
      s.findRoot t.party .write false x = (s1, .root gx px fx) →
      s1.findRoot t.party .write false y = (s2, .root gy py fy) →
      r = (if gx.toNat ≤ gy.toNat then s2.equate (px, gx, fx) (py, gy, fy) else s2.equate (py, gy, fy) (px, gx, fx)) →
      (∀ s3, r = some s3 → exec (.peq g a b) s = .next (s3.putTeam (popped sh t).next)) ∧
      (r = none → exec (.peq g a b) s = .next (s2.trapList c 5 0x06 [(c.first, x)]))) ∧
    (∀ (s : State) (lo hi : Nat × Word × Bool), lo.1 ≠ hi.1 →
      (lo.2.2 = true → hi.2.2 = true →
        s.equate lo hi = if Mem.word s.mem lo.1 = Mem.word s.mem hi.1 then some s else none) ∧
      (lo.2.2 = false → hi.2.2 = false → s.waitList? hi.1 = none →
        s.equate lo hi = some (s.cellWrite (hi.1 + 8) (leBytes 8 (linkWord lo.2.1).toNat))) ∧
      (lo.2.2 = true → hi.2.2 = false → s.waitList? hi.1 = none →
        s.equate lo hi = some (s.cellWrite (hi.1 + 8) (leBytes 8 (linkWord lo.2.1).toNat))) ∧
      (lo.2.2 = true → hi.2.2 = false →
        (∀ t ∈ s.teams, t.tx.live = false ∧ t.fetched = [] ∧ ∀ w k n, t.parkedIn ≠ some (.barrier w k, n)) →
        ∃ u, s.equate lo hi = some u ∧ u.waitList? hi.1 = none ∧
          u.mem = Mem.setBytes s.mem (hi.1 + 8) (leBytes 8 (linkWord lo.2.1).toNat) ∧
          ∀ w t l a since, s.waitList? hi.1 = some w → CWaiter.team t.id ∈ w.who → s.team? t.id = some t →
            t.status = .parked (.cell l a) since → u.team? t.id = some { t with
              status := .running, wake := some (.value (Mem.word s.mem lo.1)), lastIssue := (s.core t.coreKey).slots }) ∧
      (lo.2.2 = false → hi.2.2 = true → s.equate lo hi =
        some ((s.cellWrite (hi.1 + 8) (leBytes 8 (linkWord lo.2.1).toNat)).fillRoot lo.1 (Mem.word s.mem hi.1)))) ∧
    (∀ (g : Guard) (a : Src) (off : BitVec 8) (s : State) (t : Team) (sh : Shape) (c : Ctx) (ls : List (Nat × Word))
        (at_ : Nat → State),
      sh = { op := 0xD9, sel := .guard g, srcs := [a], imm := true } → c = ctxOf sh t → ls = cellsM c off → Issues s sh t →
      t.tx.live = false → t.status = .running → Quiet s t →
      (∀ x ∈ ls, ∃ q r, s.cellAt t.party .write x.2 = .ok q r) → at_ 0 = s →
      (∀ i x, ls[i]? = some x → ∃ b phys full,
        (at_ i).findRoot t.party .write true x.2 = (at_ (i + 1), .root b phys full)) →
      exec (.pcomp g a off) s = .next ((at_ ls.length).putTeam (popped sh t).next))
  )

/-- `launch` puts its lanes' records, in lane order, into the device launch queue when it has room for all of them, and
else parks with none in it (that none enters is the model's reading of R9 and R293, log 93); `launcht` puts those in that
fit, and its predicate says which (R293, R318). A record leaves the queue to be accepted; 1 ms without one leaving ends a
parked `launch` in "launch stalled".
`spawn` puts the lane record of its active lane into its bin: one open for the header on the cluster, or a free one; when
every bin holds another entry it parks, the lane and its header, checked, kept (that they are not checked again is the
model's reading, log 69); several lanes place theirs one after another, and none does where a header may not be spawned. A
record that fills its bin flushes it: a waiting team of the launch, its lanes those of the
records, in their order. A bin whose timer is over flushes, the earliest first. A lane's header that may not be spawned is
"bad spawn target" (R291, R292, R317). `yield` takes its slot; with a request pending the boundary after it halts the team
where it is a reconvergence point, before the deadline and in its cycle (R319, R341). -/
def Obligations.LaunchSpawnAndYield : Prop :=
  (
    (∀ (g : Guard) (a : Src) (s : State) (t : Team) (sh : Shape) (c : Ctx) (p : Partition) (phys : Nat → Nat),
      sh = { op := 0xDB, sel := .guard g, srcs := [a] } → c = ctxOf sh t → Issues s sh t → t.tx.live = false →
      Quiet s t → s.part? t.place.part = some p →
      (∀ l ∈ c.lanes, s.txHolders 0 (phys l / 64) = [] ∧
        ∃ r, s.checkWord { t.party with tenant := t.ctl.home.toNat } (lane (c.val 0) l) 64 .read = .ok (phys l) r) →
      (p.dlq.length + c.lanes.length ≤ 1024 → ∃ u, exec (.launch g a) s = .next u ∧ u.mem = s.mem ∧ u.sites = s.sites ∧
        u.teams = (s.putTeam (popped sh t).next).teams ∧ (∀ q, q ≠ p.id → u.part? q = s.part? q) ∧
        u.part? p.id = some { p with dlq := p.dlq ++ c.lanes.map (fun l =>
          { bytes := Mem.bytes s.mem (phys l) 64, tenant := t.ctl.home.toNat, sup := t.sup }) }) ∧
      (1024 < p.dlq.length + c.lanes.length → t.status = .running →
        exec (.launch g a) s = .next (s.park t (.launchQueue c.lanes.length)))) ∧
    (∀ (g : Guard) (z : Fin 7) (a : Src) (s : State) (t : Team) (sh : Shape) (c : Ctx) (p : Partition) (phys : Nat → Nat)
        (in_ : List Nat),
      sh = { op := 0xDC, sel := .guard g, srcs := [a] } → c = ctxOf sh t → Issues s sh t → t.tx.live = false →
      Quiet s t → s.part? t.place.part = some p →
      (∀ l ∈ c.lanes, s.txHolders 0 (phys l / 64) = [] ∧
        ∃ r, s.checkWord { t.party with tenant := t.ctl.home.toNat } (lane (c.val 0) l) 64 .read = .ok (phys l) r) →
      in_ = c.lanes.take (1024 - p.dlq.length) →
      ∃ u t', exec (.launcht g z a) s = .next u ∧ u.mem = s.mem ∧ u.sites = s.sites ∧ u.teams = (s.putTeam t').teams ∧
        WroteP t t' sh z.val (fun l => in_.contains l) ∧ (∀ q, q ≠ p.id → u.part? q = s.part? q) ∧
        u.part? p.id = some { p with dlq := p.dlq ++ in_.map (fun l =>
          { bytes := Mem.bytes s.mem (phys l) 64, tenant := t.ctl.home.toNat, sup := t.sup }) }) ∧
    (∀ (s : State) (p : Partition) (r : DlqRec) (rest : List DlqRec), s.part? p.id = some p → p.dlq = r :: rest →
      (p.works = true → s.live (s.partHome p) = true → exec (.deviceLaunchQueueDrain p.id) s =
        .next (s.accept p.id
          { bytes := r.bytes, tenant := r.tenant, sup := r.sup, bad := false, src := none, since := s.now }
          (fun u => match u.part? p.id with
            | some q => u.putPart { q with dlq := rest, dlqMoved := u.now }
            | none => u))) ∧
      (p.works = false ∨ s.live (s.partHome p) = false → exec (.deviceLaunchQueueDrain p.id) s = .next s)) ∧
    (∀ (s : State) (t : Team) (since n : Nat) (p : Partition), s.team? t.id = some t →
      t.status = .parked (.launchQueue n) since → s.live t.place.site = true → s.part? t.place.part = some p →
      (max since p.dlqMoved + us 1000 ≤ s.now → exec (.launchStalledExpiry t.id) s = .next (s.putTeam { t with
        status := .running, wake := some (.trap 5 0x08 0 none), lastIssue := (s.core t.coreKey).slots })) ∧
      (s.now < max since p.dlqMoved + us 1000 → exec (.launchStalledExpiry t.id) s = .next s))
  ) ∧ (
    (∀ (g : Guard) (kb : Fin 32) (s : State) (t : Team) (sh : Shape) (c : Ctx) (l phys : Nat) (r : Bool) (h : Header)
        (bytes : List Byte) (ok : Prop),
      sh = { op := 0xDA, sel := .guard g, blk := some (kb, 5) } → c = ctxOf sh t → Issues s sh t → t.tx.live = false →
      t.spawning = [] → Quiet s t → t.status = .running → c.lanes = [l] → s.txHolders 0 (phys / 64) = [] →
      s.checkWord { t.party with tenant := t.ctl.home.toNat } (c.arg 0 l) 64 .read = .ok phys r →
      bytes = Mem.bytes s.mem phys 64 → h = parseHeader (c.arg 0 l) bytes →
      ok = (headerBad (c.arg 0 l) bytes true none = none ∧ h.spawnable = true ∧ h.gang = false ∧
        (h.supervisor = true → t.sup = true) ∧
        h.fits (match s.part? t.place.part with | some p => p.reserved | none => 0) = true) →
      (ok → ∀ s1, s.placeRecord t h (s.argBlock t) [c.arg 1 l, c.arg 2 l, c.arg 3 l, c.arg 4 l] = some s1 →
        exec (.spawn g kb) s = .next (s1.putTeam t.next)) ∧
      (ok → s.placeRecord t h (s.argBlock t) [c.arg 1 l, c.arg 2 l, c.arg 3 l, c.arg 4 l] = none →
        exec (.spawn g kb) s = .next (s.park { t with spawning := [(l, h)] } (.bins h.addr))) ∧
      (¬ok → exec (.spawn g kb) s = .next (s.trapList c 5 0x07 [(l, c.arg 0 l)]))) ∧
    (∀ (g : Guard) (kb : Fin 32) (s s1 : State) (t : Team) (sh : Shape) (c : Ctx) (l : Nat) (h : Header),
      sh = { op := 0xDA, sel := .guard g, blk := some (kb, 5) } → c = ctxOf sh t → Issues s sh t → t.tx.live = false →
      t.spawning = [(l, h)] →
      s.placeRecord t h (s.argBlock t) [c.arg 1 l, c.arg 2 l, c.arg 3 l, c.arg 4 l] = some s1 →
      exec (.spawn g kb) s = .next (s1.putTeam t.next)) ∧
    (∀ (g : Guard) (kb : Fin 32) (s : State) (t : Team) (sh : Shape) (c : Ctx) (phys : Nat → Nat) (hdr : Nat → Header)
        (ok : Nat → Bool) (hs : List (Nat × Header)) (at_ : Nat → State) (lands : Nat → Prop),
      sh = { op := 0xDA, sel := .guard g, blk := some (kb, 5) } → c = ctxOf sh t → Issues s sh t → t.tx.live = false →
      t.spawning = [] → Quiet s t → t.status = .running →
      (∀ l ∈ c.lanes, s.txHolders 0 (phys l / 64) = [] ∧
        ∃ r, s.checkWord { t.party with tenant := t.ctl.home.toNat } (c.arg 0 l) 64 .read = .ok (phys l) r) →
      hdr = (fun l => parseHeader (c.arg 0 l) (Mem.bytes s.mem (phys l) 64)) →
      ok = (fun l => (headerBad (c.arg 0 l) (Mem.bytes s.mem (phys l) 64) true none).isNone && (hdr l).spawnable &&
        !(hdr l).gang && (!(hdr l).supervisor || t.sup) &&
        (hdr l).fits (match s.part? t.place.part with | some p => p.reserved | none => 0)) →
      hs = c.lanes.map (fun l => (l, hdr l)) → at_ 0 = s →
      (∀ i, lands i ↔ ∀ l h, hs[i]? = some (l, h) →
        ∃ v, (at_ i).placeRecord t h (s.argBlock t) [c.arg 1 l, c.arg 2 l, c.arg 3 l, c.arg 4 l] = some v ∧
          at_ (i + 1) = v.laneDone t.id l) →
      ((∀ l ∈ c.lanes, ok l = true) → (∀ i, lands i) → exec (.spawn g kb) s = .next ((at_ hs.length).putTeam t.next)) ∧
      (∀ k l h, (∀ l ∈ c.lanes, ok l = true) → (∀ i, i < k → lands i) → hs[k]? = some (l, h) →
        (at_ k).placeRecord t h (s.argBlock t) [c.arg 1 l, c.arg 2 l, c.arg 3 l, c.arg 4 l] = none →
        ∃ m, exec (.spawn g kb) s = .next ((at_ k).park { t with did := m, spawning := hs.drop k } (.bins h.addr)) ∧
          ∀ i, Mask.has m i = (Mask.has t.did i || ((hs.take k).map (fun x => x.1)).contains i)) ∧
      ((∃ l ∈ c.lanes, ok l = false) → exec (.spawn g kb) s = .next (s.trapList c 5 0x07
        ((c.lanes.filter (fun l => !ok l)).map (fun l => (l, c.arg 0 l)))))) ∧
    (∀ (s : State) (t : Team) (h : Header) (arg : Word) (r : List Word) (x : Site) (here : List Bin) (mine : Bin → Bool),
      x = s.site t.place.site → here = x.bins.filter (fun b => b.cluster == t.place.cluster) →
      mine = (fun b => b.cluster == t.place.cluster && b.tenant == t.ctl.home.toNat && b.part == t.place.part &&
        b.launch == t.place.launch && b.hdr.addr == h.addr && decide (b.recs.length < b.hdr.lanes)) →
      (∀ b, x.bins.find? mine = some b → b.recs.length + 1 < b.hdr.lanes →
        s.placeRecord t h arg r = some (s.putSite { x with
          bins := x.bins.map (fun d => if d.order == b.order then { b with recs := b.recs ++ [r] } else d) })) ∧
      (∀ b, x.bins.find? mine = some b → b.recs.length + 1 = b.hdr.lanes →
        s.placeRecord t h arg r = some (s.flushBin t.place.site { b with recs := b.recs ++ [r] })) ∧
      (x.bins.find? mine = none → h.lanes ≠ 1 → (∃ n, n < 16 ∧ ∀ b ∈ here, b.num ≠ n) →
        ∃ num, s.placeRecord t h arg r = some (({ s with uid := s.uid + 1 } : State).putSite { x with bins := x.bins ++
          [{ num, cluster := t.place.cluster, tenant := t.ctl.home.toNat, part := t.place.part, launch := t.place.launch,
             hdr := h, argblk := arg, opened := s.now, order := s.uid, recs := [r] }] }) ∧
          num < 16 ∧ ∀ b ∈ here, b.num ≠ num) ∧
      (x.bins.find? mine = none → h.lanes = 1 → (∃ n, n < 16 ∧ ∀ b ∈ here, b.num ≠ n) →
        ∃ num, s.placeRecord t h arg r = some (({ s with uid := s.uid + 1 } : State).flushBin t.place.site
          { num, cluster := t.place.cluster, tenant := t.ctl.home.toNat, part := t.place.part, launch := t.place.launch,
            hdr := h, argblk := arg, opened := s.now, order := s.uid, recs := [r] }) ∧
          num < 16 ∧ ∀ b ∈ here, b.num ≠ num) ∧
      (x.bins.find? mine = none → (∀ n, n < 16 → ∃ b ∈ here, b.num = n) → s.placeRecord t h arg r = none)) ∧
    (∀ (s u : State) (site : Nat) (b : Bin) (p : Partition) (e : JEntry), u = s.flushBin site b →
      s.journal? b.part b.launch = some (p, e) →
      (u.site site).bins = (s.site site).bins.filter (fun d => d.order != b.order) ∧
      ∃ t, u.teams = s.teams ++ [t] ∧ t.isWaiting = true ∧ t.hdr = b.hdr ∧ t.place.launch = b.launch ∧
        t.place.site = site ∧ t.place.cluster = b.cluster ∧ t.ctl.live = Mask.low b.recs.length ∧ t.s 0 = b.argblk ∧
        ∀ i l, i < 4 → l < b.hdr.lanes → lane (t.place.args.getD i []) l = (b.recs.getD l []).getD i 0) ∧
    (∀ (s : State) (site : Nat) (b : Bin), (s.site site).bins.find? (fun d => d.cluster * 16 + d.num == b.cluster * 16 + b.num) =
        some b → s.live site = true →
      (b.due ≤ s.now → (∀ d ∈ (s.site site).bins, b.due < d.due ∨ b.due = d.due ∧ b.order ≤ d.order) →
        exec (.binTimerExpiry site (b.cluster * 16 + b.num)) s = .next (s.flushBin site b)) ∧
      (s.now < b.due → exec (.binTimerExpiry site (b.cluster * 16 + b.num)) s = .next s)) ∧
    (∀ (g : Guard) (s : State) (t : Team), Issues s { op := 0xDD, sel := .guard g } t → t.tx.live = false →
      ((t.yieldReq = false ∨ (s.site t.place.site).tswOut = none) → movesOn s t (exec (.yield g) s)) ∧
      (∀ out dl u, t.yieldReq = true → (s.site t.place.site).tswOut = some (out, dl) → s.now < dl → u = s.putTeam t.next →
        movesOn s t (exec (.yield g) s) ∧
        (t.ctl.inHandler = false → s.live t.place.site = true → t.status = .running →
          u.leave t.id = if u.atReconvergence t.next then u.haltTeam t.id false else u)) ∧
      (∀ out dl, t.yieldReq = true → t.ctl.inHandler = false → (s.site t.place.site).tswOut = some (out, dl) → dl ≤ s.now →
        s.now < dl + Config.ticksPerCycle → (s.putTeam t.next).atReconvergence t.next = true →
        exec (.yield g) s = .next ((s.putTeam t.next).haltTeam t.id false)))
  )

/-! ### Row 0xE: remote operations and reductions -/

/-- `rput`, `rget`, `ratom` and `rred` whose checks at issue pass, with entries left: each active lane takes an entry in
lane order with what it asks, and the team moves on; no byte of memory changes. With no entry left the team stalls (R270,
R272 to R275). That its stall is timed from its first attempt, and that it keeps the destinations its checks resolved there,
is the model's reading: logs 50 and 77.
`xput` gathers its lanes' words, in lane order, into packets of one destination site, of 32 words each and the rest in
the last; each packet takes an entry. `rname` pushes for every lane what the name table answers; `V` is set exactly for a
name that is mapped, and then `LOCAL`, `PLANE` and `HOPS` say where it leads; `PORTLESS` is the own site's, and the other bits
are 0 (R277, R320). -/
def Obligations.RemoteOperationsIssue : Prop :=
  (
    ∀ (g : Guard) (kb : Fin 32) (n w32 o : Bool) (ra : RatomOp) (ao : AtomOp) (code : Nat) (s : State) (t : Team) (x : RemForm)
      (ls : List Nat),
      code = (match ra with
        | .op .add => 0 | .op .and => 1 | .op .or => 2 | .op .xor => 3 | .op .min => 4 | .op .max => 5
        | .op .minn => 6 | .op .maxn => 7 | .op .fadd => 8 | .swp => 9 | .cas => 10) →
      x ∈ remForms t g kb n w32 o ra ao code → Issues s x.sh t → t.tx.live = false → t.did = 0 → t.unsent = [] →
      (∀ p ∈ t.pend, t.xseq ≤ p.seq) → s.mxReads t (fun e => decide (e.seq < t.xseq)) = false →
      ls = (ctxOf x.sh t).lanes → s.remChecks (ctxOf x.sh t) (ls.map x.req) = none →
      (s.remCore t.coreKey + ls.length ≤ 512 → s.remSite (coreSite t.coreKey) + ls.length ≤ 16384 →
        ∃ u new, exec x.i s = .next u ∧ u.mem = s.mem ∧ u.teams = (s.putTeam { t.next with seq := t.seq + 1 }).teams ∧
          u.ops = s.ops ++ new ∧
          new.map RemOp.asked = ls.map (fun l => let r := x.req l
            (x.sh.op, x.fn, r.lane, r.dest, r.local_, r.len, r.opnd, r.expect, r.ctr)) ∧
          ∀ p ∈ new, p.team = t.id ∧ p.site = t.place.site ∧ p.tenant = t.ctl.acting.toNat ∧ p.phase = .issued ∧
            p.ordered = x.ordered ∧ ∃ inc, s.lookupName t.place.site t.ctl.acting.toNat (gDev p.dest) (gSite p.dest) =
              some (p.dsite, inc) ∧ p.inc = inc) ∧
      (512 ≤ s.remCore t.coreKey → ls ≠ [] → t.status = .running → exec x.i s = .next (s.putTeam { t with
        status := .parked .remoteEntries (t.stalled.getD s.now), stalled := some (t.stalled.getD s.now),
        unsent := ls.filterMap (fun l => (s.lookupName t.place.site t.ctl.acting.toNat (gDev (x.req l).dest)
          (gSite (x.req l).dest)).map (fun n => { lane := (x.req l).lane, site := n.1, inc := n.2, ctrs := [] })) }))
  ) ∧ (
    (∀ (g : Guard) (kb : Fin 32) (n : Bool) (s : State) (t : Team) (sh : Shape) (c : Ctx) (req : Nat → RemReq) (a : Word),
      sh = { op := 0xE4, sel := .guard g, blk := some (kb, 3 + n.toNat), mod := .plane } → c = ctxOf sh t →
      Issues s sh t → t.tx.live = false → t.did = 0 → t.unsent = [] → c.lanes.length ≤ 32 → c.lanes ≠ [] →
      (∀ p ∈ t.pend, t.xseq ≤ p.seq) → s.mxReads t (fun e => decide (e.seq < t.xseq)) = false →
      req = (fun l =>
        let d := peerAddr (c.arg 0 l) (c.arg 1 l)
        withCtr n (peerAddr (c.arg 0 l) (c.arg 3 l)) d
          { lane := l, dest := d, opnd := c.arg 2 l, len := 8, aligns := [(d, 8)],
            noName := (c.arg 0 l).extractLsb' 21 43 != 0 }) →
      (∀ l ∈ c.lanes, sameSite (req l).dest a = true) → s.remChecks c (c.lanes.map req) = none →
      s.remRoom t.coreKey = true →
      ∃ u p, exec (.xput g kb n) s = .next u ∧ u.mem = s.mem ∧ u.teams = (s.putTeam { t.next with seq := t.seq + 1 }).teams ∧
        u.ops = s.ops ++ [p] ∧ p.op = 0xE4 ∧ p.team = t.id ∧ p.phase = .issued ∧
        p.words = c.lanes.map (fun l => (l, (req l).dest, c.arg 2 l, (req l).ctr.getD 0))) ∧
    (∀ (g : Guard) (kb : Fin 32) (n : Bool) (s : State) (t : Team) (sh : Shape) (c : Ctx) (req : Nat → RemReq)
        (ps : List (RemReq × List (Nat × Word × Word × Word))),
      sh = { op := 0xE4, sel := .guard g, blk := some (kb, 3 + n.toNat), mod := .plane } → c = ctxOf sh t →
      Issues s sh t → t.tx.live = false → t.did = 0 → t.unsent = [] →
      (∀ p ∈ t.pend, t.xseq ≤ p.seq) → s.mxReads t (fun e => decide (e.seq < t.xseq)) = false →
      req = (fun l =>
        let d := peerAddr (c.arg 0 l) (c.arg 1 l)
        withCtr n (peerAddr (c.arg 0 l) (c.arg 3 l)) d
          { lane := l, dest := d, opnd := c.arg 2 l, len := 8, aligns := [(d, 8)],
            noName := (c.arg 0 l).extractLsb' 21 43 != 0 }) →
      ps = packetsOf (fun r => (r.lane, r.dest, r.opnd, r.ctr.getD 0)) (c.lanes.map req) [] →
      s.remChecks c (c.lanes.map req) = none →
      s.remCore t.coreKey + ps.length ≤ 512 → s.remSite (coreSite t.coreKey) + ps.length ≤ 16384 →
      ∃ u new, exec (.xput g kb n) s = .next u ∧ u.mem = s.mem ∧ u.teams = (s.putTeam { t.next with seq := t.seq + 1 }).teams ∧
        u.ops = s.ops ++ new ∧ new.map (fun p => (p.dest, p.words)) = ps.map (fun x => (x.1.dest, x.2)) ∧
        ∀ p ∈ new, p.op = 0xE4 ∧ p.team = t.id ∧ p.seq = t.seq ∧ p.phase = .issued ∧
          s.lookupName t.place.site t.ctl.acting.toNat (gDev p.dest) (gSite p.dest) = some (p.dsite, p.inc)) ∧
    (∀ (w : RemReq → Nat × Word × Word × Word) (rs : List RemReq) (ps : List (RemReq × List (Nat × Word × Word × Word))) (a : Word),
      ps = packetsOf w rs [] →
      (∀ x ∈ ps, x.2.length ≤ 32 ∧ x.2.head? = some (w x.1)) ∧
      (ps.filter (fun x => sameSite x.1.dest a)).flatMap (fun x => x.2) = (rs.filter (fun r => sameSite r.dest a)).map w ∧
      (ps.filter (fun x => sameSite x.1.dest a)).length = ((rs.filter (fun r => sameSite r.dest a)).length + 31) / 32) ∧
    (∀ (g : Guard) (d : Dst) (a : Src) (s : State) (t : Team) (sh : Shape),
      sh = { op := 0xE9, sel := .guard g, srcs := [a], dst := some d, pass := some a } → Issues s sh t → t.tx.live = false →
      ∃ u t', exec (.rname g d a) s = .next u ∧ u.mem = s.mem ∧ u.teams = (s.putTeam t').teams ∧
        Pushed t t' sh d (fun l => s.nameWord t (lane ((valsOf sh t).getD 0 []) l)) ∧
        ∀ l, ((s.nameWord t (lane ((valsOf sh t).getD 0 []) l)).getLsbD 63 = true ↔
          (s.lookupName t.place.site t.ctl.acting.toNat (gDev (lane ((valsOf sh t).getD 0 []) l))
            (gSite (lane ((valsOf sh t).getD 0 []) l))).isSome = true)) ∧
    (∀ (s : State) (t : Team) (a x : Word), x = s.nameWord t a →
      x.getLsbD 61 = ((s.site t.place.site).ports == 0) ∧ x.extractLsb' 18 43 = 0 ∧ x.extractLsb' 0 8 = 0 ∧
      (s.lookupName t.place.site t.ctl.acting.toNat (gDev a) (gSite a) = none →
        x.getLsbD 63 = false ∧ x.getLsbD 62 = false ∧ x.extractLsb' 8 10 = 0) ∧
      (∀ dst inc, s.lookupName t.place.site t.ctl.acting.toNat (gDev a) (gSite a) = some (dst, inc) →
        x.getLsbD 63 = true ∧ x.getLsbD 62 = (dst / 64 == t.place.site / 64) ∧
        (x.extractLsb' 16 2).toNat = s.planeFor t.place.site dst 0 (gSite a) ∧
        (x.extractLsb' 8 8).toNat = if dst / 64 = t.place.site / 64
          then s.hops t.place.part t.place.lsite (s.site dst).lsite % 256 else 0))
  )

/-- A packet that leaves takes its source bytes with it. At its destination an `rput` writes them, an `rget` reads the
bytes there, an `ratom` changes the word and takes its old value, an `rred` combines its element into the one there, an
`xput` writes its words one at a time, in an order that only keeps those of one place in lane order; nothing else in memory
changes. A destination that may not be written answers with an error, which back home is "remote failed" with
cause 0, and nothing is written. A packet of a foreign domain, or of an incarnation that is over, is dropped and counted (in
this order, which is log 40, the model's), and delivery sends it again. The reply of an `rget` is written at home, and the
operation is over; one not delivered within 500 µs ends in "remote failed". Between devices a packet arrives when they are
matched to the port that it leaves by, and so does a packet of the own device on the external plane; with no matching near it
may go to the relay buffer, with room, of a device matched now, once, and leaves it when
that device is matched to its own; so may a reply, which relays once again (log 95, the model's) (R266, R268 to R275).
A delivery context unused for 20 µs goes. A rotor slot, 3 µs after the one before it, moves TIME by at most 3 ns where
the bounds between sites allow it, and never backward: that TIME stands still for a negative one is log 41, the model's. A
lost optical port is out until it is restored; the other ports stay (R265, R267, R268, R335). -/
def Obligations.RemotePacketsAndFabric : Prop :=
  (
    (∀ (s : State) (o : RemOp) (phys : Nat), s.op? o.id = some o → o.phase = .issued → s.live o.site = true →
      (o.op = 0xE0 ∨ o.op = 0xE3 → s.xlateRun o.party .read 3 o.local_ o.len = .ok [(phys, o.len, [])]) →
      (∀ t ∈ s.teams, t.tx.live = false) →
      ∃ u, exec (.remotePacketApply o.id .send) s = .next u ∧ u.mem = s.mem ∧ u.teams = s.teams ∧
        u.op? o.id = some { o with
          phase := .sent, data := if o.op = 0xE0 ∨ o.op = 0xE3 then Mem.bytes s.mem phys o.len else [], sent := s.now,
          way := s.wayFor o.site o.dsite o.plane o.id }) ∧
    (∀ (s : State) (o : RemOp) (phys : Nat), s.op? o.id = some o → o.phase = .sent → s.live o.dsite = true →
      o.relay = none → s.mayCross o.way o.site o.dsite none o.relayed = true → (∀ p ∈ s.ops, p.carried = []) →
      s.domainOf o.dsite = some o.key → (s.site o.dsite).inc = o.inc → s.orderWaits o = false → o.ctr = none → s.memOk →
      (∀ site, NoListeners s site) →
      (o.op = 0xE0 → o.data.length = o.len →
        s.runsAt o.away .write [(o.dest, o.len)] = .ok [[(phys, o.len, [])]] →
        ∃ u ps, exec (.remotePacketApply o.id .apply) s = .next u ∧ u.teams = s.teams ∧
          u.sites = (s.putSite { s.site o.site with pdcs := ps }).sites ∧
          u.op? o.id = some { o with phase := .applied, relayed := false, way := s.wayFor o.dsite o.site 0 o.id } ∧
          ∀ a, Mem.get u.mem a = if phys ≤ a ∧ a < phys + o.len then o.data.getD (a - phys) 0 else Mem.get s.mem a) ∧
      (o.op = 0xE1 → s.runsAt o.away .read [(o.dest, o.len)] = .ok [[(phys, o.len, [])]] →
        exec (.remotePacketApply o.id .apply) s =
          .next ((s.putOp { o with
            phase := .applied, relayed := false, way := s.wayFor o.dsite o.site 0 o.id, data := Mem.bytes s.mem phys o.len }).usePdc o)) ∧
      (∀ r, o.op = 0xE2 → o.fn / 16 = 0 → r = atomOfCode (o.fn % 16) →
        s.runsAt o.away .write [(o.dest, 8)] = .ok [[(phys, 8, [])]] →
        ∃ u ps, exec (.remotePacketApply o.id .apply) s = .next u ∧ u.teams = s.teams ∧
          u.sites = (s.putSite { s.site o.site with pdcs := ps }).sites ∧
          u.op? o.id = some { o with
            phase := .applied, relayed := false, way := s.wayFor o.dsite o.site 0 o.id, data := leBytes 8 (Mem.word s.mem phys).toNat } ∧
          Mem.word u.mem phys = atomNew r false (Mem.word s.mem phys) o.opnd o.expect ∧
          KeepsOutside s.mem u.mem phys (phys + 8)) ∧
      (∀ r, o.op = 0xE2 → o.fn / 16 = 1 → r = atomOfCode (o.fn % 16) → phys % 4 = 0 →
        s.runsAt o.away .write [(o.dest, 4)] = .ok [[(phys, 4, [])]] →
        ∃ u ps, exec (.remotePacketApply o.id .apply) s = .next u ∧ u.teams = s.teams ∧
          u.sites = (s.putSite { s.site o.site with pdcs := ps }).sites ∧
          u.op? o.id = some { o with
            phase := .applied, relayed := false, way := s.wayFor o.dsite o.site 0 o.id, data := leBytes 8 (Mem.read s.mem phys 4) } ∧
          Mem.read u.mem phys 4 =
            (atomNew r true (BitVec.ofNat 64 (Mem.read s.mem phys 4)) o.opnd o.expect).toNat % 2 ^ 32 ∧
          KeepsOutside s.mem u.mem phys (phys + 4)) ∧
      (∀ l v z, o.op = 0xE4 → o.fn % 2 = 0 → o.words = [(l, o.dest, v, z)] →
        s.runsAt o.away .write [(o.dest, 8)] = .ok [[(phys, 8, [])]] → phys % 8 = 0 →
        ∃ u ps, exec (.remotePacketApply o.id .apply) s = .next u ∧ u.teams = s.teams ∧
          u.sites = (s.putSite { s.site o.site with pdcs := ps }).sites ∧
          u.op? o.id = some { o with
            phase := .applied, relayed := false, way := s.wayFor o.dsite o.site 0 o.id, places := [], counts := [] } ∧
          Mem.word u.mem phys = v ∧ KeepsOutside s.mem u.mem phys (phys + 8)) ∧
      (∀ (at_ : List Nat) (ws : List (Nat × List Nat × Word)), o.op = 0xE4 → o.fn % 2 = 0 → at_.length = o.words.length →
        o.words ≠ [] → s.runsAt o.away .write (o.words.map (fun w => (w.2.1, 8))) = .ok (at_.map (fun a => [(a, 8, [])])) →
        (∀ a ∈ at_, a % 8 = 0) → ws = (at_.zip o.words).map (fun x => (x.1, [], x.2.2.2.1)) →
        ∃ u ps pre x post, exec (.remotePacketApply o.id .apply) s = .next u ∧ u.teams = s.teams ∧
          u.sites = (s.putSite { s.site o.site with pdcs := ps }).sites ∧ ws = pre ++ x :: post ∧ (∀ y ∈ pre, y.1 ≠ x.1) ∧
          u.op? o.id = some { o with
            phase := if pre ++ post = [] then .applied else .landing, relayed := false, way := s.wayFor o.dsite o.site 0 o.id,
            places := pre ++ post, counts := [] } ∧
          Mem.word u.mem x.1 = x.2.2 ∧ KeepsOutside s.mem u.mem x.1 (x.1 + 8)) ∧
      (∀ r, o.op = 0xE3 → o.fn / 16 % 2 = 0 → o.len = 8 → o.data.length = 8 → r = atomOfCode (o.fn % 16) →
        s.runsAt o.away .write [(o.dest, 8)] = .ok [[(phys, 8, [])]] →
        ∃ u ps, exec (.remotePacketApply o.id .apply) s = .next u ∧ u.teams = s.teams ∧
          u.sites = (s.putSite { s.site o.site with pdcs := ps }).sites ∧
          u.op? o.id = some { o with phase := .applied, relayed := false, way := s.wayFor o.dsite o.site 0 o.id } ∧
          Mem.word u.mem phys = atomNew r false (Mem.word s.mem phys) (BitVec.ofNat 64 (leNat o.data)) 0 ∧
          KeepsOutside s.mem u.mem phys (phys + 8)) ∧
      (∀ r w n, o.op = 0xE3 → w = (if o.fn / 16 % 2 = 1 then 4 else 8) → o.len = n * w → o.data.length = o.len →
        r = atomOfCode (o.fn % 16) → phys % w = 0 →
        s.runsAt o.away .write [(o.dest, o.len)] = .ok [[(phys, o.len, [])]] →
        ∃ u ps, exec (.remotePacketApply o.id .apply) s = .next u ∧ u.teams = s.teams ∧
          u.sites = (s.putSite { s.site o.site with pdcs := ps }).sites ∧
          u.op? o.id = some { o with phase := .applied, relayed := false, way := s.wayFor o.dsite o.site 0 o.id } ∧
          (∀ i, i < n → Mem.read u.mem (phys + i * w) w =
            (atomNew r (w == 4) (BitVec.ofNat 64 (Mem.read s.mem (phys + i * w) w))
              (BitVec.ofNat 64 (leNat ((o.data.drop (i * w)).take w))) 0).toNat % 2 ^ (8 * w)) ∧
          KeepsOutside s.mem u.mem phys (phys + o.len)) ∧
      (∀ a, o.op = 0xE0 → s.runsAt o.away .write [(o.dest, o.len)] = .error (.bad a) →
        exec (.remotePacketApply o.id .apply) s = .next ((s.usePdc o).putOp { o with
          phase := .failed, cause := 0, relayed := false, way := s.wayFor o.dsite o.site 0 o.id }))) ∧
    (∀ (s : State) (o : RemOp) (t : Team), s.op? o.id = some o → o.phase = .failed → s.live o.site = true →
      s.live o.dsite = true → (s.site o.dsite).inc = o.inc → s.mayCross o.way o.dsite o.site none o.relayed = true →
      o.relay = none → o.carried = [] → s.team? o.team = some t → o.cause ≠ 2 →
      exec (.remoteCompletion o.id) s = .next (((s.usePdc o).dropOp o.id).putTeam { t with deferred := t.deferred ++
        [{ w := .remote, cls := 6, code := 0x0B, op := o.op, lane := o.lane, addr := o.dest, pidx := 0, aux := o.cause }] })) ∧
    (∀ (s : State) (o : RemOp), s.op? o.id = some o → o.phase = .landing → s.live o.dsite = true →
      (s.site o.dsite).inc = o.inc → o.op = 0xE4 → o.counts = [] → (∀ p ∈ s.ops, p.carried = []) → s.memOk →
      (∀ site, NoListeners s site) → o.places ≠ [] → (∀ x ∈ o.places, x.1 % 8 = 0 ∧ x.2.1 = []) →
      ∃ u pre x post, exec (.remotePacketApply o.id .apply) s = .next u ∧ u.teams = s.teams ∧ u.sites = s.sites ∧
        o.places = pre ++ x :: post ∧ (∀ y ∈ pre, y.1 ≠ x.1) ∧
        u.op? o.id = some { o with phase := if pre ++ post = [] then .applied else .landing, places := pre ++ post } ∧
        Mem.word u.mem x.1 = x.2.2 ∧ KeepsOutside s.mem u.mem x.1 (x.1 + 8)) ∧
    (∀ (s : State) (o : RemOp) (x : Site), s.op? o.id = some o → o.phase = .sent → s.live o.dsite = true →
      o.relay = none → s.mayCross o.way o.site o.dsite none o.relayed = true → x = s.site o.dsite →
      (s.domainOf o.dsite ≠ some o.key → exec (.remotePacketApply o.id .apply) s =
        .next ((s.putSite { x with keyDrop := x.keyDrop + 1 }).putOp { o with phase := .dropped, relayed := false })) ∧
      (s.domainOf o.dsite = some o.key → x.inc ≠ o.inc → exec (.remotePacketApply o.id .apply) s =
        .next ((s.putSite { x with incDrop := x.incDrop + 1 }).putOp { o with phase := .dropped, relayed := false }))) ∧
    (∀ (s : State) (o : RemOp), s.op? o.id = some o → o.relay = none →
      o.phase = .dropped ∨ (o.phase = .sent ∧ o.relayed = false) →
      exec (.deliveryRetransmit (.op o.id)) s = .next (if s.live o.site = true
        then (s.usePdc o).putOp { o with phase := .sent, relayed := false, way := s.wayFor o.site o.dsite o.plane o.id }
        else s)) ∧
    (∀ (s : State) (o : RemOp) (via : Nat) (x : Site), s.op? o.id = some o → x = s.site via →
      (o.phase = .sent → o.relay = none → o.relayed = false →
        exec (.remotePacketApply o.id (.relay via)) s = .next (if s.mayRelay o.way o.dsite o.size via then
          (s.putSite { x with relay := x.relay + o.size }).putOp { o with relay := some via, relayed := true } else s)) ∧
      (o.phase = .applied → o.relay = none → o.relayed = false →
        exec (.remotePacketApply o.id (.relay via)) s = .next (if s.mayRelay o.way o.site o.size via then
          (s.putSite { x with relay := x.relay + o.size }).putOp { o with relay := some via, relayed := true } else s)) ∧
      (o.phase = .sent → o.relayed = true ∨ 2 ^ 27 < x.relay + o.size ∨ o.way.plane ≠ 2 ∨ via / 64 = o.dsite / 64 ∨
          s.matchSoon o.way.exit o.dsite = true ∨ s.matchedNow o.way.exit via = false →
        exec (.remotePacketApply o.id (.relay via)) s = .next s) ∧
      (o.phase = .sent → o.site / 64 ≠ o.dsite / 64 ∨ o.way.plane = 2 → o.relay = none → o.relayed = false →
        exec (.remotePacketApply o.id .apply) s = .next (if s.matchedNow o.way.exit o.dsite then s.arriveOp o else s)) ∧
      (o.phase = .sent → o.site / 64 = o.dsite / 64 → o.way.plane ≠ 2 → o.relay = none →
        exec (.remotePacketApply o.id .apply) s = .next (s.arriveOp o)) ∧
      (o.relay = some via → o.phase = .sent → exec (.remotePacketApply o.id .apply) s = .next s) ∧
      (o.relay = some via → o.phase = .sent → exec (.remotePacketApply o.id .forward) s =
        .next (if s.live via = true ∧ s.matchedNow via o.dsite = true then
          (s.putSite { x with relay := x.relay - o.size }).putOp { o with relay := none, relayed := true } else s))) ∧
    (∀ (s : State) (o : RemOp) (phys : Nat), s.op? o.id = some o → o.phase = .applied → s.live o.site = true →
      s.live o.dsite = true → (s.site o.dsite).inc = o.inc → s.mayCross o.way o.dsite o.site o.relay o.relayed = true →
      o.ctr = none → o.carried = [] → s.memOk → (∀ site, NoListeners s site) →
      (∀ n, (o.op = 0xE1 ∧ n = o.len) ∨ (o.op = 0xE2 ∧ o.local_ ≠ 0 ∧ n = 8) → o.data.length = n →
        s.xlateRun o.party .write 3 o.local_ n = .ok [(phys, n, [])] →
        ∃ u ps, exec (.remoteCompletion o.id) s = .next u ∧ u.teams = s.teams ∧
          u.sites = (s.putSite { s.site o.site with pdcs := ps }).sites ∧
          u.ops = s.ops.filter (fun p => p.id != o.id) ∧
          ∀ a, Mem.get u.mem a = if phys ≤ a ∧ a < phys + n then o.data.getD (a - phys) 0 else Mem.get s.mem a) ∧
      (o.op = 0xE0 → exec (.remoteCompletion o.id) s = .next ((s.usePdc o).dropOp o.id))) ∧
    (∀ (s : State) (o : RemOp) (t : Team), s.op? o.id = some o → o.phase = .sent ∨ o.phase = .dropped → s.live o.site = true →
      o.relay = none → o.carried = [] → o.sent + us 500 ≤ s.now → s.team? o.team = some t →
      exec (.deliveryTimeout (.op o.id)) s = .next ((s.dropOp o.id).putTeam { t with deferred := t.deferred ++
        [{ w := .remote, cls := 6, code := 0x0B, op := o.op, lane := o.lane, addr := o.dest, pidx := 0, aux := 2 }] })) ∧
    (∀ (s : State) (t : Team) (l : Nat) (a b : Word) (since : Nat), s.team? t.id = some t →
      t.status = .parked (.delivery l a b) since → s.live t.place.site = true → since + us 500 ≤ s.now →
      exec (.deliveryTimeout (.team t.id)) s = .next (s.putTeam { t with
        status := .running, wake := some (.trap 6 0x0B 2 (some (l, a))), lastIssue := (s.core t.coreKey).slots }))
  ) ∧ (
    (∀ (s : State) (site : Nat) (p : Pdc) (x : Site), x = s.site site → x.pdcs.find? (fun q => q.num == p.num) = some p →
      s.ops = [] → s.xpkts = [] → s.live site = true →
      (p.last + us 20 ≤ s.now → exec (.pdcTeardown site p.num) s =
        .next (s.putSite { x with pdcs := x.pdcs.filter (fun q => q.num != p.num) })) ∧
      (s.now < p.last + us 20 → exec (.pdcTeardown site p.num) s = .next s)) ∧
    (∀ (s : State) (site : Nat) (n : Int) (x : Site), x = s.site site → s.live site = true → s.sites = [x] →
      (0 ≤ n → n ≤ 3 → x.rotorAt + us 3 ≤ s.now → exec (.rotorSlot site n) s =
        .next (s.putSite { x with rotor := x.rotor + 1, rotorAt := s.now, timeOfs := x.timeOfs + n })) ∧
      (3 < n ∨ n < -3 ∨ s.now < x.rotorAt + us 3 → exec (.rotorSlot site n) s = .next s) ∧
      (-3 ≤ n → n < 0 → x.rotorAt + us 3 ≤ s.now → ∃ u, exec (.rotorSlot site n) s = .next u ∧ u.time site = s.time site ∧
        (u.site site).rotor = x.rotor + 1)) ∧
    (∀ (s : State) (site port : Nat) (x : Site), x = s.site site → port < 4 →
      ∃ u v, exec (.portLost site port) s = .next u ∧ exec (.portRestored site port) s = .next v ∧
        u = s.putSite { x with ports := (u.site site).ports } ∧ v = s.putSite { x with ports := (v.site site).ports } ∧
        ∀ i, i < 4 → (u.site site).ports.getLsbD i = (decide (i ≠ port) && x.ports.getLsbD i) ∧
          (v.site site).ports.getLsbD i = (decide (i = port) || x.ports.getLsbD i))
  )

/-- A spec word as R324 gives it is legal exactly when its count is 1 to 65,536, its operation add, min or max, its format
one of the six, min and max only of binary32 and integers, and blocks whole. Combining adds 64-bit integer elements, or takes
the lesser or greater, element by element, and joins what is included; an absent input passes the other through (R324, R325).
`xopen` with a legal spec, legal areas and a good group joins the site's instance of its job, or obtains one, and pushes
its handle; with no slot it stalls, and come back after its 1 ms discards what was held for the job and traps. `xred` sends
its buffer to its leaf's node and has contributed; a leaf that cannot be
named traps, and a second time it is "already contributed". `xclose` ends the team's part when the correction cells of its
instance on the site are filled and parks until then; a word that is no open handle is "bad handle" (R177, R326 to R329).
That the stall keeps the time of its first attempt is log 50, the model's.
That `xclose` waits for every correction cell of the instance on its site is log 47, and the lane and address that the trap
of a leaf without a name marks log 127, both the model's. -/
def Obligations.Reductions : Prop :=
  (
    (∀ (n op f : Nat), n < 2 ^ 20 → op < 4 → f < 16 →
      (specOk (BitVec.ofNat 64 (n * 2 ^ 32 + op * 16 + f)) = true ↔ 1 ≤ n ∧ n ≤ 65536 ∧ op < 3 ∧ f < 6 ∧
        (op = 0 ∨ f = 0 ∨ f = 2 ∨ f = 3) ∧ (f < 4 ∨ n % 32 = 0))) ∧
    (∀ (w : Word) (as bs : List Word) (op f : Nat) (i j : List Nat) (one : Word → Word → Word),
      w = BitVec.ofNat 64 (as.length * 2 ^ 32 + op * 16 + f) → as.length < 2 ^ 20 → bs.length = as.length →
      op < 3 → f = 2 ∨ f = 3 →
      one = (fun a b => if op = 0 then a + b
        else if f = 2 then BitVec.ofInt 64 (if op = 1 then min a.toInt b.toInt else max a.toInt b.toInt)
        else BitVec.ofNat 64 (if op = 1 then min a.toNat b.toNat else max a.toNat b.toNat)) →
      combine w { bytes := as.flatMap (fun a => leBytes 8 a.toNat), incl := i, rescaled := false, scalesat := false }
          { bytes := bs.flatMap (fun b => leBytes 8 b.toNat), incl := j, rescaled := false, scalesat := false } =
        { bytes := (as.zip bs).flatMap (fun p => leBytes 8 (one p.1 p.2).toNat),
          incl := i ++ j, rescaled := false, scalesat := false }) ∧
    (∀ (w : Word) (x : XVal), combineOpt w (some x) none = some x ∧ combineOpt w none (some x) = some x)
  ) ∧ (
    (∀ (g : Guard) (kb : Fin 32) (s : State) (t : Team) (sh : Shape) (c : Ctx) (head rest : List Byte) (n i al : Nat)
        (as tail : List Area) (cs : List Word) (m : XMember) (y : XInst) (x : XInst),
      sh = { op := 0xE5, sel := .guard g, blk := some (kb, 10), dst := some .drift } → c = ctxOf sh t → Issues s sh t →
      t.tx.live = false → Quiet s t → c.diverges [1, 2, 3, 4] = none → specOk (c.arg1 1) = true → spanOk (c.arg1 3) = true →
      al = xSize (specFmt (c.arg1 1)) →
      as = s.areas t.party [(c.arg1 0, 64, 64), (c.arg1 5, al, xBytes (c.arg1 1)), (c.arg1 6, al, xBytes (c.arg1 1)),
        (c.arg1 7, 64, 1152), (c.arg1 8, 16, 16), (c.arg1 9, 16, 16)] →
      areaTrap as = none → areaBroken as = none → as.findSome? (fun a => a.fault) = none →
      s.engineBytes c (c.arg1 0) 64 = (s, head) → n = leNat (head.take 2) → 1 ≤ n → n ≤ 4096 →
      tail = s.areas t.party [(c.arg1 0 + 64, 8, 8 * n)] →
      areaTrap tail = none → areaBroken tail = none → tail.findSome? (fun a => a.fault) = none →
      s.engineBytes c (c.arg1 0 + 64) (8 * n) = (s, rest) → head.length = 64 → (∀ k, 4 ≤ k → k < 64 → head.getD k 0 = 0) →
      cs = (List.range n).map (fun k => BitVec.ofNat 64 (leNat ((rest.drop (8 * k)).take 8))) →
      (∀ a ∈ cs, gOfs a = 0) → i = (c.arg1 4).toNat → i < n → gDev (cs.getD i 0) = t.place.ldev →
      gSite (cs.getD i 0) = t.place.lsite →
      m = { team := t.id, index := i, user := !t.sup, result := c.arg1 5, corr := c.arg1 6, area := c.arg1 7,
            compCell := c.arg1 8, corrCell := c.arg1 9, closed := false, filled := false, todo := [], stuck := false } →
      x = { id := 0, num := 0, isSlot := true, tenant := t.ctl.acting.toNat, job := leNat ((head.drop 2).take 2), n,
            spec := c.arg1 1, t := c.arg1 2, d := (c.arg1 3).toNat, crc := Config.crc32 (head ++ rest), contributors := cs,
            nodes := [], members := [], fwdTime := 0, result := none, corr := none, final := none } →
      (s.instOf t.place.site x.tenant x.job = some y → y.spec = x.spec → y.t = x.t → y.d = x.d → y.contributors = cs →
        (∀ k ∈ y.members, k.index ≠ i) →
        ∃ t1, Pushed t t1 sh .drift (fun _ => handleWord y.job y.num i) ∧ exec (.xopen g kb) s =
          .next ((s.putInst t.place.site { y with members := y.members ++ [{ m with todo := y.kept m }] }).putTeam { t1 with
            handles := t.handles ++ [{ site := t.place.site, inst := y.id, job := y.job, index := i, contributed := false,
                                       failed := false }] })) ∧
      (∀ s1, s.instOf t.place.site x.tenant x.job = none → s.obtain t.place.site x = some (s1, y) →
        (s.site t.place.site).held = [] → s1.inst? t.place.site y.id = some y →
        ∃ t1, Pushed t t1 sh .drift (fun _ => handleWord y.job y.num i) ∧ exec (.xopen g kb) s =
          .next ((s1.putInst t.place.site { y with members := y.members ++ [{ m with todo := y.kept m }] }).putTeam { t1 with
            handles := t.handles ++ [{ site := t.place.site, inst := y.id, job := y.job, index := i, contributed := false,
                                       failed := false }] })) ∧
      (s.instOf t.place.site x.tenant x.job = none → s.obtain t.place.site x = none → t.status = .running →
        exec (.xopen g kb) s = .next (s.putTeam { t with
          status := .parked (.reductionSlot x.tenant x.job) (t.stalled.getD s.now),
          stalled := some (t.stalled.getD s.now) })) ∧
      (∀ s1 t1, s.instOf t.place.site x.tenant x.job = none → s.obtain t.place.site x = none →
        t1 = { t with wake := some .expired } → s1.curTeam? = some t1 → s = s1.putTeam t →
        exec (.xopen g kb) s1 = .next ((s1.dropHeld t.place.site (fun p => p.tenant == x.tenant && p.job == x.job)).trapAt t1
          0xE5 6 0x0F (sh.active t)))) ∧
    (∀ (g : Guard) (kb : Fin 32) (s : State) (t : Team) (sh : Shape) (c : Ctx) (h : Handle) (x : XInst) (a : Word) (phys n : Nat),
      sh = { op := 0xE6, sel := .guard g, blk := some (kb, 2), mod := .plane } → c = ctxOf sh t → Issues s sh t →
      t.tx.live = false → Quiet s t → c.diverges [0] = none → a = c.arg1 1 → (∀ u ∈ s.teams, u.tx.live = false) →
      (s.handleOf t (c.arg1 0) = none → Traps (.xred g kb) s t 0xE6 6 0x10 (sh.active t)) ∧
      (s.handleOf t (c.arg1 0) = some h → h.failed = false → s.inst? h.site h.inst = some x → n = xBytes x.spec →
        a.toNat % xSize (specFmt x.spec) = 0 → s.checkRange t.party a n false = .ok →
        (s.leafUnnamed h.site t.ctl.acting.toNat x h.index = true → exec (.xred g kb) s =
          .next (s.trapList c 4 0x04 [(c.first, x.contributors.getD (h.index / 2 * 2) 0)])) ∧
        (s.leafUnnamed h.site t.ctl.acting.toNat x h.index = false → h.contributed = true →
          Traps (.xred g kb) s t 0xE6 6 0x11 (sh.active t)) ∧
        (s.leafUnnamed h.site t.ctl.acting.toNat x h.index = false → h.contributed = false →
          s.xlateRun t.party .read (n / 65536 + 2) a n = .ok [(phys, n, [])] →
          exec (.xred g kb) s = .next ((s.xsend h.site t.ctl.acting.toNat x (h.index / 2 * 2)
            (.up 1 (h.index / 2) (h.index % 2 == 1) true
            { bytes := Mem.bytes s.mem phys n, incl := [h.index], rescaled := false, scalesat := false })
            (planeOf t.ctl.hint)).putTeam
              { t.next with handles := t.handles.map (fun k => if k == h then { k with contributed := true } else k) })))) ∧
    (∀ (g : Guard) (a : Src) (s : State) (t : Team) (sh : Shape) (c : Ctx) (h : Handle) (v : Word),
      sh = { op := 0xE7, sel := .guard g, srcs := [a] } → c = ctxOf sh t → Issues s sh t → t.tx.live = false →
      voteOf c (c.val 0) = [] → v = lane (c.val 0) c.first →
      (s.handleOf t v = none → Traps (.xclose g a) s t 0xE7 6 0x10 (sh.active t)) ∧
      (s.handleOf t v = some h → s.partDone h = true → exec (.xclose g a) s = .next ((s.closePart h).putTeam
        { (popped sh t).next with handles := t.handles.filter (fun k => k != h) })) ∧
      (s.handleOf t v = some h → s.partDone h = false → t.status = .running →
        exec (.xclose g a) s = .next (s.park t (.reductionClose h.inst h.index))))
  )

/-- A reduction packet that arrives first of its job between two sites, in its domain and incarnation, lands at its instance;
one of a foreign domain is counted before one of an incarnation that is over (an order that is log 40, the model's); one to a
site without its tenant's descriptor, or that disagrees with the instance, is counted and discarded; a result is kept and
queued for every participant. A value that comes up takes its side of the node, at level 1 the first one only; the node then
forwards, when it has all that can come, or again where it had forwarded. A node below the root forwards at its deadline what
it has, once its children's values have
come, and closes at its own; the root's result goes to every participant's site (R266, R323, R328). An `xopen` without a slot
for 1 ms is woken to take its trap, which `Reductions` states; a close whose correction cell is not filled in time takes its
own when it is woken (R322, R329).
What is counted at once as dropped is log 44, and that packets of one job between two sites keep their order log 43, both the
model's. -/
def Obligations.ReductionEvents : Prop :=
  (∀ (s : State) (p : XPkt) (s1 s2 : State), s.xpkts.find? (fun q => q.id == p.id) = some p → s.live p.dst = true →
    s.xpkts.any (fun q => q.src == p.src && q.dst == p.dst && q.tenant == p.tenant && q.job == p.job &&
      decide (q.id < p.id)) = false →
    (∀ h j r v x, p.kind = .up h j r false v → s.instOf p.dst p.tenant p.job = some x →
      s.past p.dst (xForwardAt x.t x.d h) = false ∨ s.firstDue p.dst x h j = false) →
    s.mayCross p.way p.src p.dst p.relay p.relayed = true →
    s1 = { s with xpkts := s.xpkts.filter (fun q => q.id != p.id) } →
    s2 = (if p.src = p.dst then s1 else s1.touchPdc p.src p.dst false none) →
    (s.domainOf p.dst ≠ some p.key → exec (.reductionPacketArrive p.id) s =
      .next (s1.putSite { s.site p.dst with keyDrop := (s.site p.dst).keyDrop + 1 })) ∧
    (s.domainOf p.dst = some p.key → (s.site p.dst).inc ≠ p.inc → exec (.reductionPacketArrive p.id) s =
      .next (s1.putSite { s.site p.dst with incDrop := (s.site p.dst).incDrop + 1 })) ∧
    (s.domainOf p.dst = some p.key → (s.site p.dst).inc = p.inc → s.tenantDesc p.dst p.tenant = none →
      exec (.reductionPacketArrive p.id) s = .next (s2.xdrop p.key p.inst false)) ∧
    (∀ x, s.domainOf p.dst = some p.key → (s.site p.dst).inc = p.inc → (s.tenantDesc p.dst p.tenant).isSome = true →
      s.instOf p.dst p.tenant p.job = some x →
      (p.differs x = true → exec (.reductionPacketArrive p.id) s = .next (s2.xdrop p.key x true)) ∧
      (∀ v r, p.differs x = false → p.kind = .result v r → exec (.reductionPacketArrive p.id) s =
        .next (s2.putInst p.dst ({ x with result := some (v, r) }.queue (outResult v r)))) ∧
      (∀ (h j : Nat) (right first : Bool) (v : XVal) (n n1 : XNode), p.differs x = false → p.kind = .up h j right first v →
        s.inst? p.dst x.id = some x →
        n = (x.node? h j).getD (freshNode h j) → n.h = h → n.j = j → n.closed = false →
        n1 = (if right then { n with right := some v } else { n with left := some v }) →
        n.forwarded = true ∨ s.past p.dst (xForwardAt x.t x.d h) = false →
        (h = 1 → s.past p.dst (xCloseAt x.t x.d 1) = false) →
        (h = 1 → (if right then n.right else n.left).isSome = true → exec (.reductionPacketArrive p.id) s =
          .next (s2.xdrop p.key x false)) ∧
        ((h = 1 → (if right then n.right else n.left) = none) → n.forwarded = false → n1.full x.n = false →
          exec (.reductionPacketArrive p.id) s = .next (s2.putInst p.dst (x.putNode n1))) ∧
        (∀ w, (h = 1 → (if right then n.right else n.left) = none) → h ≠ xLevels x.n →
          n.forwarded = true ∨ n1.full x.n = true → n1.value x.spec = some w →
          exec (.reductionPacketArrive p.id) s = .next ((s2.putInst p.dst (x.putNode { n1 with
            forwarded := true, closed := n1.whole x })).xsend p.dst x.tenant x (j / 2 * 2 ^ (h + 1))
              (.up (h + 1) (j / 2) (j % 2 == 1) (!n.forwarded) w)))))) ∧
  (∀ (s : State) (site id h j : Nat) (x : XInst) (n : XNode), s.inst? site id = some x → x.node? h j = some n →
    s.live site = true → n.h = h → n.j = j → h ≠ xLevels x.n →
    (∀ v, n.forwarded = false → s.firstDue site x h j = false → s.past site (xForwardAt x.t x.d h) = true →
      n.value x.spec = some v → exec (.nodeForwardDeadline site id h j) s = .next
        ((s.putInst site (x.putNode { n with forwarded := true, closed := n.whole x })).xsend site x.tenant x
          (j / 2 * 2 ^ (h + 1)) (.up (h + 1) (j / 2) (j % 2 == 1) true v))) ∧
    (s.firstDue site x h j = true ∨ n.forwarded = true ∨ s.past site (xForwardAt x.t x.d h) = false →
      exec (.nodeForwardDeadline site id h j) s = .next s) ∧
    (n.forwarded = true → n.closed = false → s.past site (xCloseAt x.t x.d h) = true →
      s.lastDue site x h j = false →
      exec (.nodeCloseDeadline site id h j) s = .next (s.putInst site (x.putNode { n with closed := true })))) ∧
  (∀ (s : State) (site id j : Nat) (x x1 : XInst) (n : XNode) (v : XVal), s.inst? site id = some x → x.id = id →
    x.node? (xLevels x.n) j = some n → s.live site = true → n.forwarded = false → n.whole x = false →
    s.firstDue site x (xLevels x.n) j = false →
    s.past site (xForwardAt x.t x.d (xLevels x.n)) = true → v = (n.value x.spec).getD (xIdentity x.spec) →
    x1 = { x with fwdTime := s.time site }.putNode { n with forwarded := true } →
    exec (.nodeForwardDeadline site id (xLevels x.n) j) s = .next ((s.putInst site x1).xoutput site x1
      (.result v ((s.putInst site x1).xrecord ((s.domainOf site).getD 0) x1 v false)))) ∧
  (∀ (s : State) (t : Team) (tenant job since : Nat), s.team? t.id = some t →
    t.status = .parked (.reductionSlot tenant job) since → s.live t.place.site = true → since + us 1000 ≤ s.now →
    exec (.noReductionSlotExpiry t.id) s = .next (s.putTeam { t with
      status := .running, wake := some .expired, lastIssue := (s.core t.coreKey).slots })) ∧
  (∀ (s : State) (t : Team) (h : Handle) (x : XInst) (m : XMember) (since : Nat), s.team? t.id = some t →
    t.status = .parked (.reductionClose h.inst h.index) since →
    t.handles.find? (fun k => k.inst == h.inst && k.index == h.index) = some h → s.inst? h.site h.inst = some x →
    s.past h.site x.lateAt = true → s.live h.site = true → h.failed = false → s.member? h = some m → m.filled = false →
    exec (.xcloseRemoteFailed t.id) s = .next ((s.closePart h).putTeam { t with
      status := .running, wake := some (.trap 6 0x0B 2 none), lastIssue := (s.core t.coreKey).slots,
      handles := t.handles.map (fun k => if k == h then { k with failed := true } else k) }))

/-! ### Row 0xF: context, translation service, freeze records -/

/-- `pidx` pushes the progress index that a halted team's slot record holds; `pidx.set` writes one that is in its range, and
of another is "progress range". A SEL above 4 is an illegal word, and a designator of no halted team of the acting tenant
"protection" (R363).
`ctxs` writes a halted team's image, of the length R362 gives and with that team's stores applied first, under a new token,
keeps the token with its launch, and
frees what the team holds; a shorter length is "length". `ctxr` makes a halted team of an image whose token is kept, on a
core with room, its registers as the image's rows give them, and the token is used up (R360, R362).
That a restored team keeps its launch and team number is log 31, and what of its control state its record keeps log 32, both
the model's. -/
def Obligations.ProgressAndContextImages : Prop :=
  (
    (∀ (g : Guard) (d : Dst) (a : Src) (s : State) (t h : Team) (sh : Shape) (x : Word) (b : Nat),
      sh = { op := 0xFD, sel := .guard g, srcs := [a], dst := some d, pass := some a, priv := 1 } → Issues s sh t →
      x = lane ((valsOf sh t).getD 0 []) (Mask.first (sh.active t) t.nlane) →
      (5 ≤ selOf x → Traps (.pidx g d a) s t 0xFD 0 0x01 (sh.active t)) ∧
      (selOf x < 5 → s.haltedAt t.place.site t.ctl.acting.toNat (designator true x) = none →
        Traps (.pidx g d a) s t 0xFD 4 0x03 (sh.active t)) ∧
      (selOf x < 5 → s.haltedAt t.place.site t.ctl.acting.toNat (designator true x) = some h → s.slotRecord h = some b →
        ∃ t', exec (.pidx g d a) s = .next (s.putTeam t') ∧ Pushed t t' sh d (fun _ => BitVec.ofNat 64
          (if selOf x = 0 then (if s.slotLong b then Mem.read s.mem (b + 0x40) 8 else 0)
           else match s.queuedWord b (selOf x - 1) with | some e => e.prog | none => 0)))) ∧
    (∀ (g : Guard) (a d : Src) (s : State) (t h : Team) (sh : Shape) (x : Word) (b v i : Nat),
      sh = { op := 0xFD, sel := .guard g, srcs := [a, d], priv := 1 } → Issues s sh t →
      x = lane ((valsOf sh t).getD 0 []) (Mask.first (sh.active t) t.nlane) →
      v = (lane ((valsOf sh t).getD 1 []) (Mask.first (sh.active t) t.nlane)).toNat → i = selOf x - 1 → selOf x < 5 →
      s.haltedAt t.place.site t.ctl.acting.toNat (designator true x) = some h → s.slotRecord h = some b →
      (selOf x = 0 → s.slotLong b = true → v ≤ h.passes → exec (.pidxSet g a d) s =
        .next (({ s with mem := Mem.write s.mem (b + 0x40) 8 v } : State).putTeam (popped sh t).next)) ∧
      (selOf x = 0 → s.slotLong b = false ∨ h.passes < v → Traps (.pidxSet g a d) s t 0xFD 1 0x09 (sh.active t)) ∧
      (∀ e, 0 < selOf x → s.queuedWord b i = some e →
        (v ≤ e.extent → 0 < i ∨ s.slotLong b = true → exec (.pidxSet g a d) s =
          .next (({ s with mem := Mem.write s.mem (b + (0x1178 + 64 * i)) 8 v } : State).putTeam (popped sh t).next)) ∧
        (v ≤ e.extent → i = 0 → s.slotLong b = false → exec (.pidxSet g a d) s =
          .next (({ s with mem := Mem.write (Mem.write s.mem (b + (0x1178 + 64 * i)) 8 v) (b + 0x40) 8 v } : State).putTeam
            (popped sh t).next)) ∧
        (e.extent < v → Traps (.pidxSet g a d) s t 0xFD 1 0x09 (sh.active t))))
  ) ∧ (
    (∀ (g : Guard) (kb : Fin 32) (s s0 : State) (t h : Team) (sh : Shape) (c : Ctx) (a : Word) (n phys : Nat),
      sh = { op := 0xF8, sel := .guard g, blk := some (kb, 3), priv := 1 } → c = ctxOf sh t → Issues s sh t →
      s0 = s.settleEntries h.id (fun _ => true) → s0 = { s with mem := s0.mem, cores := s0.cores } → Quiet s0 t →
      t.status = .running → a = c.arg1 1 → a.toNat % 256 = 0 →
      s.haltedAt t.place.site t.ctl.acting.toNat (designator false (c.arg1 0)) = some h → s.team? h.id = some h →
      n = 0x4040 + 256 * h.hdr.rows + h.hdr.scratchBytes + 128 * (s.cmdsOf h.id).length →
      ((c.arg1 2).toNat < n → s.checkRange t.party a n true = .ok →
        Traps (.ctxs g kb) s t 0xF8 6 0x02 (sh.active t)) ∧
      (n ≤ (c.arg1 2).toNat → s0.memOk → (∀ site, NoListeners s0 site) → s.checkRange t.party a n true = .ok →
        s.xlateRun t.party .write (n / 65536 + 2) a n = .ok [(phys, n, [])] →
        ∃ u token, exec (.ctxs g kb) s = .next u ∧ u.team? h.id = some { h with
            status := .exported token, cmdKeep := (s.cmdsOf h.id).map (fun k =>
              { tenant := k.tenant, user := k.user, token := k.token, setCtr := k.setCtr }) } ∧
          u.team? t.id = some t.next ∧ u.cmds = s.cmds.filter (fun k => k.team != some h.id) ∧
          (∀ i, Mem.get u.mem i = if phys ≤ i ∧ i < phys + n then (s0.image h token).getD (i - phys) 0 else Mem.get s0.mem i) ∧
          ∀ p e, s.journal? h.place.part h.place.launch = some (p, e) →
            ∃ q, u.journal? h.place.part h.place.launch = some (q, { e with exported := token :: e.exported }))) ∧
    (∀ (g : Guard) (kb : Fin 32) (s : State) (t h : Team) (sh : Shape) (c : Ctx) (a token : Word)
        (cl co core phys nc n : Nat) (img : List Byte) (p : Partition) (e : JEntry) (t0 : Team) (pl : Placing),
      sh = { op := 0xF9, sel := .guard g, blk := some (kb, 2), priv := 1 } → c = ctxOf sh t → Issues s sh t → Quiet s t →
      t.status = .running → (∀ u ∈ s.teams, u.tx.live = false) → a = c.arg1 0 → a.toNat % 256 = 0 →
      designator false (c.arg1 1) = some (cl, co, 0) → core = t.place.site * 256 + cl * 64 + co →
      s.checkRange t.party a 0x4040 false = .ok →
      s.xlateRun t.party .read (0x4040 / 65536 + 2) a 0x4040 = .ok [(phys, 0x4040, [])] →
      img = Mem.bytes s.mem phys n → n = 0x4040 + 256 * h.hdr.rows + h.hdr.scratchBytes + 128 * nc →
      token = wordAt img (0x4000 + 56) → wordAt img 0x4000 = BitVec.ofNat 64 t.ctl.acting.toNat →
      (wordAt img (0x4000 + 8)).toNat = h.place.launch → wordAt img (0x4000 + 16) = h.hdr.addr →
      (wordAt img (0x4000 + 24)).toNat = h.hdr.rows → (wordAt img (0x4000 + 32)).toNat = h.hdr.scratchBytes →
      (wordAt img (0x4000 + 40)).toNat = nc → nc ≤ 256 → t.ctl.acting = h.ctl.home →
      s.teams.find? (fun u => u.status == .exported token && u.place.part == t.place.part &&
        u.place.launch == h.place.launch) = some h →
      s.team? h.id = some h → s.journal? h.place.part h.place.launch = some (p, e) → e.exported.contains token = true →
      s.checkRange t.party a n false = .ok →
      s.xlateRun t.party .read (n / 65536 + 2) a n = .ok [(phys, n, [])] →
      t0 = { h with place := { h.place with site := t.place.site, cluster := cl, core := co, lsite := t.place.lsite,
                                            ldev := t.place.ldev } } →
      s.room core t0 = some pl → s.coreOpen core = true → s.coreHeld core t0 = false →
      s.coreEntries core + nc ≤ 256 →
      s.inTheWay core t0 (s.runsOf t0 pl) (pl.scratch, h.hdr.scratchBytes) [] = [] →
      ∃ u h', exec (.ctxr g kb) s = .next u ∧ u.team? h.id = some h' ∧ u.team? t.id = some t.next ∧ h'.isHalted = true ∧
        h'.place = { t0.place with
          slot := pl.slot, rowBase := pl.row, scratchBase := pl.scratch, thawed := [], rowSkip := 0, scratchThawed := false } ∧
        h'.ctl = h.ctl ∧ h'.nlane = h.nlane ∧
        (∀ i l, i < h.hdr.kregs → l < h.nlane → lane (h'.k i) l =
          wordAt ((img.drop (0x4040 + 256 * ((16 + i) * h.rowPasses + l / 32))).take 256) (8 * (l % 32))) ∧
        u.cmds.length = s.cmds.length + nc ∧
        ∃ q, u.journal? h.place.part h.place.launch =
          some (q, { e with exported := e.exported.filter (fun x => x != token) }))
  )

/-- With nothing of the site outstanding and no fault of the tenant waiting, `tlbi` takes the page's entries out of every TLB
of the site, `tlbi.name` one name out of the name cache, `tlbi.all` all of the tenant's; with something sent through such a
name and not applied, `tlbi.name` parks, the name gone already. The end of a service takes its entry out of the fault buffer
and lets the parked team replay. A fault that has waited 1 ms for a place in the buffer, and waits still, freezes the partition.
`fbpop` pushes word 0 of the oldest entry not popped yet and `fbpop.w1` its word 1; an empty
buffer gives 0 (R175, R358, R359). -/
def Obligations.TranslationService : Prop :=
  (∀ (g : Guard) (a : Src) (s : State) (t : Team) (sh all : Shape) (x : Site) (tenant : Nat) (v : Word),
    sh = { op := 0xFA, sel := .guard g, srcs := [a], priv := 1 } → all = { op := 0xFA, sel := .guard g, priv := 1 } →
    Quiet s t → (∀ u ∈ s.teams, u.pend = [] ∧ u.mwr = []) → (∀ c ∈ s.cores, c.wbuf = []) → x = s.site t.place.site →
    x.fbuf = [] → (∀ o ∈ s.ops, o.dsite = t.place.site → o.phase ≠ .landing) →
    tenant = t.ctl.acting.toNat → v = lane ((valsOf sh t).getD 0 []) (Mask.first (sh.active t) t.nlane) →
    (Issues s sh t → exec (.tlbi g a) s = .next (({ s with cores := s.cores.map (fun c =>
      if coreSite c.key == t.place.site then { c with tlb := c.tlb.filter (fun e => !e.covers tenant (gOfs v)) } else c) } :
        State).putTeam (popped sh t).next)) ∧
    (Issues s sh t → s.sentThrough t.place.site (x.names.filter (fun e =>
        e.tenant == tenant && e.ldev == gDev v && e.lsite == gSite v)) = [] →
      exec (.tlbiName g a) s = .next ((s.putSite { x with names := x.names.filter (fun e =>
        !(e.tenant == tenant && e.ldev == gDev v && e.lsite == gSite v)) }).putTeam (popped sh t).next)) ∧
    (∀ ids, Issues s sh t → t.status = .running → ids = s.sentThrough t.place.site (x.names.filter (fun e =>
        e.tenant == tenant && e.ldev == gDev v && e.lsite == gSite v)) → ids ≠ [] →
      exec (.tlbiName g a) s = .next ((s.putSite { x with names := x.names.filter (fun e =>
        !(e.tenant == tenant && e.ldev == gDev v && e.lsite == gSite v)) }).park t (.named ids))) ∧
    (Issues s all t → s.sentThrough t.place.site (x.names.filter (fun e => e.tenant == tenant)) = [] →
      exec (.tlbiAll g) s = .next ((({ s with cores := s.cores.map (fun c =>
      if coreSite c.key == t.place.site then { c with tlb := c.tlb.filter (fun e => !(e.tenant == tenant)) } else c) } :
        State).putSite { x with names := x.names.filter (fun e => e.tenant != tenant) }).putTeam t.next))) ∧
  (∀ (s : State) (site tenant page since : Nat) (wrt fet eng lvl pop : Bool) (first : Word) (w : Team) (x : Site)
      (f : Nat → Bool), x = s.site site → x.fbuf = [.page tenant page wrt fet eng lvl first pop [.team w.id]] →
    x.fbWaits = [] → f page = true → s.team? w.id = some w → w.status = .parked (.translation site tenant page) since →
    s.endService site tenant f = (s.putSite { x with fbuf := [] }).putTeam
      { w with status := .running, wake := none, lastIssue := (s.core w.coreKey).slots }) ∧
  (∀ (g : Guard) (d : Dst) (s : State) (t : Team) (sh : Shape) (x : Site),
    sh = { op := 0xFB, sel := .guard g, dst := some d, priv := 1 } → Issues s sh t → x = s.site t.place.site →
    (popFirst x.fbuf = none → ∃ t1, Pushed t t1 sh d (fun _ => 0) ∧
      exec (.fbpop g d) s = .next (s.putTeam { t1 with fbWord1 := 0 })) ∧
    (∀ e r, popFirst x.fbuf = some (e, r) → ∃ t1, Pushed t t1 sh d (fun _ => e.words.1) ∧
      exec (.fbpop g d) s = .next ((s.putSite { x with fbuf := r }).putTeam { t1 with fbWord1 := e.words.2 })) ∧
    (∃ t1, Pushed t t1 sh d (fun _ => t.fbWord1) ∧ exec (.fbpopW1 g d) s = .next (s.putTeam t1))) ∧
  (∀ (w0 w1 : Word) (tenant page : Nat) (wrt fet eng lvl : Bool) (first : Word) (ws : List FWaiter) (r : List FbEntry),
    popFirst (.event w0 w1 :: r) = some (.event w0 w1, r) ∧
    popFirst (.page tenant page wrt fet eng lvl first false ws :: r) =
      some (.page tenant page wrt fet eng lvl first false ws, .page tenant page wrt fet eng lvl first true ws :: r) ∧
    popFirst (.page tenant page wrt fet eng lvl first true ws :: r) =
      (popFirst r).map (fun x => (x.1, .page tenant page wrt fet eng lvl first true ws :: x.2))) ∧
  (∀ (s : State) (site since : Nat) (w : FbWait) (r : List FbWait) (x : Site), x = s.site site → x.fbSince = some since →
    s.placeWaiters site = w :: r → s.live site = true →
    (since + us 1000 ≤ s.now → exec (.faultBufferWatchdog site) s = .next (s.freezePart (s.partOf site) site 549
      (BitVec.ofNat 96 (6 * 2 ^ 91 + x.lsite * 2 ^ 82 + w.tenant * 2 ^ 58)))) ∧
    (s.now < since + us 1000 → exec (.faultBufferWatchdog site) s = .next s)) ∧
  (∀ (s : State) (site : Nat),
    (∀ w, w ∈ s.placeWaiters site ↔ w ∈ (s.site site).fbWaits ∧ s.stillWaits site w.tenant w.page w.who = true) ∧
    (s.placeWaiters site = [] → exec (.faultBufferWatchdog site) s = .next s))

/-- `frz` writes a unit's record of 128 bytes and `frz.detail` the detail word to a 16-aligned destination; no other byte
changes; a unit above 550 is "protection". `frz.release` drops the site's contribution to the freeze line: the last one
lets every site of the partition run under its next incarnation, which the supervisor is told. The destination of a record is
the home tenant's (R364 to
R366, R394). -/
def Obligations.FreezeInstructions : Prop :=
  (∀ (g : Guard) (kb : Fin 32) (s : State) (t : Team) (sh : Shape) (c : Ctx) (a : Word) (phys : Nat) (detail : Bool)
      (i : Instr) (bs : List Byte) (p : Party),
    p = (ctxOf sh t).asHome.t.party →
    sh = { op := 0xFC, sel := .guard g, blk := some (kb, 2), priv := 2 } → c = ctxOf sh t → Issues s sh t → Quiet s t →
    a = c.arg1 1 → i = (if detail then .frzDetail g kb else .frz g kb) →
    bs = (if detail then leBytes 16 (s.site t.place.site).detail.toNat
          else s.freezeRecord t.place.site (c.arg1 0).toNat) →
    (a.toNat % 16 ≠ 0 → exec i s = .next (s.trapList c 4 0x01 [(c.first, a)])) ∧
    (a.toNat % 16 = 0 → (detail = false ∧ 550 < (c.arg1 0).toNat) ∨ (detail = true ∧ c.arg1 0 ≠ 0) →
      s.checkRange p a bs.length true = .ok → Traps i s t 0xFC 4 0x03 (sh.active t)) ∧
    (a.toNat % 16 = 0 → (detail = false → (c.arg1 0).toNat ≤ 550) → (detail = true → c.arg1 0 = 0) → s.memOk →
      (∀ site, NoListeners s site) → s.checkRange p a bs.length true = .ok →
      s.xlateRun p .write (bs.length / 65536 + 2) a bs.length = .ok [(phys, bs.length, [])] →
      ∃ u, exec i s = .next u ∧ u.teams = (s.putTeam t.next).teams ∧ u.sites = s.sites ∧
        ((∀ r ∈ (s.site t.place.site).frzRecs, r.2.length = 72) → bs.length = (if detail then 16 else 128)) ∧
        ∀ b, Mem.get u.mem b = if phys ≤ b ∧ b < phys + bs.length then bs.getD (b - phys) 0 else Mem.get s.mem b)) ∧
  (∀ (g : Guard) (kb : Fin 32) (s : State) (t : Team) (sh : Shape) (c : Ctx),
    sh = { op := 0xFC, sel := .guard g, blk := some (kb, 2), priv := 2 } → c = ctxOf sh t → Issues s sh t →
    (c.arg1 0 = 0 → c.arg1 1 = 0 → exec (.frzRelease g kb) s = .next ((s.putTeam t.next).releaseSite t.place.site)) ∧
    (c.arg1 0 ≠ 0 ∨ c.arg1 1 ≠ 0 → Traps (.frzRelease g kb) s t 0xFC 4 0x03 (sh.active t))) ∧
  (∀ (s u : State) (site : Nat) (x : Site) (p : Partition), u = s.releaseSite site → x = s.site site → x.frozen = true →
    x.part = some p.id → s.part? p.id = some p → site ∈ p.sites → (∀ k ∈ p.sites, (s.site k).heldNotes = []) →
    (∀ k, k ∈ p.sites → k ≠ site → (s.site k).part = some p.id → (s.site k).frzHeld = true →
      u = s.putSite { x with frzHeld := false }) ∧
    ((∀ k ∈ p.sites, k ≠ site → (s.site k).part = some p.id → (s.site k).frzHeld = false) → p.state = .recovering →
      p.sites.Nodup → u.part? p.id = some { p with state := .running } ∧
      ∀ k ∈ p.sites, (s.site k).part = some p.id →
        (u.site k).frozen = false ∧ (u.site k).frzHeld = false ∧ (u.site k).detail = 0 ∧
        (u.site k).inc = (s.site k).inc + 1 ∧ Report.incarnation p.id k ((s.site k).inc + 1) ∈ u.reports))

/-! ### Events of the site and the scheduler -/

/-- The freeze line: a check's finding, its detail of a group and kind that R367 names, an engine that moves nothing for 1
ms, a journal commit over 10 ms, a sequencer idle 10 ms, a late thaw, an input supply outside 44 V to 54 V or a core rail
more than 5 % off its 650 mV, and a sensor at 100 °C stop
every site of the partition, which is then frozen; the raising site latches the detail; no team and no byte changes. An error
that is corrected is counted. An input below 40 V is no such fault: it stops the site without a record (R364, R367, R369,
R385, R386).
Recovery: a frozen partition without a running launch goes on to recovering, or without a journal replica to lost, which
the management port reports; a recovering one that finds replicas lost stays or is lost; one whose failed parts are none
repairs and releases its sites, and runs; a failed part is fenced. A lost replica is rebuilt on another site of the partition
whose DRAM is good, or where it has one site on that site's other channel (R283, R368, R389). That recovery takes two events,
and that a frozen partition may be lost at once, is log 54, and that all its sites stop at once log 51, the model's. -/
def Obligations.FreezeLineAndRecovery : Prop :=
  (
    (∀ (s u : State) (p : Partition) (site unit : Nat) (d : BitVec 96), u = s.freezePart p.id site unit d →
      s.part? p.id = some p → p.state = .running → site ∈ p.sites → (s.site site).part = some p.id →
      (s.site site).frozen = false →
      u.mem = s.mem ∧ u.teams = s.teams ∧ u.part? p.id = some { p with state := .frozen } ∧
      (∀ k ∈ p.sites, (s.site k).part = some p.id → (u.site k).frozen = true) ∧
      (u.site site).frzUnit = unit ∧ (u.site site).frzClock = s.clock site ∧
      ((s.site site).detail = 0 → (u.site site).detail = d)) ∧
    (∀ (s : State) (site unit : Nat) (d : BitVec 96), s.live site = true →
      (unit ≤ 550 → detailOk d = true → (d.extractLsb' 82 6).toNat = (s.site site).lsite →
        exec (.freeze site unit d) s = .next (s.freezePart (s.partOf site) site unit d)) ∧
      (550 < unit ∨ d ≠ 0 ∧ detailOk d = false → exec (.freeze site unit d) s = .next s) ∧
      (d = 0 → unit < 256 ∨ (517 ≤ unit ∧ unit ≤ 532) → exec (.freeze site unit d) s = .next (s.putSite { s.site site with
        corrected := (s.site site).corrected + 1 }))) ∧
    (∀ d : BitVec 96, detailOk d = true ↔ ∃ g n low : Nat,
      (g, n, low) ∈ [(1, 4, 21), (2, 4, 43), (3, 2, 24), (4, 5, 56), (5, 3, 72), (6, 5, 58)] ∧ d.toNat / 2 ^ 91 = g ∧
        d.toNat / 2 ^ 88 % 8 < n ∧ d.toNat % 2 ^ low = 0) ∧
    (∀ (s : State) (site part : Nat) (x : Site), x = s.site site → part = s.partOf site → s.live site = true →
      (∀ e c, e < 4 → s.cmds.find? (fun c => c.site == site && c.state == CmdState.flight &&
          c.segs.all (fun g => !g.stuck) && decide (c.issued + us 1000 ≤ s.now)) = some c →
        exec (.watchdogTimeout site (.engineIdle e)) s =
          .next (s.freezePart part site (512 + e) (detailEngine 1 x.lsite e c.op c.tenant c.progress))) ∧
      (∀ p i, s.part? part = some p → x.part = some part →
        p.intake.find? (fun i => decide (i.since + us 10000 ≤ s.now)) = some i →
        exec (.watchdogTimeout site .journalCommit) s =
          .next (s.freezePart part site 550 (detailSched 1 x.lsite 0 0 i.tenant))) ∧
      (∀ c h, s.cores.find? (fun c => coreSite c.key == site && s.thawLate c.key) = some c → s.thawing c.key = some h →
        h.since + us 100 ≤ s.now ∧ exec (.watchdogTimeout site .thawBound) s =
          .next (s.freezePart part site 550
            (detailSched 2 x.lsite (coreIdx c.key / 64) (coreIdx c.key % 64) (s.thawTenant c.key)))) ∧
      (∀ core e r, coreSite core = site → (s.core core).mx.queue = e :: r → e.stuck = false →
        (s.core core).mx.moved + us 10000 ≤ s.now → exec (.watchdogTimeout site (.sequencerIdle core)) s =
          .next (s.freezePart part site 550 (detailSched 3 x.lsite (coreIdx core / 64) (coreIdx core % 64) e.tenant)))) ∧
    (∀ (s : State) (site mv : Nat), s.live site = true →
      (40000 ≤ mv → mv < 44000 ∨ 54000 < mv → exec (.supplyFault site (.input mv)) s =
        .next (s.freezePart (s.partOf site) site 0xFFFF (detailHard 0 (s.site site).lsite 0 0 mv))) ∧
      (mv < 40000 ∨ (44000 ≤ mv ∧ mv ≤ 54000) → exec (.supplyFault site (.input mv)) s = .next s) ∧
      (618 ≤ mv → mv ≤ 682 → exec (.supplyFault site (.core mv)) s = .next s) ∧
      (mv < 618 ∨ 682 < mv → exec (.supplyFault site (.core mv)) s =
        .next (s.freezePart (s.partOf site) site 0xFFFF (detailHard 0 (s.site site).lsite 0 0 mv)))) ∧
    (∀ (s : State) (site : Nat) (x : Site), x = s.site site →
      (x.mgmt.powered = false → exec (.powerLoss site) s = .next s) ∧
      (x.mgmt.powered = true → (∀ t ∈ s.teams, t.place.site = site → t.isReserved = false) → exec (.powerLoss site) s =
        .next ((s.putSite { x with mgmt := { x.mgmt with powered := false } }).siteLost site x.part (s.launchesOn site))) ∧
      (x.mgmt.powered = true → x.part = none → (∀ t ∈ s.teams, t.place.site ≠ site) → x.bins = [] →
        exec (.powerLoss site) s = .next (s.putSite { x with mgmt := { x.mgmt with powered := false } }))) ∧
    (∀ (s : State) (site cluster tenths : Nat), s.live site = true → cluster < 4 →
      (tenths < 1000 → ∃ u, exec (.thermalSample site cluster tenths) s = .next u ∧ u.teams = s.teams ∧ u.mem = s.mem ∧
        ((u.site site).mgmt.throttled.contains cluster = decide (900 ≤ tenths))) ∧
      (1000 ≤ tenths → ∃ (s1 : State) (d : BitVec 96), exec (.thermalSample site cluster tenths) s =
        .next (s1.freezePart (s.partOf site) site 550 d) ∧ s1.teams = s.teams ∧ s1.mem = s.mem))
  ) ∧ (
    (∀ (s : State) (p : Partition) (failed lost left : List Nat), s.part? p.id = some p →
      left = (p.replicas.zipIdx.filter (fun r => !lost.contains r.2)).map (fun r => r.1) →
      (p.state = .frozen ∧ (∀ e ∈ p.journal, e.state ≠ .running)) ∨ (p.state = .recovering ∧ lost ≠ []) →
      (left ≠ [] → exec (.partitionRecovery p.id failed lost) s =
        .next (s.putPart { p with replicas := left, state := .recovering })) ∧
      (left = [] → exec (.partitionRecovery p.id failed lost) s = .next { s.putPart { p with replicas := [], state := .lost } with
        reports := s.reports ++ [.journalLost p.id] })) ∧
    (∀ (s : State) (p : Partition) (k : Nat) (x : Site), s.part? p.id = some p → p.state = .recovering →
      (∀ e ∈ p.journal, e.state ≠ .failed) → p.replicas.length = 2 → p.sites = [k] → x = s.site k → x.part = some p.id → x.frozen = true → x.detail = 0 →
      x.heldNotes = [] → ∃ u, exec (.partitionRecovery p.id [] []) s = .next u ∧ u.part? p.id = some { p with
          state := .running, intake := p.intake.map (fun (i : Intake) => { i with since := s.now }) } ∧
        (u.site k).frozen = false ∧ (u.site k).inc = x.inc + 1 ∧ u.mem = s.mem) ∧
    (∀ (s u : State) (v : Nat) (x : Site), u = s.fence v → x = s.site (v / 2 ^ 32) →
      (u.site (v / 2 ^ 32)).fencedParts = x.fencedParts ++ [v % 2 ^ 32] ∧ u.mem = s.mem ∧ u.teams = s.teams ∧
      (x.mgmt.log.length < 4096 → (u.site (v / 2 ^ 32)).mgmt.log.length = x.mgmt.log.length + 1)) ∧
    (∀ (s : State) (p : Partition) (failed lost : List Nat), s.part? p.id = some p →
      p.state = .running ∨ p.state = .lost → exec (.partitionRecovery p.id failed lost) s = .next s) ∧
    (∀ (s : State) (p : Partition) (k target : Nat), s.part? p.id = some p → p.replicas = [k] → p.state ≠ .lost →
      (s.site target).part = some p.id → (s.site target).mgmt.powered = true →
      ((target ≠ k ∧ dramGood (s.site target) = true) ∨ (p.sites.filter (fun y => (s.site y).part == some p.id)).length ≤ 1 →
        exec (.journalReplicaRebuild p.id target) s = .next (s.putPart { p with
          replicas := [k, target], journal := p.journal.map (fun e => { e with replicas := [k, target] }) })) ∧
      (1 < (p.sites.filter (fun y => (s.site y).part == some p.id)).length → target = k ∨ dramGood (s.site target) = false →
        exec (.journalReplicaRebuild p.id target) s = .next s))
  )

/-- The host's notify moves the tail of an enabled queue, never past N entries; a frozen site holds it, one in reset drops it
(R364, R388); an entry whose two chunks carry its sequence
byte becomes a record to accept; a chunk that does not is fetched again, and after 64 fetches the entry is torn (R279 to
R281). A record whose checks pass enters the journal under the next launch number, eligible when it depends on no cell;
one that is malformed or has no place fills its completion cell with its status; a table entry that breaks a rule freezes
the partition, and the record stays where it was; a site that does not work fetches nothing and accepts nothing (R27, R172,
R282, R283). That a notify names its tenant, and that the head
moves with each entry that is done, is log 27, the model's. -/
def Obligations.HostQueuesAndAcceptance : Prop :=
  (∀ (s : State) (site tenant n : Nat) (v : Word) (q : HostQueue), s.live site = true → hostPort site = true →
    n = (v.extractLsb' 32 16).toNat → q = s.hq site n →
    (n < 16 → v.extractLsb' 48 16 = 0 → q.on = true → q.legal = true → (v.extractLsb' 0 32 - q.head).toNat ≤ q.n →
      exec (.hostNotify site v tenant) s =
        .next ((s.putHq site n { q with tail := v.extractLsb' 0 32, tenant }).fetchEntry site n)) ∧
    (16 ≤ n ∨ v.extractLsb' 48 16 ≠ 0 ∨ q.on = false ∨ q.legal = false ∨ q.n < (v.extractLsb' 0 32 - q.head).toNat →
      exec (.hostNotify site v tenant) s = .next s)) ∧
  (∀ (s : State) (site tenant : Nat) (v : Word) (x : Site), x = s.site site → x.mgmt.powered = true →
    (x.frozen = true → x.mgmt.inReset = false → exec (.hostNotify site v tenant) s =
      .next (s.putSite { x with heldNotes := x.heldNotes ++ [(v, tenant)] })) ∧
    (x.mgmt.inReset = true → exec (.hostNotify site v tenant) s = .next s)) ∧
  (∀ (s : State) (site n i : Nat) (q : HostQueue) (p : Partition) (c0 c1 : List Byte), q = s.hq site n → q.on = true →
    s.live site = true → (∀ t ∈ s.teams, t.tx.live = false) →
    q.legal = true → q.head ≠ q.tail → q.refetch = none → (s.site site).part = some p.id → s.part? p.id = some p →
    p.intake = [] → i = q.head.toNat → c0 = Mem.bytes s.mem (q.entryAt site i) 64 →
    c1 = Mem.bytes s.mem (q.entryAt site i + 64) 64 →
    (byteAt c0 0 = q.seq i → byteAt c1 0 = q.seq i → s.fetchEntry site n = s.putPart { p with intake :=
      [{ bytes := c0.drop 8 ++ (c1.drop 8).take 8, tenant := q.tenant, sup := q.sup,
         bad := (firstNonZero c0 1 8).isSome || (firstNonZero c1 1 8).isSome || (firstNonZero c1 16 64).isSome,
         src := some (site, n), since := s.now }] }) ∧
    (byteAt c0 0 ≠ q.seq i → byteAt c1 0 ≠ q.seq i → s.fetchEntry site n = s.putHq site n { q with
      refetch := some { entry := i, retries := 0, next := s.now + 250 * Config.ticksPerNs, got0 := none, got1 := none } })) ∧
  (∀ (s : State) (site n : Nat) (q : HostQueue) (r : Refetch), s.live site = true → q = s.hq site n → q.refetch = some r →
    (s.now < r.next → exec (.chunkRefetch site n) s = .next s) ∧
    (r.next ≤ s.now → (∀ t ∈ s.teams, t.tx.live = false) →
      byteAt (Mem.bytes s.mem (q.entryAt site r.entry) 64) 0 ≠ q.seq r.entry →
      byteAt (Mem.bytes s.mem (q.entryAt site r.entry + 64) 64) 0 ≠ q.seq r.entry → r.got0 = none → r.got1 = none →
      (r.retries + 1 < 64 → exec (.chunkRefetch site n) s = .next (s.putHq site n { q with refetch := some { r with
        retries := r.retries + 1, next := r.next + 250 * Config.ticksPerNs } })) ∧
      (64 ≤ r.retries + 1 → exec (.chunkRefetch site n) s = .next ((s.putHq site n { q with
        torn := (q.torn.extractLsb' 32 32 + 1) ++ BitVec.ofNat 32 r.entry, refetch := none }).passHead site n)))) ∧
  (∀ (s : State) (p : Partition) (i : Intake) (rest : List Intake), s.part? p.id = some p → p.intake = i :: rest →
    (p.works = true → s.live (s.partHome p) = true → ∃ take, exec (.launchAccept p.id) s = .next (s.accept p.id i take) ∧
      ∀ s1 q, s1.part? p.id = some q →
        (i.src = none → take s1 = s1.putPart { q with intake := rest }) ∧
        (∀ k n, i.src = some (k, n) → take s1 = (s1.putPart { q with intake := rest }).passHead k n)) ∧
    (p.works = false ∨ s.live (s.partHome p) = false → exec (.launchAccept p.id) s = .next s)) ∧
  (∀ (s : State) (site n : Nat), s.live site = false → s.fetchEntry site n = s ∧ s.passHead site n = s) ∧
  (∀ (s s1 s2 : State) (p q : Partition) (i : Intake) (r : LRecord) (take : State → State), s.part? p.id = some p →
    r = parseRecord i.bytes → s2 = take s1 → s2.part? p.id = some q → q.id = p.id →
    (∀ k o n, s.checkLaunch p i = (s1, .broken k o n) →
      s.accept p.id i take = s1.freezeEntry (s1.partOf k) k o i.tenant n) ∧
    (∀ w o, s.checkLaunch p i = (s1, .malformed w o) →
      s.accept p.id i take = s2.complete p.id i.tenant i.sup r.comp (statusWord 1 w o)) ∧
    (s.checkLaunch p i = (s1, .unplaceable) →
      s.accept p.id i take = s2.complete p.id i.tenant i.sup r.comp (statusWord 2)) ∧
    (∀ h, s.checkLaunch p i = (s1, .fine h) → (∀ d ∈ r.deps, d = 0) → (∀ f ∈ q.journal, f.launch ≠ q.nextLaunch) →
      s.accept p.id i take = s2.putPart { q with nextLaunch := q.nextLaunch + 1, journal := q.journal ++
        [{ launch := q.nextLaunch, tenant := i.tenant, lrec := r, hdr := h, state := JState.eligible,
           replicas := q.replicas, depsFull := [], bad := false, clusters := [], nextTeam := [], exported := [], fails := 0,
           backoff := none, granted := [], committed := false }] }))

/-- A waiting team that none may precede is admitted to a core with room, and starts as R16 and R354 give: at its header's
entry, its registers zero, its queues unconfigured, its lanes live, its slot's side buffer zero; what another tenant's halted
teams left in its place thaws first. After 20 µs it is aged, the first in order before the others. A gang that spans sites
reserves on each in turn, starts when all have granted, and tries again when its back-off is over. A retiring team whose work
is over is retired (R61, R286 to R290). -/
def Obligations.TeamsAndGangs : Prop :=
  (∀ (s s1 : State) (t : Team) (core b : Nat) (p : Placing), s.team? t.id = some t → t.isWaiting = true →
    (∀ u ∈ s.teams, u.id = t.id → u = t) → (s.core core).thaw = none →
    t.hdr.gang = false → coreSite core = t.place.site → coreIdx core / 64 = t.place.cluster → s.coreTakes core t = true →
    s.journalOpen t.place.part t.place.launch = true → s.mayPass t = true → s.returns core t = false →
    s.room core t = some p → b = sideBase core p.slot →
    s1 = State.moveRows { s with mem := Mem.clear s.mem b (b + 0x2000) } p.moves →
    (s.inTheWay core t (s.runsOf t p) (p.scratch, t.hdr.scratchBytes) (p.moves.map (fun m => m.1)) = [] →
      exec (.teamAdmit t.id core) s = .next ((s1.putTeam (s1.started t core p.slot p.row p.scratch .running)).launchRuns
        t.place.part t.place.launch)) ∧
    (s.inTheWay core t (s.runsOf t p) (p.scratch, t.hdr.scratchBytes) (p.moves.map (fun m => m.1)) ≠ [] →
      exec (.teamAdmit t.id core) s = .next (s.putCore { s.core core with
        thaw := some {
          team := t.id, rows := s.runsOf t p, scratch := (p.scratch, t.hdr.scratchBytes), since := s.now,
          owners := (s.inTheWay core t (s.runsOf t p) (p.scratch, t.hdr.scratchBytes) (p.moves.map (fun m => m.1))).map
            (fun u => u.id) } }))) ∧
  (∀ (s : State) (t u : Team) (core slot row scr : Nat), u = s.started t core slot row scr .running →
    u.ctl.pc = t.hdr.addr + t.hdr.entry ∧ u.ctl.live = t.ctl.live ∧ u.ctl.cur = t.ctl.live ∧ u.ctl.stack = [] ∧
    u.ctl.priv = (if t.hdr.supervisor then 1 else 0) ∧ u.ctl.inHandler = false ∧ u.ctl.acting = t.ctl.home ∧
    u.ctl.tvb = s.tvbOf t.place.site t.ctl.home.toNat ∧
    (∀ n, n < 7 → u.p n = 0) ∧ (∀ n, u.s n = t.s n) ∧ (∀ n, u.queue n = {}) ∧
    (∀ n l, n < 16 → lane (u.d n) l = 0) ∧ (∀ n l, lane (u.k n) l = 0)) ∧
  (∀ (s : State) (t : Team) (since : Nat) (target : Option Nat), s.team? t.id = some t →
    t.status = .waiting since false target → s.live t.place.site = true →
    (since + us 20 ≤ s.now → (∀ u ∈ s.waitingAt t.place.site t.place.cluster, u.id ≠ t.id → s.ageDue u = true →
        u.earlier t = false) → exec (.teamAged t.id) s =
      .next (s.putTeam { t with status := .waiting since true (s.chooseTarget t) })) ∧
    (s.now < since + us 20 → exec (.teamAged t.id) s = .next s)) ∧
  (∀ (s : State) (part launch k : Nat) (p : Partition) (e : JEntry) (want : State → List Nat),
    s.journal? part launch = some (p, e) →
    ((p.sites.drop e.lrec.firstsite).take e.lrec.sites).find? (fun k => !e.granted.contains k) = some k →
    e.hdr.gang = true → 1 < e.lrec.sites → e.state = .eligible → e.clusters ≠ [] → e.committed = false → e.backoff = none →
    p.works = true → s.live k = true → s.sliceOf k (BitVec.ofNat 16 e.tenant) = true →
    want = (fun s => (s.launchTeams part launch (fun t => t.isWaiting && t.place.site == k)).map (fun t => t.id)) →
    (want (s.reserveAll (want s)) = [] → exec (.gangReserve part launch) s =
      .next ((s.reserveAll (want s)).putJournal part { e with granted := e.granted ++ [k] })) ∧
    (want (s.reserveAll (want s)) ≠ [] → (s.reserveAll (want s)).rivals part launch k = [] →
      exec (.gangReserve part launch) s = .next (s.reserveAll (want s)))) ∧
  (∀ (s : State) (part launch : Nat) (p : Partition) (e : JEntry), s.journal? part launch = some (p, e) →
    (e.hdr.gang = true → 1 < e.lrec.sites → e.committed = false → e.state = .eligible → p.works = true →
      s.launchTeams part launch Team.isWaiting = [] → (∀ k ∈ (p.sites.drop e.lrec.firstsite).take e.lrec.sites, k ∈ e.granted) →
      exec (.gangCommit part launch) s = .next ((s.putJournal part { e with committed := true }).startGang part launch)) ∧
    (∀ b, e.backoff = some b → b ≤ s.now →
      exec (.gangBackoffExpiry part launch) s = .next (s.putJournal part { e with backoff := none })) ∧
    (∀ b, e.backoff = some b → s.now < b → exec (.gangBackoffExpiry part launch) s = .next s)) ∧
  (∀ (s : State) (t : Team), s.team? t.id = some t → t.status = .retiring → s.live t.place.site = true →
    (s.teamOver t = true → t.handles = [] → t.mwr = [] → (s.core t.coreKey).mx.holder ≠ some t.id →
      exec (.teamRetire t.id) s = .next ((s.putTeam { t with status := .retired, savedMx := none, pend := [] }).finishLaunch
        t.place.part t.place.launch)) ∧
    (s.teamOver t = false → exec (.teamRetire t.id) s = .next s))

/-- The GO write names the next slice and posts a yield request to every team of another tenant that stands on the site, with
50 µs to leave. At the deadline one that remains, alone on its site here, is saved in full; one still in its handler 1 ms
later freezes the partition. Rows and scratch of a halted team that another tenant needs go to the save area, each owner
once, and the thaw is over when none owes it anything and no team of the slice waits to take the
place; a team parked
at a full launch queue is written out for one that waits. A halted team comes back on its core in its tenant's slice with
what its slot record holds (R340 to R346, R355). That a GO write takes in every other home tenant is log 29, that a resumed
pc loses the bits it cannot hold log 71, both the model's. -/
def Obligations.SliceEvents : Prop :=
  (∀ (s : State) (site next : Nat) (x : Site), x = s.site site → s.live site = true → next < 65536 →
    s.tenantDesc site (BitVec.ofNat 16 next).toNat ≠ none → s.teams = [] →
    exec (.tswitchGo site next) s = .next (s.putSite { x with
      tswNext := BitVec.ofNat 16 next, tswOut := some (x.slice.getD (BitVec.ofNat 16 next), s.now + us 50),
      slice := some (BitVec.ofNat 16 next) })) ∧
  (∀ (s u : State) (site : Nat) (v : Word), s.ctlWrite site 0x1F00600000 v false = some u → v.getLsbD 32 = true →
    ∀ t, s.team? t.id = some t → t.place.site = site → t.ctl.home ≠ v.extractLsb' 0 16 → t.status = .running →
      (∀ r ∈ s.teams, r.id = t.id → r = t) →
      u.team? t.id = some { t with yieldReq := true }) ∧
  (∀ (s : State) (site dl : Nat) (out : BitVec 16) (t : Team), (s.site site).tswOut = some (out, dl) → s.live site = true →
    (s.now < dl → exec (.sliceDeadline site) s = .next s) ∧
    (dl ≤ s.now → s.teams = [t] → t.place.site = site → t.yieldReq = true → t.ctl.inHandler = false → t.status = .running →
      exec (.sliceDeadline site) s = .next (s.haltTeam t.id true)) ∧
    (dl + us 1000 ≤ s.now → s.teams.find? (fun t => t.place.site == site && t.yieldReq && t.ctl.inHandler && t.resident) = some t →
      exec (.handlerWatchdog site) s = .next (s.freezePart t.place.part site 550 (BitVec.ofNat 96
        (6 * 2 ^ 91 + 4 * 2 ^ 88 + (s.site site).lsite * 2 ^ 82 + t.place.cluster * 2 ^ 80 + t.place.core * 2 ^ 74 +
          t.ctl.home.toNat * 2 ^ 58)))) ∧
    (s.now < dl + us 1000 → exec (.handlerWatchdog site) s = .next s)) ∧
  (∀ (s : State) (t : Team), s.team? t.id = some t → t.isHalted = true → s.coreOpen t.coreKey = true →
    (∀ h, s.thawing t.coreKey = some h → h.owners.contains t.id = true →
      (t.rowsIn h.rows ≠ [] → exec (.rowThaw t.id .rows) s = .next ((s.thawRows t (t.rowsIn h.rows)).thawStep t.coreKey)) ∧
      (t.scratchIn h.scratch = true → exec (.rowThaw t.id .scratch) s = .next ((s.thawScratch t).thawStep t.coreKey)) ∧
      (t.scratchIn h.scratch = false → exec (.rowThaw t.id .scratch) s = .next s)) ∧
    (s.thawing t.coreKey = none ∨ (∃ h, s.thawing t.coreKey = some h ∧ h.owners.contains t.id = false) →
      exec (.rowThaw t.id .rows) s = .next s ∧ exec (.rowThaw t.id .scratch) s = .next s)) ∧
  (∀ (s : State) (core : Nat) (h g : Thaw), (s.core core).thaw = some h →
    g = { h with owners := h.owners.filter (fun i => (s.onCore core h.team).any (fun u => u.id == i && u.isHalted &&
      (!(u.rowsIn h.rows).isEmpty || u.scratchIn h.scratch))) } →
    s.thawStep core = s.putCore { s.core core with
      thaw := if g.owners = [] ∧ s.thawOn core = none then none else some g }) ∧
  (∀ (s : State) (t u : Team) (n since : Nat), s.team? t.id = some t → t.status = .parked (.launchQueue n) since →
    s.coreOpen t.coreKey = true → t.ctl.inHandler = false → s.stuckRows { t with status := .halted true none 0 } = [] →
    u ∈ s.waitingAt t.place.site t.place.cluster →
    s.sliceOf t.place.site u.ctl.home = true → exec (.rowThaw t.id .rows) s = .next (s.writeOut t.id)) ∧
  (∀ (s : State) (t : Team) (full : Bool) (since b : Nat), s.team? t.id = some t → t.status = .halted full none since →
    s.sliceOf t.place.site t.ctl.home = true → s.coreOpen t.coreKey = true → s.resumeRoom t = true →
    s.inTheWay t.coreKey t [] t.scratchRun [] = [] → t.place.thawed = [] → t.place.scratchThawed = false → s.slotRecord t = some b →
    ∃ u t', exec (.teamResume t.id) s = .next u ∧ u.team? t.id = some t' ∧ u.mem = s.mem ∧ t'.status = .running ∧
      t'.place = { t.place with thawed := [], rowSkip := 0, scratchThawed := false } ∧
      t'.ctl.pc = Mem.word s.mem b &&& ~~~3 ∧ t'.ctl.live = BitVec.ofNat 1024 (Mem.read s.mem (b + 0x0200) 128) ∧
      (∀ i, i < 8 → t'.s i = Mem.word s.mem (b + (0x0100 + 8 * i))) ∧
      (∀ i, i < 7 → t'.p i = BitVec.ofNat 1024 (Mem.read s.mem (b + (0x0380 + 128 * i)) 128)) ∧
      (∀ i, i < 8 → (t'.queue i).depth = (Mem.get s.mem (b + 0x0028 + i)).toNat))

/-- A control register write that R266, R278, R338, R354 or R393 accepts is read back; one that it refuses changes nothing:
one that would enable a host queue enabled on another site of the partition is refused (R278).
The tenant table takes a write only where the table after it is legal (R338). -/
def Obligations.ControlRegisters : Prop :=
  (∀ (s : State) (site : Nat) (v : Word), s.live site = true →
    (v.extractLsb' 0 8 = 0 → exec (.rselcfgWrite site v) s = .next (s.putSite { s.site site with rselcfg := v }) ∧
      (s.putSite { s.site site with rselcfg := v }).ctlRead site 0x1F00100000 = v) ∧
    (v.extractLsb' 0 8 ≠ 0 → exec (.rselcfgWrite site v) s = .next s)) ∧
  (∀ (s : State) (site i : Nat) (v : Word), s.live site = true → i < 64 →
    (v.extractLsb' 0 11 = 0 → ∃ u, exec (.tvbdefWrite site i v) s = .next u ∧ u.ctlRead site (0x1F00401000 + 8 * i) = v ∧
      u.teams = s.teams ∧ u.mem = s.mem ∧ ∀ j, j < 64 → j ≠ i →
        u.ctlRead site (0x1F00401000 + 8 * j) = s.ctlRead site (0x1F00401000 + 8 * j)) ∧
    (v.extractLsb' 0 11 ≠ 0 → exec (.tvbdefWrite site i v) s = .next s)) ∧
  (∀ (s : State) (site q : Nat) (v : Word), s.live site = true → q < 16 → hostPort site = true →
    (v.extractLsb' 32 32 = 0 → v.getLsbD 25 = false → ((s.hq site q).on = true → (s.hq site q).head = (s.hq site q).tail) →
      (v.getLsbD 31 = true → ∀ p y, (s.site site).part = some p → y ∈ s.sites → y.key ≠ site → y.part = some p →
        (y.hq.getD q {}).on = false) → ∃ u, exec (.hqcfgWrite site q v) s = .next u ∧ u.ctlRead site (0x1F00200000 + 32 * q) = v ∧
        u.teams = s.teams ∧ u.mem = s.mem) ∧
    (v.extractLsb' 32 32 ≠ 0 ∨ v.getLsbD 25 = true ∨ ((s.hq site q).on = true ∧ (s.hq site q).head ≠ (s.hq site q).tail) ∨
        (v.getLsbD 31 = true ∧ ∃ p y, (s.site site).part = some p ∧ y ∈ s.sites ∧ y.key ≠ site ∧ y.part = some p ∧
          (y.hq.getD q {}).on = true) →
      exec (.hqcfgWrite site q v) s = .next s)) ∧
  (∀ (s : State) (site ofs size : Nat) (v : BitVec 128) (mon : Bool) (m : Memory), s.live site = true →
    size = 1 ∨ size = 2 ∨ size = 4 ∨ size = 8 ∨ size = 16 → ofs % size = 0 → ofs + size ≤ 0x1000 →
    m = Mem.setBytes s.mem (siteBase site + (tenantTable + ofs)) (leBytes size v.toNat) →
    exec (.tenantDescriptorWrite site ofs size v mon) s = .next (if s.tableWriteOk site m then { s with mem := m } else s)) ∧
  (∀ (s : State) (site ofs : Nat) (v : Word) (mon : Bool), s.live site = true → (∀ t ∈ s.teams, t.yieldReq = false) →
    (ctlPlace site ofs ≠ .register → exec (.controlRegisterWrite site ofs v mon) s = .next s) ∧
    (∀ r, r < 8 → ofs = 0x1F00300000 + 8 * r → mon = true →
      (∀ k, k < 4 → v.extractLsb' (16 * k + 9) 7 = 0) →
      ∃ u, exec (.controlRegisterWrite site ofs v mon) s = .next u ∧ u.ctlRead site ofs = v ∧ u.teams = s.teams ∧
        u.mem = s.mem) ∧
    (∀ r, r < 8 → ofs = 0x1F00300000 + 8 * r → mon = false → exec (.controlRegisterWrite site ofs v mon) s = .next s))

/-- A site reset clears the site's memory and its work and advances its incarnation; the next reset event brings it out
again (that it is a second event of the same name is log 56, the model's), its boot counted and reported, its image, if it
has one, verified, and its incarnation told to the supervisors that list it. A
team elsewhere that is parked on a cell there takes "remote failed", and one that waits for a page there tries again.
Of a device reset, which is of the sites with power, and of power coming back, the device's sites and partitions go; other
devices' memory stays (R269, R372, R389 to R392).
That TVBDEF reads 0 after it is log 10, the model's. -/
def Obligations.Resets : Prop :=
  (∀ (s : State) (site : Nat) (x : Site), x = s.site site → x.mgmt.powered = true → x.mgmt.inReset = false → x.part = none →
    (∀ t ∈ s.teams, t.place.site ≠ site ∧ s.cellThere site t = false) → x.bins = [] → x.waits = [] → x.fbuf = [] →
    x.fbWaits = [] → s.memOk →
    ∃ u, exec (.siteReset site) s = .next u ∧ (u.site site).inc = x.inc + 1 ∧ (u.site site).mgmt.inReset = true ∧
      (u.site site).fbuf = [] ∧ (u.site site).tvbdef = List.replicate 64 0 ∧
      (u.site site).rselcfg = 0x0028038402020200 ∧ u.teams = s.teams ∧
      ∀ a, Mem.get u.mem a = if siteBase site ≤ a ∧ a < siteBase site + 2 ^ 37 then 0 else Mem.get s.mem a) ∧
  (∀ (s : State) (site : Nat) (x : Site), x = s.site site → x.mgmt.powered = true → x.mgmt.inReset = true →
    ∃ u, exec (.siteReset site) s = .next u ∧ (u.site site).mgmt.inReset = false ∧ u.mem = s.mem ∧
      (u.site site).mgmt.bootCount = x.mgmt.bootCount + 1 ∧
      (u.site site).mgmt.boot = (if x.mgmt.image ≠ [] ∧ x.mgmt.imageWhole = true ∧ imageGood x.mgmt.image = true then 1
        else 2) ∧
      (∃ torn r, u.reports = s.reports ++ .boot site (u.site site).mgmt.boot torn :: r) ∧
      ∀ p ∈ s.parts, site ∈ p.sites → Report.incarnation p.id site x.inc ∈ u.reports) ∧
  (∀ (s : State) (site since : Nat) (x : Site) (t : Team), x = s.site site → x.mgmt.powered = true → x.mgmt.inReset = false →
    x.part = none → s.teams = [t] → t.place.site ≠ site → x.bins = [] → (∀ y ∈ s.sites, y.waits = []) → x.fbWaits = [] →
    (∀ l a k inc, t.status = .parked (.cell l a) since → s.reach t.party a = .at_ k inc → x.fbuf = [] → k = site →
      ∃ u, exec (.siteReset site) s = .next u ∧ u.team? t.id = some { t with
        status := .running, wake := some (.trap 6 0x0B 2 none), lastIssue := (s.core t.coreKey).slots }) ∧
    (∀ tenant page wrt fet eng lvl first pop, t.status = .parked (.translation site tenant page) since →
      x.fbuf = [.page tenant page wrt fet eng lvl first pop [.team t.id]] →
      ∃ u, exec (.siteReset site) s = .next u ∧ u.team? t.id = some { t with
        status := .running, wake := none, lastIssue := (s.core t.coreKey).slots })) ∧
  (∀ (s : State) (site : Nat), (s.site site).mgmt.powered = false → exec (.siteReset site) s = .next s ∧
    exec (.deviceReset site) s = .next s) ∧
  (∀ (s : State) (site : Nat), (s.site site).mgmt.powered = true →
    (∃ k ∈ devSites (site / 64), (s.site k).mgmt.powered = true ∧ (s.site k).mgmt.inReset = false) →
    s.teams = [] → (∀ y ∈ s.sites, y.waits = []) → s.memOk →
    ∃ u, exec (.deviceReset site) s = .next u ∧
      (∀ k ∈ devSites (site / 64), (s.site k).mgmt.powered = true → (u.site k).mgmt.inReset = true ∧ (u.site k).part = none) ∧
      (∀ p ∈ u.parts, p.dev ≠ site / 64) ∧
      ∀ a k, k = a / 2 ^ 37 →
        (k / 64 = site / 64 ∧ (s.site k).mgmt.powered = true → Mem.get u.mem a = 0) ∧
        (k / 64 ≠ site / 64 ∨ (s.site k).mgmt.powered = false → Mem.get u.mem a = Mem.get s.mem a)) ∧
  (∀ (s : State) (dev : Nat), (dev < Config.maxDevices → s.teams = [] → (∀ y ∈ s.sites, y.waits = []) → s.memOk →
      ∃ u, exec (.powerOnReset dev) s = .next u ∧ (∀ p ∈ u.parts, p.dev ≠ dev) ∧
        (∀ k ∈ devSites dev, (u.site k).mgmt.inReset = false ∧ (u.site k).mgmt.powered = true ∧
          (u.site k).mgmt.bootCount = (s.site k).mgmt.bootCount + 1) ∧
        ∀ a, (a / 2 ^ 43 = dev → Mem.get u.mem a = 0) ∧ (a / 2 ^ 43 ≠ dev → Mem.get u.mem a = Mem.get s.mem a)) ∧
    (Config.maxDevices ≤ dev → exec (.powerOnReset dev) s = .next s))

/-- A build that is signed, names free sites that may join and is within its limits makes a partition of them, in ascending
order, each under its next incarnation with its logical number; one that is not signed does nothing. A signed teardown takes
the partition away. The management port takes a reinstatement record of 256 bytes in a signed message; a signed firmware
update sets the image, and builds are counted anew (R334, R373, R389, R391). The host announces an image, which sites in the
recovery ROM boot, asks for an attestation and reads it when it is done, reaches the DRAM behind its port, and reads ones
from a site in reset (R347, R387, R388). That builds are counted at the device's site 0 is log 99, and which bytes a
command's signature covers log 58, both the model's.
That TVBDEF is 0 after a build is log 10, the model's. -/
def Obligations.Management : Prop :=
  (∀ (s : State) (dev : Nat) (sites ks : List Nat) (key reserved base time start : Nat) (sig : List Byte),
    s.reinst = [] → ks = ((List.range 64).filter (fun i => sites.contains i)).map (fun i => dev * 64 + i) → ks ≠ [] →
    s.startTime key time = some start → dev < Config.maxDevices → key < 2 ^ 32 →
    (∀ p ∈ s.parts, p.dev = dev → p.domain ≠ key) → (∀ k ∈ ks, s.mayJoin k = true) → base % 4096 = 0 → base < 2 ^ 37 →
    reserved ≤ 2048 →
    (Config.ed448Verify "LW64M1" (commandBytes 1 ([dev, key, reserved, base, time] ++ sites)) sig = true →
      s.manages dev = true → ∃ u, exec (.partitionBuild dev sites key reserved base time sig) s = .next u ∧ u.parts = s.parts ++
        [{ id := s.uid, dev, sites := ks, domain := key, reserved, state := .running, nextLaunch := 1,
           journal := [], intake := [], dlq := [], dlqMoved := s.now, replicas := s.replicaSites ks }] ∧
        ∀ i k, ks[i]? = some k → (u.site k).part = some s.uid ∧ (u.site k).lsite = i ∧
          (u.site k).inc = (s.site k).inc + 1 ∧ (u.site k).tvbdef = List.replicate 64 0) ∧
    (Config.ed448Verify "LW64M1" (commandBytes 1 ([dev, key, reserved, base, time] ++ sites)) sig = false ∨
        s.manages dev = false →
      exec (.partitionBuild dev sites key reserved base time sig) s = .next s)) ∧
  (∀ (s : State) (p : Partition) (sig : List Byte), s.part? p.id = some p →
    (Config.ed448Verify "LW64M1" (commandBytes 2 [p.id]) sig = true → s.manages p.dev = true →
      ∃ u, exec (.partitionTeardown p.id sig) s = .next u ∧ u.part? p.id = none ∧
        ∀ k ∈ p.sites, (s.site k).part = some p.id → (u.site k).part = none) ∧
    (Config.ed448Verify "LW64M1" (commandBytes 2 [p.id]) sig = false ∨ s.manages p.dev = false → exec (.partitionTeardown p.id sig) s = .next s)) ∧
  (∀ (s : State) (dev : Nat) (r sig : List Byte),
    (r.length = 256 → Config.ed448Verify "LW64M1" r sig = true → s.manages dev = true →
      exec (.reinstatementRecord dev (r ++ sig)) s = .next { s with reinst := s.reinst ++ [(dev, r)] }) ∧
    (r.length = 256 → Config.ed448Verify "LW64M1" r sig = false ∨ s.manages dev = false → exec (.reinstatementRecord dev (r ++ sig)) s = .next s) ∧
    (r.length < 256 → exec (.reinstatementRecord dev r) s = .next s)) ∧
  (∀ (s : State) (site : Nat) (image sig : List Byte) (x : Site), x = s.site site → x.mgmt.powered = true →
    x.mgmt.inReset = false →
    (Config.ed448Verify "LW64M1" image sig = true → s.manages (site / 64) = true → ∃ u, exec (.firmwareUpdate site image sig true) s = .next u ∧
      u.mem = s.mem ∧ u.teams = s.teams ∧ (u.site site).mgmt.image = image ∧
      (u.site site).mgmt.imageWhole = true ∧ (u.site site).mgmt.updating = false ∧
      (u.site (site / 64 * 64)).mgmt.builds = 0) ∧
    (Config.ed448Verify "LW64M1" image sig = false ∨ s.manages (site / 64) = false → exec (.firmwareUpdate site image sig true) s = .next s)) ∧
  (∀ (s : State) (site n : Nat) (x : Site), x = s.site site → hostPort site = true → x.mgmt.powered = true →
    x.mgmt.inReset = false → n ≤ 0x0800000000 →
    ∃ u, exec (.firmwareImageAnnounce site n) s = .next u ∧ u.mem = s.mem ∧ u.teams = s.teams ∧
      (n = 0 ∨ imageGood (Mem.bytes s.mem (siteBase site) n) = false →
        u = s.putSite { x with mgmt := { x.mgmt with imageLen := BitVec.ofNat 64 n } }) ∧
      (n ≠ 0 → imageGood (Mem.bytes s.mem (siteBase site) n) = true → ∀ k ∈ devSites (site / 64), (s.site k).mgmt.boot = 2 →
        (s.site k).mgmt.powered = true → (s.site k).mgmt.inReset = false →
        (u.site k).mgmt.boot = 1 ∧ (u.site k).mgmt.image = Mem.bytes s.mem (siteBase site) n ∧
        Report.boot k 1 (s.site k).mgmt.torn ∈ u.reports)) ∧
  (∀ (s : State) (site kind : Nat) (nonce : List Byte) (x : Site), x = s.site site → x.mgmt.powered = true →
    x.mgmt.inReset = false →
    (hostPort site = true → nonce.length = 32 → exec (.attestationRequest site nonce kind) s = .next (s.putSite { x with
      mgmt := { x.mgmt with nonce, attKind := BitVec.ofNat 64 kind, doorbell := 1, done := 0 } })) ∧
    (x.mgmt.doorbell = 1 → x.mgmt.boot = 1 → (∀ k ∈ devSites (site / 64), (s.site k).mgmt.updating = false) →
      exec (.attestationReportDone site) s = .next (s.putSite { x with
        mgmt := { x.mgmt with report := s.attestation site, done := 1, doorbell := 0 } }))) ∧
  (∀ (s : State) (site ofs : Nat) (bs : List Byte), hostPort site = true → s.live site = true → s.memOk →
    (∀ k, NoListeners s k) →
    (ofs + bs.length ≤ 0x0800000000 → ∃ u, exec (.hostBar4Access site ofs (some bs)) s = .next u ∧ u.teams = s.teams ∧
      u.sites = s.sites ∧ ∀ a, Mem.get u.mem a =
        if siteBase site + ofs ≤ a ∧ a < siteBase site + ofs + bs.length then bs.getD (a - (siteBase site + ofs)) 0
        else Mem.get s.mem a) ∧
    (ofs + 1 ≤ 0x0800000000 → exec (.hostBar4Access site ofs none) s = .next s)) ∧
  (∀ (s : State) (site ofs n : Nat) (m : Mgmt), m = (s.site site).mgmt → hostPort site = true → m.powered = true →
    (ofs + n ≤ 0x1000 → s.hostRead site 0 ofs n = some (List.replicate n (if m.inReset then 0xFF else 0))) ∧
    (ofs + n ≤ 0x0800000000 → s.hostRead site 4 ofs n =
      some (if m.inReset then List.replicate n 0xFF else Mem.bytes s.mem (siteBase site + ofs) n)) ∧
    s.hostRead site 2 0 8 = some (leBytes 8 (16 * s.bootState site)) ∧
    (m.report.length = 512 → s.hostRead site 2 0x200 512 = some m.report))
end

