-- ==== Sys2Proof/Laws/Memory.lean ====
section
/-! SUPPORT. Laws of memory: every operation keeps the canonical form, a byte written reads back, every other byte
stays. -/

namespace Sys2Proof.Machine

theorem Mem.above_mono {m : Memory} {lo lo' : Nat} (h : lo' ≤ lo) (hm : Mem.above lo m = true) :
    Mem.above lo' m = true := by
  cases m with
  | nil => rfl
  | cons c r =>
    obtain ⟨x, v⟩ := c
    simp only [Mem.above, Bool.and_eq_true, decide_eq_true_eq] at hm ⊢
    exact ⟨⟨by omega, hm.1.2⟩, hm.2⟩

theorem Mem.above_set {m : Memory} {lo a : Nat} (b : Byte) (h : lo ≤ a) (hm : Mem.above lo m = true) :
    Mem.above lo (Mem.set m a b) = true := by
  induction m generalizing lo with
  | nil =>
    unfold Mem.set
    split
    · rfl
    · rename_i hb
      simpa [Mem.above, h] using hb
  | cons c r ih =>
    obtain ⟨x, v⟩ := c
    simp only [Mem.above, Bool.and_eq_true, decide_eq_true_eq] at hm
    unfold Mem.set
    split
    · rename_i hax
      split
      · exact Mem.above_mono (by omega) hm.2
      · rename_i hb
        subst hax
        simpa [Mem.above, h, hm.2] using hb
    · split
      · split
        · simp [Mem.above, hm.1.1, hm.2]
          simpa using hm.1.2
        · rename_i hlt hb
          simp only [Mem.above, Bool.and_eq_true, decide_eq_true_eq]
          exact ⟨⟨h, by simpa using hb⟩, ⟨by omega, hm.1.2⟩, hm.2⟩
      · simp only [Mem.above, Bool.and_eq_true, decide_eq_true_eq]
        exact ⟨hm.1, ih (by omega) hm.2⟩

theorem Mem.wf_set {m : Memory} (a : Nat) (b : Byte) (hm : Mem.wf m = true) : Mem.wf (Mem.set m a b) = true :=
  Mem.above_set b (Nat.zero_le a) hm

theorem Mem.wf_setBytes {m : Memory} (a : Nat) (bs : List Byte) (hm : Mem.wf m = true) :
    Mem.wf (Mem.setBytes m a bs) = true := by
  induction bs generalizing m a with
  | nil => exact hm
  | cons b r ih => exact ih (a + 1) (Mem.wf_set a b hm)

theorem Mem.wf_write {m : Memory} (a n v : Nat) (hm : Mem.wf m = true) : Mem.wf (Mem.write m a n v) = true :=
  Mem.wf_setBytes a _ hm

theorem Mem.wf_setWord {m : Memory} (a : Nat) (w : Word) (hm : Mem.wf m = true) : Mem.wf (Mem.setWord m a w) = true :=
  Mem.wf_write a 8 _ hm

theorem Mem.above_filter {m : Memory} {lo : Nat} (p : Host.Cell → Bool) (hm : Mem.above lo m = true) :
    Mem.above lo (m.filter p) = true := by
  induction m generalizing lo with
  | nil => rfl
  | cons c r ih =>
    obtain ⟨x, v⟩ := c
    simp only [Mem.above, Bool.and_eq_true, decide_eq_true_eq] at hm
    rw [List.filter_cons]
    split
    · simp only [Mem.above, Bool.and_eq_true, decide_eq_true_eq]
      exact ⟨hm.1, ih hm.2⟩
    · exact ih (Mem.above_mono (by omega) hm.2)

theorem Mem.wf_filter {m : Memory} (p : Host.Cell → Bool) (hm : Mem.wf m = true) : Mem.wf (m.filter p) = true :=
  Mem.above_filter p hm

theorem Mem.wf_clear {m : Memory} (lo hi : Nat) (hm : Mem.wf m = true) : Mem.wf (Mem.clear m lo hi) = true :=
  Mem.above_filter _ hm

/-- A left fold of steps that each keep the canonical form keeps it. -/
theorem Mem.wf_foldl {α : Type} (f : Memory → α → Memory) (hf : ∀ m x, Mem.wf m = true → Mem.wf (f m x) = true)
    (l : List α) {m : Memory} (hm : Mem.wf m = true) : Mem.wf (l.foldl f m) = true := by
  induction l generalizing m with
  | nil => exact hm
  | cons x r ih => exact ih (hf m x hm)

theorem Mem.wf_undoLines {m : Memory} (ls : List TxLine) (hm : Mem.wf m = true) : Mem.wf (undoLines m ls) = true := by
  refine Mem.wf_foldl _ (fun m l hm => ?_) ls hm
  split
  · exact Mem.wf_setBytes _ _ hm
  · exact hm

/-! ### Reading back -/

theorem Mem.get_below {m : Memory} {lo a : Nat} (h : a < lo) (hm : Mem.above lo m = true) : Mem.get m a = 0 := by
  cases m with
  | nil => rfl
  | cons c r =>
    obtain ⟨x, v⟩ := c
    simp only [Mem.above, Bool.and_eq_true, decide_eq_true_eq] at hm
    unfold Mem.get
    rw [if_neg (by omega), if_pos (by omega)]

theorem Mem.get_set_at {m : Memory} {lo : Nat} (a : Nat) (b : Byte) (hm : Mem.above lo m = true) (a' : Nat) :
    Mem.get (Mem.set m a b) a' = if a' = a then b else Mem.get m a' := by
  induction m generalizing lo with
  | nil =>
    unfold Mem.set
    split
    · rename_i hb
      subst hb
      simp [Mem.get]
    · simp [Mem.get]
  | cons c r ih =>
    obtain ⟨x, v⟩ := c
    simp only [Mem.above, Bool.and_eq_true, decide_eq_true_eq] at hm
    unfold Mem.set
    split
    · rename_i hax
      subst hax
      split
      · rename_i hb
        subst hb
        split
        · rename_i h
          subst h
          exact Mem.get_below (Nat.lt_succ_self _) hm.2
        · rename_i h
          rw [Mem.get.eq_2, if_neg h]
          split
          · exact Mem.get_below (by omega) hm.2
          · rfl
      · rw [Mem.get.eq_2, Mem.get.eq_2]
        split
        · rfl
        · rfl
    · rename_i hne
      split
      · rename_i hlt
        split
        · rename_i hb
          subst hb
          split
          · rename_i h
            subst h
            rw [Mem.get.eq_2, if_neg hne, if_pos hlt]
          · rfl
        · rw [Mem.get.eq_2]
          split
          · rfl
          · rename_i h
            split
            · rw [Mem.get.eq_2, if_neg (by omega), if_pos (by omega)]
            · rfl
      · rw [Mem.get.eq_2, Mem.get.eq_2 a' x v r]
        by_cases h1 : a' = x
        · subst h1
          rw [if_pos rfl, if_pos rfl, if_neg (fun h => hne h.symm)]
        · rw [if_neg h1, if_neg h1]
          by_cases h2 : a' < x
          · rw [if_pos h2, if_pos h2, if_neg (by omega)]
          · rw [if_neg h2, if_neg h2]
            exact ih hm.2

/-- A byte written reads back, and every other byte stays. -/
theorem Mem.get_set {m : Memory} (hm : Mem.wf m = true) (a : Nat) (b : Byte) (a' : Nat) :
    Mem.get (Mem.set m a b) a' = if a' = a then b else Mem.get m a' := Mem.get_set_at a b hm a'

/-- A run of bytes: each reads back at its place, and every byte outside the run stays. -/
theorem Mem.get_setBytes {m : Memory} (hm : Mem.wf m = true) (a : Nat) (bs : List Byte) (a' : Nat) :
    Mem.get (Mem.setBytes m a bs) a' =
      if a ≤ a' ∧ a' < a + bs.length then bs.getD (a' - a) 0 else Mem.get m a' := by
  induction bs generalizing m a with
  | nil =>
    rw [if_neg (by simp)]
    rfl
  | cons b r ih =>
    rw [Mem.setBytes, ih (Mem.wf_set a b hm), Mem.get_set hm]
    by_cases h0 : a' = a
    · subst h0
      rw [if_neg (by omega), if_pos rfl, if_pos (by simp)]
      simp
    · by_cases h1 : a + 1 ≤ a' ∧ a' < a + 1 + r.length
      · rw [if_pos h1, if_pos (by rw [List.length_cons]; omega)]
        obtain ⟨k, hk⟩ : ∃ k, a' - a = k + 1 := ⟨a' - a - 1, by omega⟩
        rw [hk, List.getD_cons_succ, show a' - (a + 1) = k by omega]
      · rw [if_neg h1, if_neg h0, if_neg (by rw [List.length_cons]; omega)]

end Sys2Proof.Machine
end

