-- ==== Sys2Proof/Laws/State.lean ====
section
/-! SUPPORT. Fields under the named updates of State and Team: one line for each field an update leaves alone. -/

namespace Sys2Proof.Machine

@[simp] theorem State.putTeam_mem (s : State) (t : Team) : (s.putTeam t).mem = s.mem := rfl
@[simp] theorem State.putTeam_sites (s : State) (t : Team) : (s.putTeam t).sites = s.sites := rfl
@[simp] theorem State.putTeam_cores (s : State) (t : Team) : (s.putTeam t).cores = s.cores := rfl
@[simp] theorem State.putTeam_parts (s : State) (t : Team) : (s.putTeam t).parts = s.parts := rfl
@[simp] theorem State.putTeam_cmds (s : State) (t : Team) : (s.putTeam t).cmds = s.cmds := rfl
@[simp] theorem State.putTeam_incs (s : State) (t : Team) : (s.putTeam t).incs = s.incs := rfl
@[simp] theorem State.putTeam_fills (s : State) (t : Team) : (s.putTeam t).fills = s.fills := rfl
@[simp] theorem State.putTeam_ops (s : State) (t : Team) : (s.putTeam t).ops = s.ops := rfl
@[simp] theorem State.putTeam_xpkts (s : State) (t : Team) : (s.putTeam t).xpkts = s.xpkts := rfl
@[simp] theorem State.putTeam_xcounts (s : State) (t : Team) : (s.putTeam t).xcounts = s.xcounts := rfl
@[simp] theorem State.putTeam_reinst (s : State) (t : Team) : (s.putTeam t).reinst = s.reinst := rfl
@[simp] theorem State.putTeam_reports (s : State) (t : Team) : (s.putTeam t).reports = s.reports := rfl
@[simp] theorem State.putTeam_now (s : State) (t : Team) : (s.putTeam t).now = s.now := rfl
@[simp] theorem State.putTeam_agenda (s : State) (t : Team) : (s.putTeam t).agenda = s.agenda := rfl
@[simp] theorem State.putTeam_cur (s : State) (t : Team) : (s.putTeam t).cur = s.cur := rfl
@[simp] theorem State.putTeam_free (s : State) (t : Team) : (s.putTeam t).free = s.free := rfl
@[simp] theorem State.putTeam_uid (s : State) (t : Team) : (s.putTeam t).uid = s.uid := rfl
@[simp] theorem State.putSite_mem (s : State) (x : Site) : (s.putSite x).mem = s.mem := rfl
@[simp] theorem State.putSite_cores (s : State) (x : Site) : (s.putSite x).cores = s.cores := rfl
@[simp] theorem State.putSite_teams (s : State) (x : Site) : (s.putSite x).teams = s.teams := rfl
@[simp] theorem State.putSite_parts (s : State) (x : Site) : (s.putSite x).parts = s.parts := rfl
@[simp] theorem State.putSite_cmds (s : State) (x : Site) : (s.putSite x).cmds = s.cmds := rfl
@[simp] theorem State.putSite_incs (s : State) (x : Site) : (s.putSite x).incs = s.incs := rfl
@[simp] theorem State.putSite_fills (s : State) (x : Site) : (s.putSite x).fills = s.fills := rfl
@[simp] theorem State.putSite_ops (s : State) (x : Site) : (s.putSite x).ops = s.ops := rfl
@[simp] theorem State.putSite_xpkts (s : State) (x : Site) : (s.putSite x).xpkts = s.xpkts := rfl
@[simp] theorem State.putSite_xcounts (s : State) (x : Site) : (s.putSite x).xcounts = s.xcounts := rfl
@[simp] theorem State.putSite_reinst (s : State) (x : Site) : (s.putSite x).reinst = s.reinst := rfl
@[simp] theorem State.putSite_reports (s : State) (x : Site) : (s.putSite x).reports = s.reports := rfl
@[simp] theorem State.putSite_now (s : State) (x : Site) : (s.putSite x).now = s.now := rfl
@[simp] theorem State.putSite_agenda (s : State) (x : Site) : (s.putSite x).agenda = s.agenda := rfl
@[simp] theorem State.putSite_cur (s : State) (x : Site) : (s.putSite x).cur = s.cur := rfl
@[simp] theorem State.putSite_free (s : State) (x : Site) : (s.putSite x).free = s.free := rfl
@[simp] theorem State.putSite_uid (s : State) (x : Site) : (s.putSite x).uid = s.uid := rfl
@[simp] theorem State.putCore_mem (s : State) (x : Core) : (s.putCore x).mem = s.mem := rfl
@[simp] theorem State.putCore_sites (s : State) (x : Core) : (s.putCore x).sites = s.sites := rfl
@[simp] theorem State.putCore_teams (s : State) (x : Core) : (s.putCore x).teams = s.teams := rfl
@[simp] theorem State.putCore_parts (s : State) (x : Core) : (s.putCore x).parts = s.parts := rfl
@[simp] theorem State.putCore_cmds (s : State) (x : Core) : (s.putCore x).cmds = s.cmds := rfl
@[simp] theorem State.putCore_incs (s : State) (x : Core) : (s.putCore x).incs = s.incs := rfl
@[simp] theorem State.putCore_fills (s : State) (x : Core) : (s.putCore x).fills = s.fills := rfl
@[simp] theorem State.putCore_ops (s : State) (x : Core) : (s.putCore x).ops = s.ops := rfl
@[simp] theorem State.putCore_xpkts (s : State) (x : Core) : (s.putCore x).xpkts = s.xpkts := rfl
@[simp] theorem State.putCore_xcounts (s : State) (x : Core) : (s.putCore x).xcounts = s.xcounts := rfl
@[simp] theorem State.putCore_reinst (s : State) (x : Core) : (s.putCore x).reinst = s.reinst := rfl
@[simp] theorem State.putCore_reports (s : State) (x : Core) : (s.putCore x).reports = s.reports := rfl
@[simp] theorem State.putCore_now (s : State) (x : Core) : (s.putCore x).now = s.now := rfl
@[simp] theorem State.putCore_agenda (s : State) (x : Core) : (s.putCore x).agenda = s.agenda := rfl
@[simp] theorem State.putCore_cur (s : State) (x : Core) : (s.putCore x).cur = s.cur := rfl
@[simp] theorem State.putCore_free (s : State) (x : Core) : (s.putCore x).free = s.free := rfl
@[simp] theorem State.putCore_uid (s : State) (x : Core) : (s.putCore x).uid = s.uid := rfl
@[simp] theorem State.putPart_mem (s : State) (p : Partition) : (s.putPart p).mem = s.mem := rfl
@[simp] theorem State.putPart_sites (s : State) (p : Partition) : (s.putPart p).sites = s.sites := rfl
@[simp] theorem State.putPart_cores (s : State) (p : Partition) : (s.putPart p).cores = s.cores := rfl
@[simp] theorem State.putPart_teams (s : State) (p : Partition) : (s.putPart p).teams = s.teams := rfl
@[simp] theorem State.putPart_cmds (s : State) (p : Partition) : (s.putPart p).cmds = s.cmds := rfl
@[simp] theorem State.putPart_incs (s : State) (p : Partition) : (s.putPart p).incs = s.incs := rfl
@[simp] theorem State.putPart_fills (s : State) (p : Partition) : (s.putPart p).fills = s.fills := rfl
@[simp] theorem State.putPart_ops (s : State) (p : Partition) : (s.putPart p).ops = s.ops := rfl
@[simp] theorem State.putPart_xpkts (s : State) (p : Partition) : (s.putPart p).xpkts = s.xpkts := rfl
@[simp] theorem State.putPart_xcounts (s : State) (p : Partition) : (s.putPart p).xcounts = s.xcounts := rfl
@[simp] theorem State.putPart_reinst (s : State) (p : Partition) : (s.putPart p).reinst = s.reinst := rfl
@[simp] theorem State.putPart_reports (s : State) (p : Partition) : (s.putPart p).reports = s.reports := rfl
@[simp] theorem State.putPart_now (s : State) (p : Partition) : (s.putPart p).now = s.now := rfl
@[simp] theorem State.putPart_agenda (s : State) (p : Partition) : (s.putPart p).agenda = s.agenda := rfl
@[simp] theorem State.putPart_cur (s : State) (p : Partition) : (s.putPart p).cur = s.cur := rfl
@[simp] theorem State.putPart_free (s : State) (p : Partition) : (s.putPart p).free = s.free := rfl
@[simp] theorem State.putPart_uid (s : State) (p : Partition) : (s.putPart p).uid = s.uid := rfl
@[simp] theorem State.park_mem (s : State) (t : Team) (w : Park) : (s.park t w).mem = s.mem := rfl
@[simp] theorem State.park_sites (s : State) (t : Team) (w : Park) : (s.park t w).sites = s.sites := rfl
@[simp] theorem State.park_cores (s : State) (t : Team) (w : Park) : (s.park t w).cores = s.cores := rfl
@[simp] theorem State.park_parts (s : State) (t : Team) (w : Park) : (s.park t w).parts = s.parts := rfl
@[simp] theorem State.park_cmds (s : State) (t : Team) (w : Park) : (s.park t w).cmds = s.cmds := rfl
@[simp] theorem State.park_incs (s : State) (t : Team) (w : Park) : (s.park t w).incs = s.incs := rfl
@[simp] theorem State.park_fills (s : State) (t : Team) (w : Park) : (s.park t w).fills = s.fills := rfl
@[simp] theorem State.park_ops (s : State) (t : Team) (w : Park) : (s.park t w).ops = s.ops := rfl
@[simp] theorem State.park_xpkts (s : State) (t : Team) (w : Park) : (s.park t w).xpkts = s.xpkts := rfl
@[simp] theorem State.park_xcounts (s : State) (t : Team) (w : Park) : (s.park t w).xcounts = s.xcounts := rfl
@[simp] theorem State.park_reinst (s : State) (t : Team) (w : Park) : (s.park t w).reinst = s.reinst := rfl
@[simp] theorem State.park_reports (s : State) (t : Team) (w : Park) : (s.park t w).reports = s.reports := rfl
@[simp] theorem State.park_now (s : State) (t : Team) (w : Park) : (s.park t w).now = s.now := rfl
@[simp] theorem State.park_agenda (s : State) (t : Team) (w : Park) : (s.park t w).agenda = s.agenda := rfl
@[simp] theorem State.park_cur (s : State) (t : Team) (w : Park) : (s.park t w).cur = s.cur := rfl
@[simp] theorem State.park_free (s : State) (t : Team) (w : Park) : (s.park t w).free = s.free := rfl
@[simp] theorem State.park_uid (s : State) (t : Team) (w : Park) : (s.park t w).uid = s.uid := rfl
@[simp] theorem Team.withRegs_id (t : Team) (r : Regs) : (t.withRegs r).id = t.id := rfl
@[simp] theorem Team.withRegs_status (t : Team) (r : Regs) : (t.withRegs r).status = t.status := rfl
@[simp] theorem Team.withRegs_hdr (t : Team) (r : Regs) : (t.withRegs r).hdr = t.hdr := rfl
@[simp] theorem Team.withRegs_place (t : Team) (r : Regs) : (t.withRegs r).place = t.place := rfl
@[simp] theorem Team.withRegs_ctl (t : Team) (r : Regs) : (t.withRegs r).ctl = t.ctl := rfl
@[simp] theorem Team.withRegs_tx (t : Team) (r : Regs) : (t.withRegs r).tx = t.tx := rfl
@[simp] theorem Team.withRegs_pend (t : Team) (r : Regs) : (t.withRegs r).pend = t.pend := rfl
@[simp] theorem Team.withRegs_seq (t : Team) (r : Regs) : (t.withRegs r).seq = t.seq := rfl
@[simp] theorem Team.withRegs_long (t : Team) (r : Regs) : (t.withRegs r).long = t.long := rfl
@[simp] theorem Team.withRegs_forkOpen (t : Team) (r : Regs) : (t.withRegs r).forkOpen = t.forkOpen := rfl
@[simp] theorem Team.withRegs_forkCtr (t : Team) (r : Regs) : (t.withRegs r).forkCtr = t.forkCtr := rfl
@[simp] theorem Team.withRegs_forkCount (t : Team) (r : Regs) : (t.withRegs r).forkCount = t.forkCount := rfl
@[simp] theorem Team.withRegs_forkTok (t : Team) (r : Regs) : (t.withRegs r).forkTok = t.forkTok := rfl
@[simp] theorem Team.withRegs_joinPc (t : Team) (r : Regs) : (t.withRegs r).joinPc = t.joinPc := rfl
@[simp] theorem Team.withRegs_deferred (t : Team) (r : Regs) : (t.withRegs r).deferred = t.deferred := rfl
@[simp] theorem Team.withRegs_handles (t : Team) (r : Regs) : (t.withRegs r).handles = t.handles := rfl
@[simp] theorem Team.withRegs_fbWord1 (t : Team) (r : Regs) : (t.withRegs r).fbWord1 = t.fbWord1 := rfl
@[simp] theorem Team.withRegs_did (t : Team) (r : Regs) : (t.withRegs r).did = t.did := rfl
@[simp] theorem Team.withRegs_wake (t : Team) (r : Regs) : (t.withRegs r).wake = t.wake := rfl
@[simp] theorem Team.withRegs_yieldReq (t : Team) (r : Regs) : (t.withRegs r).yieldReq = t.yieldReq := rfl
@[simp] theorem Team.withRegs_lastIssue (t : Team) (r : Regs) : (t.withRegs r).lastIssue = t.lastIssue := rfl
@[simp] theorem Team.withRegs_resumedAt (t : Team) (r : Regs) : (t.withRegs r).resumedAt = t.resumedAt := rfl
@[simp] theorem Team.withRegs_savedMx (t : Team) (r : Regs) : (t.withRegs r).savedMx = t.savedMx := rfl
@[simp] theorem Team.withRegs_aheadOfEquals (t : Team) (r : Regs) : (t.withRegs r).aheadOfEquals = t.aheadOfEquals := rfl
@[simp] theorem Team.withRegs_fetched (t : Team) (r : Regs) : (t.withRegs r).fetched = t.fetched := rfl
@[simp] theorem Team.withRegs_mwr (t : Team) (r : Regs) : (t.withRegs r).mwr = t.mwr := rfl
@[simp] theorem Team.withRegs_xseq (t : Team) (r : Regs) : (t.withRegs r).xseq = t.xseq := rfl
@[simp] theorem Team.withRegs_cmdKeep (t : Team) (r : Regs) : (t.withRegs r).cmdKeep = t.cmdKeep := rfl
@[simp] theorem Team.withRegs_stalled (t : Team) (r : Regs) : (t.withRegs r).stalled = t.stalled := rfl
@[simp] theorem Team.withRegs_held (t : Team) (r : Regs) : (t.withRegs r).held = t.held := rfl
@[simp] theorem Team.withRegs_spawning (t : Team) (r : Regs) : (t.withRegs r).spawning = t.spawning := rfl
@[simp] theorem Team.withRegs_unsent (t : Team) (r : Regs) : (t.withRegs r).unsent = t.unsent := rfl
@[simp] theorem Team.withRegs_regs (t : Team) (r : Regs) : (t.withRegs r).regs = r := rfl
@[simp] theorem Team.withCtl_id (t : Team) (c : Ctl) : (t.withCtl c).id = t.id := rfl
@[simp] theorem Team.withCtl_status (t : Team) (c : Ctl) : (t.withCtl c).status = t.status := rfl
@[simp] theorem Team.withCtl_hdr (t : Team) (c : Ctl) : (t.withCtl c).hdr = t.hdr := rfl
@[simp] theorem Team.withCtl_place (t : Team) (c : Ctl) : (t.withCtl c).place = t.place := rfl
@[simp] theorem Team.withCtl_regs (t : Team) (c : Ctl) : (t.withCtl c).regs = t.regs := rfl
@[simp] theorem Team.withCtl_tx (t : Team) (c : Ctl) : (t.withCtl c).tx = t.tx := rfl
@[simp] theorem Team.withCtl_pend (t : Team) (c : Ctl) : (t.withCtl c).pend = t.pend := rfl
@[simp] theorem Team.withCtl_seq (t : Team) (c : Ctl) : (t.withCtl c).seq = t.seq := rfl
@[simp] theorem Team.withCtl_long (t : Team) (c : Ctl) : (t.withCtl c).long = t.long := rfl
@[simp] theorem Team.withCtl_forkOpen (t : Team) (c : Ctl) : (t.withCtl c).forkOpen = t.forkOpen := rfl
@[simp] theorem Team.withCtl_forkCtr (t : Team) (c : Ctl) : (t.withCtl c).forkCtr = t.forkCtr := rfl
@[simp] theorem Team.withCtl_forkCount (t : Team) (c : Ctl) : (t.withCtl c).forkCount = t.forkCount := rfl
@[simp] theorem Team.withCtl_forkTok (t : Team) (c : Ctl) : (t.withCtl c).forkTok = t.forkTok := rfl
@[simp] theorem Team.withCtl_joinPc (t : Team) (c : Ctl) : (t.withCtl c).joinPc = t.joinPc := rfl
@[simp] theorem Team.withCtl_deferred (t : Team) (c : Ctl) : (t.withCtl c).deferred = t.deferred := rfl
@[simp] theorem Team.withCtl_handles (t : Team) (c : Ctl) : (t.withCtl c).handles = t.handles := rfl
@[simp] theorem Team.withCtl_fbWord1 (t : Team) (c : Ctl) : (t.withCtl c).fbWord1 = t.fbWord1 := rfl
@[simp] theorem Team.withCtl_did (t : Team) (c : Ctl) : (t.withCtl c).did = t.did := rfl
@[simp] theorem Team.withCtl_wake (t : Team) (c : Ctl) : (t.withCtl c).wake = t.wake := rfl
@[simp] theorem Team.withCtl_yieldReq (t : Team) (c : Ctl) : (t.withCtl c).yieldReq = t.yieldReq := rfl
@[simp] theorem Team.withCtl_lastIssue (t : Team) (c : Ctl) : (t.withCtl c).lastIssue = t.lastIssue := rfl
@[simp] theorem Team.withCtl_resumedAt (t : Team) (c : Ctl) : (t.withCtl c).resumedAt = t.resumedAt := rfl
@[simp] theorem Team.withCtl_savedMx (t : Team) (c : Ctl) : (t.withCtl c).savedMx = t.savedMx := rfl
@[simp] theorem Team.withCtl_aheadOfEquals (t : Team) (c : Ctl) : (t.withCtl c).aheadOfEquals = t.aheadOfEquals := rfl
@[simp] theorem Team.withCtl_fetched (t : Team) (c : Ctl) : (t.withCtl c).fetched = t.fetched := rfl
@[simp] theorem Team.withCtl_mwr (t : Team) (c : Ctl) : (t.withCtl c).mwr = t.mwr := rfl
@[simp] theorem Team.withCtl_xseq (t : Team) (c : Ctl) : (t.withCtl c).xseq = t.xseq := rfl
@[simp] theorem Team.withCtl_cmdKeep (t : Team) (c : Ctl) : (t.withCtl c).cmdKeep = t.cmdKeep := rfl
@[simp] theorem Team.withCtl_stalled (t : Team) (c : Ctl) : (t.withCtl c).stalled = t.stalled := rfl
@[simp] theorem Team.withCtl_held (t : Team) (c : Ctl) : (t.withCtl c).held = t.held := rfl
@[simp] theorem Team.withCtl_spawning (t : Team) (c : Ctl) : (t.withCtl c).spawning = t.spawning := rfl
@[simp] theorem Team.withCtl_unsent (t : Team) (c : Ctl) : (t.withCtl c).unsent = t.unsent := rfl
@[simp] theorem Team.withCtl_ctl (t : Team) (c : Ctl) : (t.withCtl c).ctl = c := rfl
@[simp] theorem Team.setP_id (t : Team) (n : Nat) (m : Mask) : (t.setP n m).id = t.id := rfl
@[simp] theorem Team.setP_status (t : Team) (n : Nat) (m : Mask) : (t.setP n m).status = t.status := rfl
@[simp] theorem Team.setP_hdr (t : Team) (n : Nat) (m : Mask) : (t.setP n m).hdr = t.hdr := rfl
@[simp] theorem Team.setP_place (t : Team) (n : Nat) (m : Mask) : (t.setP n m).place = t.place := rfl
@[simp] theorem Team.setP_ctl (t : Team) (n : Nat) (m : Mask) : (t.setP n m).ctl = t.ctl := rfl
@[simp] theorem Team.setP_tx (t : Team) (n : Nat) (m : Mask) : (t.setP n m).tx = t.tx := rfl
@[simp] theorem Team.setP_pend (t : Team) (n : Nat) (m : Mask) : (t.setP n m).pend = t.pend := rfl
@[simp] theorem Team.setP_seq (t : Team) (n : Nat) (m : Mask) : (t.setP n m).seq = t.seq := rfl
@[simp] theorem Team.setP_long (t : Team) (n : Nat) (m : Mask) : (t.setP n m).long = t.long := rfl
@[simp] theorem Team.setP_forkOpen (t : Team) (n : Nat) (m : Mask) : (t.setP n m).forkOpen = t.forkOpen := rfl
@[simp] theorem Team.setP_forkCtr (t : Team) (n : Nat) (m : Mask) : (t.setP n m).forkCtr = t.forkCtr := rfl
@[simp] theorem Team.setP_forkCount (t : Team) (n : Nat) (m : Mask) : (t.setP n m).forkCount = t.forkCount := rfl
@[simp] theorem Team.setP_forkTok (t : Team) (n : Nat) (m : Mask) : (t.setP n m).forkTok = t.forkTok := rfl
@[simp] theorem Team.setP_joinPc (t : Team) (n : Nat) (m : Mask) : (t.setP n m).joinPc = t.joinPc := rfl
@[simp] theorem Team.setP_deferred (t : Team) (n : Nat) (m : Mask) : (t.setP n m).deferred = t.deferred := rfl
@[simp] theorem Team.setP_handles (t : Team) (n : Nat) (m : Mask) : (t.setP n m).handles = t.handles := rfl
@[simp] theorem Team.setP_fbWord1 (t : Team) (n : Nat) (m : Mask) : (t.setP n m).fbWord1 = t.fbWord1 := rfl
@[simp] theorem Team.setP_did (t : Team) (n : Nat) (m : Mask) : (t.setP n m).did = t.did := rfl
@[simp] theorem Team.setP_wake (t : Team) (n : Nat) (m : Mask) : (t.setP n m).wake = t.wake := rfl
@[simp] theorem Team.setP_yieldReq (t : Team) (n : Nat) (m : Mask) : (t.setP n m).yieldReq = t.yieldReq := rfl
@[simp] theorem Team.setP_lastIssue (t : Team) (n : Nat) (m : Mask) : (t.setP n m).lastIssue = t.lastIssue := rfl
@[simp] theorem Team.setP_resumedAt (t : Team) (n : Nat) (m : Mask) : (t.setP n m).resumedAt = t.resumedAt := rfl
@[simp] theorem Team.setP_savedMx (t : Team) (n : Nat) (m : Mask) : (t.setP n m).savedMx = t.savedMx := rfl
@[simp] theorem Team.setP_aheadOfEquals (t : Team) (n : Nat) (m : Mask) : (t.setP n m).aheadOfEquals = t.aheadOfEquals := rfl
@[simp] theorem Team.setP_fetched (t : Team) (n : Nat) (m : Mask) : (t.setP n m).fetched = t.fetched := rfl
@[simp] theorem Team.setP_mwr (t : Team) (n : Nat) (m : Mask) : (t.setP n m).mwr = t.mwr := rfl
@[simp] theorem Team.setP_xseq (t : Team) (n : Nat) (m : Mask) : (t.setP n m).xseq = t.xseq := rfl
@[simp] theorem Team.setP_cmdKeep (t : Team) (n : Nat) (m : Mask) : (t.setP n m).cmdKeep = t.cmdKeep := rfl
@[simp] theorem Team.setP_stalled (t : Team) (n : Nat) (m : Mask) : (t.setP n m).stalled = t.stalled := rfl
@[simp] theorem Team.setP_held (t : Team) (n : Nat) (m : Mask) : (t.setP n m).held = t.held := rfl
@[simp] theorem Team.setP_spawning (t : Team) (n : Nat) (m : Mask) : (t.setP n m).spawning = t.spawning := rfl
@[simp] theorem Team.setP_unsent (t : Team) (n : Nat) (m : Mask) : (t.setP n m).unsent = t.unsent := rfl
@[simp] theorem Team.setP_regs_drift (t : Team) (n : Nat) (m : Mask) : (t.setP n m).regs.drift = t.regs.drift := rfl
@[simp] theorem Team.setP_regs_k (t : Team) (n : Nat) (m : Mask) : (t.setP n m).regs.k = t.regs.k := rfl
@[simp] theorem Team.setP_regs_q (t : Team) (n : Nat) (m : Mask) : (t.setP n m).regs.q = t.regs.q := rfl
@[simp] theorem Team.setP_regs_s (t : Team) (n : Nat) (m : Mask) : (t.setP n m).regs.s = t.regs.s := rfl
@[simp] theorem Team.setS_id (t : Team) (n : Nat) (v : Word) : (t.setS n v).id = t.id := rfl
@[simp] theorem Team.setS_status (t : Team) (n : Nat) (v : Word) : (t.setS n v).status = t.status := rfl
@[simp] theorem Team.setS_hdr (t : Team) (n : Nat) (v : Word) : (t.setS n v).hdr = t.hdr := rfl
@[simp] theorem Team.setS_place (t : Team) (n : Nat) (v : Word) : (t.setS n v).place = t.place := rfl
@[simp] theorem Team.setS_ctl (t : Team) (n : Nat) (v : Word) : (t.setS n v).ctl = t.ctl := rfl
@[simp] theorem Team.setS_tx (t : Team) (n : Nat) (v : Word) : (t.setS n v).tx = t.tx := rfl
@[simp] theorem Team.setS_pend (t : Team) (n : Nat) (v : Word) : (t.setS n v).pend = t.pend := rfl
@[simp] theorem Team.setS_seq (t : Team) (n : Nat) (v : Word) : (t.setS n v).seq = t.seq := rfl
@[simp] theorem Team.setS_long (t : Team) (n : Nat) (v : Word) : (t.setS n v).long = t.long := rfl
@[simp] theorem Team.setS_forkOpen (t : Team) (n : Nat) (v : Word) : (t.setS n v).forkOpen = t.forkOpen := rfl
@[simp] theorem Team.setS_forkCtr (t : Team) (n : Nat) (v : Word) : (t.setS n v).forkCtr = t.forkCtr := rfl
@[simp] theorem Team.setS_forkCount (t : Team) (n : Nat) (v : Word) : (t.setS n v).forkCount = t.forkCount := rfl
@[simp] theorem Team.setS_forkTok (t : Team) (n : Nat) (v : Word) : (t.setS n v).forkTok = t.forkTok := rfl
@[simp] theorem Team.setS_joinPc (t : Team) (n : Nat) (v : Word) : (t.setS n v).joinPc = t.joinPc := rfl
@[simp] theorem Team.setS_deferred (t : Team) (n : Nat) (v : Word) : (t.setS n v).deferred = t.deferred := rfl
@[simp] theorem Team.setS_handles (t : Team) (n : Nat) (v : Word) : (t.setS n v).handles = t.handles := rfl
@[simp] theorem Team.setS_fbWord1 (t : Team) (n : Nat) (v : Word) : (t.setS n v).fbWord1 = t.fbWord1 := rfl
@[simp] theorem Team.setS_did (t : Team) (n : Nat) (v : Word) : (t.setS n v).did = t.did := rfl
@[simp] theorem Team.setS_wake (t : Team) (n : Nat) (v : Word) : (t.setS n v).wake = t.wake := rfl
@[simp] theorem Team.setS_yieldReq (t : Team) (n : Nat) (v : Word) : (t.setS n v).yieldReq = t.yieldReq := rfl
@[simp] theorem Team.setS_lastIssue (t : Team) (n : Nat) (v : Word) : (t.setS n v).lastIssue = t.lastIssue := rfl
@[simp] theorem Team.setS_resumedAt (t : Team) (n : Nat) (v : Word) : (t.setS n v).resumedAt = t.resumedAt := rfl
@[simp] theorem Team.setS_savedMx (t : Team) (n : Nat) (v : Word) : (t.setS n v).savedMx = t.savedMx := rfl
@[simp] theorem Team.setS_aheadOfEquals (t : Team) (n : Nat) (v : Word) : (t.setS n v).aheadOfEquals = t.aheadOfEquals := rfl
@[simp] theorem Team.setS_fetched (t : Team) (n : Nat) (v : Word) : (t.setS n v).fetched = t.fetched := rfl
@[simp] theorem Team.setS_mwr (t : Team) (n : Nat) (v : Word) : (t.setS n v).mwr = t.mwr := rfl
@[simp] theorem Team.setS_xseq (t : Team) (n : Nat) (v : Word) : (t.setS n v).xseq = t.xseq := rfl
@[simp] theorem Team.setS_cmdKeep (t : Team) (n : Nat) (v : Word) : (t.setS n v).cmdKeep = t.cmdKeep := rfl
@[simp] theorem Team.setS_stalled (t : Team) (n : Nat) (v : Word) : (t.setS n v).stalled = t.stalled := rfl
@[simp] theorem Team.setS_held (t : Team) (n : Nat) (v : Word) : (t.setS n v).held = t.held := rfl
@[simp] theorem Team.setS_spawning (t : Team) (n : Nat) (v : Word) : (t.setS n v).spawning = t.spawning := rfl
@[simp] theorem Team.setS_unsent (t : Team) (n : Nat) (v : Word) : (t.setS n v).unsent = t.unsent := rfl
@[simp] theorem Team.setS_regs_drift (t : Team) (n : Nat) (v : Word) : (t.setS n v).regs.drift = t.regs.drift := rfl
@[simp] theorem Team.setS_regs_k (t : Team) (n : Nat) (v : Word) : (t.setS n v).regs.k = t.regs.k := rfl
@[simp] theorem Team.setS_regs_q (t : Team) (n : Nat) (v : Word) : (t.setS n v).regs.q = t.regs.q := rfl
@[simp] theorem Team.setS_regs_p (t : Team) (n : Nat) (v : Word) : (t.setS n v).regs.p = t.regs.p := rfl
@[simp] theorem Team.setK_id (t : Team) (n : Nat) (v : LaneVec) : (t.setK n v).id = t.id := rfl
@[simp] theorem Team.setK_status (t : Team) (n : Nat) (v : LaneVec) : (t.setK n v).status = t.status := rfl
@[simp] theorem Team.setK_hdr (t : Team) (n : Nat) (v : LaneVec) : (t.setK n v).hdr = t.hdr := rfl
@[simp] theorem Team.setK_place (t : Team) (n : Nat) (v : LaneVec) : (t.setK n v).place = t.place := rfl
@[simp] theorem Team.setK_ctl (t : Team) (n : Nat) (v : LaneVec) : (t.setK n v).ctl = t.ctl := rfl
@[simp] theorem Team.setK_tx (t : Team) (n : Nat) (v : LaneVec) : (t.setK n v).tx = t.tx := rfl
@[simp] theorem Team.setK_pend (t : Team) (n : Nat) (v : LaneVec) : (t.setK n v).pend = t.pend := rfl
@[simp] theorem Team.setK_seq (t : Team) (n : Nat) (v : LaneVec) : (t.setK n v).seq = t.seq := rfl
@[simp] theorem Team.setK_long (t : Team) (n : Nat) (v : LaneVec) : (t.setK n v).long = t.long := rfl
@[simp] theorem Team.setK_forkOpen (t : Team) (n : Nat) (v : LaneVec) : (t.setK n v).forkOpen = t.forkOpen := rfl
@[simp] theorem Team.setK_forkCtr (t : Team) (n : Nat) (v : LaneVec) : (t.setK n v).forkCtr = t.forkCtr := rfl
@[simp] theorem Team.setK_forkCount (t : Team) (n : Nat) (v : LaneVec) : (t.setK n v).forkCount = t.forkCount := rfl
@[simp] theorem Team.setK_forkTok (t : Team) (n : Nat) (v : LaneVec) : (t.setK n v).forkTok = t.forkTok := rfl
@[simp] theorem Team.setK_joinPc (t : Team) (n : Nat) (v : LaneVec) : (t.setK n v).joinPc = t.joinPc := rfl
@[simp] theorem Team.setK_deferred (t : Team) (n : Nat) (v : LaneVec) : (t.setK n v).deferred = t.deferred := rfl
@[simp] theorem Team.setK_handles (t : Team) (n : Nat) (v : LaneVec) : (t.setK n v).handles = t.handles := rfl
@[simp] theorem Team.setK_fbWord1 (t : Team) (n : Nat) (v : LaneVec) : (t.setK n v).fbWord1 = t.fbWord1 := rfl
@[simp] theorem Team.setK_did (t : Team) (n : Nat) (v : LaneVec) : (t.setK n v).did = t.did := rfl
@[simp] theorem Team.setK_wake (t : Team) (n : Nat) (v : LaneVec) : (t.setK n v).wake = t.wake := rfl
@[simp] theorem Team.setK_yieldReq (t : Team) (n : Nat) (v : LaneVec) : (t.setK n v).yieldReq = t.yieldReq := rfl
@[simp] theorem Team.setK_lastIssue (t : Team) (n : Nat) (v : LaneVec) : (t.setK n v).lastIssue = t.lastIssue := rfl
@[simp] theorem Team.setK_resumedAt (t : Team) (n : Nat) (v : LaneVec) : (t.setK n v).resumedAt = t.resumedAt := rfl
@[simp] theorem Team.setK_savedMx (t : Team) (n : Nat) (v : LaneVec) : (t.setK n v).savedMx = t.savedMx := rfl
@[simp] theorem Team.setK_aheadOfEquals (t : Team) (n : Nat) (v : LaneVec) : (t.setK n v).aheadOfEquals = t.aheadOfEquals := rfl
@[simp] theorem Team.setK_fetched (t : Team) (n : Nat) (v : LaneVec) : (t.setK n v).fetched = t.fetched := rfl
@[simp] theorem Team.setK_mwr (t : Team) (n : Nat) (v : LaneVec) : (t.setK n v).mwr = t.mwr := rfl
@[simp] theorem Team.setK_xseq (t : Team) (n : Nat) (v : LaneVec) : (t.setK n v).xseq = t.xseq := rfl
@[simp] theorem Team.setK_cmdKeep (t : Team) (n : Nat) (v : LaneVec) : (t.setK n v).cmdKeep = t.cmdKeep := rfl
@[simp] theorem Team.setK_stalled (t : Team) (n : Nat) (v : LaneVec) : (t.setK n v).stalled = t.stalled := rfl
@[simp] theorem Team.setK_held (t : Team) (n : Nat) (v : LaneVec) : (t.setK n v).held = t.held := rfl
@[simp] theorem Team.setK_spawning (t : Team) (n : Nat) (v : LaneVec) : (t.setK n v).spawning = t.spawning := rfl
@[simp] theorem Team.setK_unsent (t : Team) (n : Nat) (v : LaneVec) : (t.setK n v).unsent = t.unsent := rfl
@[simp] theorem Team.setK_regs_drift (t : Team) (n : Nat) (v : LaneVec) : (t.setK n v).regs.drift = t.regs.drift := rfl
@[simp] theorem Team.setK_regs_q (t : Team) (n : Nat) (v : LaneVec) : (t.setK n v).regs.q = t.regs.q := rfl
@[simp] theorem Team.setK_regs_s (t : Team) (n : Nat) (v : LaneVec) : (t.setK n v).regs.s = t.regs.s := rfl
@[simp] theorem Team.setK_regs_p (t : Team) (n : Nat) (v : LaneVec) : (t.setK n v).regs.p = t.regs.p := rfl
@[simp] theorem Team.setQueue_id (t : Team) (n : Nat) (q : Queue) : (t.setQueue n q).id = t.id := rfl
@[simp] theorem Team.setQueue_status (t : Team) (n : Nat) (q : Queue) : (t.setQueue n q).status = t.status := rfl
@[simp] theorem Team.setQueue_hdr (t : Team) (n : Nat) (q : Queue) : (t.setQueue n q).hdr = t.hdr := rfl
@[simp] theorem Team.setQueue_place (t : Team) (n : Nat) (q : Queue) : (t.setQueue n q).place = t.place := rfl
@[simp] theorem Team.setQueue_ctl (t : Team) (n : Nat) (q : Queue) : (t.setQueue n q).ctl = t.ctl := rfl
@[simp] theorem Team.setQueue_tx (t : Team) (n : Nat) (q : Queue) : (t.setQueue n q).tx = t.tx := rfl
@[simp] theorem Team.setQueue_pend (t : Team) (n : Nat) (q : Queue) : (t.setQueue n q).pend = t.pend := rfl
@[simp] theorem Team.setQueue_seq (t : Team) (n : Nat) (q : Queue) : (t.setQueue n q).seq = t.seq := rfl
@[simp] theorem Team.setQueue_long (t : Team) (n : Nat) (q : Queue) : (t.setQueue n q).long = t.long := rfl
@[simp] theorem Team.setQueue_forkOpen (t : Team) (n : Nat) (q : Queue) : (t.setQueue n q).forkOpen = t.forkOpen := rfl
@[simp] theorem Team.setQueue_forkCtr (t : Team) (n : Nat) (q : Queue) : (t.setQueue n q).forkCtr = t.forkCtr := rfl
@[simp] theorem Team.setQueue_forkCount (t : Team) (n : Nat) (q : Queue) : (t.setQueue n q).forkCount = t.forkCount := rfl
@[simp] theorem Team.setQueue_forkTok (t : Team) (n : Nat) (q : Queue) : (t.setQueue n q).forkTok = t.forkTok := rfl
@[simp] theorem Team.setQueue_joinPc (t : Team) (n : Nat) (q : Queue) : (t.setQueue n q).joinPc = t.joinPc := rfl
@[simp] theorem Team.setQueue_deferred (t : Team) (n : Nat) (q : Queue) : (t.setQueue n q).deferred = t.deferred := rfl
@[simp] theorem Team.setQueue_handles (t : Team) (n : Nat) (q : Queue) : (t.setQueue n q).handles = t.handles := rfl
@[simp] theorem Team.setQueue_fbWord1 (t : Team) (n : Nat) (q : Queue) : (t.setQueue n q).fbWord1 = t.fbWord1 := rfl
@[simp] theorem Team.setQueue_did (t : Team) (n : Nat) (q : Queue) : (t.setQueue n q).did = t.did := rfl
@[simp] theorem Team.setQueue_wake (t : Team) (n : Nat) (q : Queue) : (t.setQueue n q).wake = t.wake := rfl
@[simp] theorem Team.setQueue_yieldReq (t : Team) (n : Nat) (q : Queue) : (t.setQueue n q).yieldReq = t.yieldReq := rfl
@[simp] theorem Team.setQueue_lastIssue (t : Team) (n : Nat) (q : Queue) : (t.setQueue n q).lastIssue = t.lastIssue := rfl
@[simp] theorem Team.setQueue_resumedAt (t : Team) (n : Nat) (q : Queue) : (t.setQueue n q).resumedAt = t.resumedAt := rfl
@[simp] theorem Team.setQueue_savedMx (t : Team) (n : Nat) (q : Queue) : (t.setQueue n q).savedMx = t.savedMx := rfl
@[simp] theorem Team.setQueue_aheadOfEquals (t : Team) (n : Nat) (q : Queue) : (t.setQueue n q).aheadOfEquals = t.aheadOfEquals := rfl
@[simp] theorem Team.setQueue_fetched (t : Team) (n : Nat) (q : Queue) : (t.setQueue n q).fetched = t.fetched := rfl
@[simp] theorem Team.setQueue_mwr (t : Team) (n : Nat) (q : Queue) : (t.setQueue n q).mwr = t.mwr := rfl
@[simp] theorem Team.setQueue_xseq (t : Team) (n : Nat) (q : Queue) : (t.setQueue n q).xseq = t.xseq := rfl
@[simp] theorem Team.setQueue_cmdKeep (t : Team) (n : Nat) (q : Queue) : (t.setQueue n q).cmdKeep = t.cmdKeep := rfl
@[simp] theorem Team.setQueue_stalled (t : Team) (n : Nat) (q : Queue) : (t.setQueue n q).stalled = t.stalled := rfl
@[simp] theorem Team.setQueue_held (t : Team) (n : Nat) (q : Queue) : (t.setQueue n q).held = t.held := rfl
@[simp] theorem Team.setQueue_spawning (t : Team) (n : Nat) (q : Queue) : (t.setQueue n q).spawning = t.spawning := rfl
@[simp] theorem Team.setQueue_unsent (t : Team) (n : Nat) (q : Queue) : (t.setQueue n q).unsent = t.unsent := rfl
@[simp] theorem Team.setQueue_regs_drift (t : Team) (n : Nat) (q : Queue) : (t.setQueue n q).regs.drift = t.regs.drift := rfl
@[simp] theorem Team.setQueue_regs_k (t : Team) (n : Nat) (q : Queue) : (t.setQueue n q).regs.k = t.regs.k := rfl
@[simp] theorem Team.setQueue_regs_s (t : Team) (n : Nat) (q : Queue) : (t.setQueue n q).regs.s = t.regs.s := rfl
@[simp] theorem Team.setQueue_regs_p (t : Team) (n : Nat) (q : Queue) : (t.setQueue n q).regs.p = t.regs.p := rfl
@[simp] theorem Team.pushDrift_id (t : Team) (v : LaneVec) : (t.pushDrift v).id = t.id := rfl
@[simp] theorem Team.pushDrift_status (t : Team) (v : LaneVec) : (t.pushDrift v).status = t.status := rfl
@[simp] theorem Team.pushDrift_hdr (t : Team) (v : LaneVec) : (t.pushDrift v).hdr = t.hdr := rfl
@[simp] theorem Team.pushDrift_place (t : Team) (v : LaneVec) : (t.pushDrift v).place = t.place := rfl
@[simp] theorem Team.pushDrift_ctl (t : Team) (v : LaneVec) : (t.pushDrift v).ctl = t.ctl := rfl
@[simp] theorem Team.pushDrift_tx (t : Team) (v : LaneVec) : (t.pushDrift v).tx = t.tx := rfl
@[simp] theorem Team.pushDrift_seq (t : Team) (v : LaneVec) : (t.pushDrift v).seq = t.seq := rfl
@[simp] theorem Team.pushDrift_long (t : Team) (v : LaneVec) : (t.pushDrift v).long = t.long := rfl
@[simp] theorem Team.pushDrift_forkOpen (t : Team) (v : LaneVec) : (t.pushDrift v).forkOpen = t.forkOpen := rfl
@[simp] theorem Team.pushDrift_forkCtr (t : Team) (v : LaneVec) : (t.pushDrift v).forkCtr = t.forkCtr := rfl
@[simp] theorem Team.pushDrift_forkCount (t : Team) (v : LaneVec) : (t.pushDrift v).forkCount = t.forkCount := rfl
@[simp] theorem Team.pushDrift_forkTok (t : Team) (v : LaneVec) : (t.pushDrift v).forkTok = t.forkTok := rfl
@[simp] theorem Team.pushDrift_joinPc (t : Team) (v : LaneVec) : (t.pushDrift v).joinPc = t.joinPc := rfl
@[simp] theorem Team.pushDrift_deferred (t : Team) (v : LaneVec) : (t.pushDrift v).deferred = t.deferred := rfl
@[simp] theorem Team.pushDrift_handles (t : Team) (v : LaneVec) : (t.pushDrift v).handles = t.handles := rfl
@[simp] theorem Team.pushDrift_fbWord1 (t : Team) (v : LaneVec) : (t.pushDrift v).fbWord1 = t.fbWord1 := rfl
@[simp] theorem Team.pushDrift_did (t : Team) (v : LaneVec) : (t.pushDrift v).did = t.did := rfl
@[simp] theorem Team.pushDrift_wake (t : Team) (v : LaneVec) : (t.pushDrift v).wake = t.wake := rfl
@[simp] theorem Team.pushDrift_yieldReq (t : Team) (v : LaneVec) : (t.pushDrift v).yieldReq = t.yieldReq := rfl
@[simp] theorem Team.pushDrift_lastIssue (t : Team) (v : LaneVec) : (t.pushDrift v).lastIssue = t.lastIssue := rfl
@[simp] theorem Team.pushDrift_resumedAt (t : Team) (v : LaneVec) : (t.pushDrift v).resumedAt = t.resumedAt := rfl
@[simp] theorem Team.pushDrift_savedMx (t : Team) (v : LaneVec) : (t.pushDrift v).savedMx = t.savedMx := rfl
@[simp] theorem Team.pushDrift_aheadOfEquals (t : Team) (v : LaneVec) : (t.pushDrift v).aheadOfEquals = t.aheadOfEquals := rfl
@[simp] theorem Team.pushDrift_fetched (t : Team) (v : LaneVec) : (t.pushDrift v).fetched = t.fetched := rfl
@[simp] theorem Team.pushDrift_mwr (t : Team) (v : LaneVec) : (t.pushDrift v).mwr = t.mwr := rfl
@[simp] theorem Team.pushDrift_xseq (t : Team) (v : LaneVec) : (t.pushDrift v).xseq = t.xseq := rfl
@[simp] theorem Team.pushDrift_cmdKeep (t : Team) (v : LaneVec) : (t.pushDrift v).cmdKeep = t.cmdKeep := rfl
@[simp] theorem Team.pushDrift_stalled (t : Team) (v : LaneVec) : (t.pushDrift v).stalled = t.stalled := rfl
@[simp] theorem Team.pushDrift_held (t : Team) (v : LaneVec) : (t.pushDrift v).held = t.held := rfl
@[simp] theorem Team.pushDrift_spawning (t : Team) (v : LaneVec) : (t.pushDrift v).spawning = t.spawning := rfl
@[simp] theorem Team.pushDrift_unsent (t : Team) (v : LaneVec) : (t.pushDrift v).unsent = t.unsent := rfl
@[simp] theorem Team.pushDrift_regs_k (t : Team) (v : LaneVec) : (t.pushDrift v).regs.k = t.regs.k := rfl
@[simp] theorem Team.pushDrift_regs_q (t : Team) (v : LaneVec) : (t.pushDrift v).regs.q = t.regs.q := rfl
@[simp] theorem Team.pushDrift_regs_s (t : Team) (v : LaneVec) : (t.pushDrift v).regs.s = t.regs.s := rfl
@[simp] theorem Team.pushDrift_regs_p (t : Team) (v : LaneVec) : (t.pushDrift v).regs.p = t.regs.p := rfl
@[simp] theorem Team.finish_id (t : Team) (pc : Word) : (t.finish pc).id = t.id := rfl
@[simp] theorem Team.finish_status (t : Team) (pc : Word) : (t.finish pc).status = t.status := rfl
@[simp] theorem Team.finish_hdr (t : Team) (pc : Word) : (t.finish pc).hdr = t.hdr := rfl
@[simp] theorem Team.finish_place (t : Team) (pc : Word) : (t.finish pc).place = t.place := rfl
@[simp] theorem Team.finish_regs (t : Team) (pc : Word) : (t.finish pc).regs = t.regs := rfl
@[simp] theorem Team.finish_tx (t : Team) (pc : Word) : (t.finish pc).tx = t.tx := rfl
@[simp] theorem Team.finish_pend (t : Team) (pc : Word) : (t.finish pc).pend = t.pend := rfl
@[simp] theorem Team.finish_seq (t : Team) (pc : Word) : (t.finish pc).seq = t.seq := rfl
@[simp] theorem Team.finish_long (t : Team) (pc : Word) : (t.finish pc).long = t.long := rfl
@[simp] theorem Team.finish_forkOpen (t : Team) (pc : Word) : (t.finish pc).forkOpen = t.forkOpen := rfl
@[simp] theorem Team.finish_forkCtr (t : Team) (pc : Word) : (t.finish pc).forkCtr = t.forkCtr := rfl
@[simp] theorem Team.finish_forkCount (t : Team) (pc : Word) : (t.finish pc).forkCount = t.forkCount := rfl
@[simp] theorem Team.finish_forkTok (t : Team) (pc : Word) : (t.finish pc).forkTok = t.forkTok := rfl
@[simp] theorem Team.finish_joinPc (t : Team) (pc : Word) : (t.finish pc).joinPc = t.joinPc := rfl
@[simp] theorem Team.finish_deferred (t : Team) (pc : Word) : (t.finish pc).deferred = t.deferred := rfl
@[simp] theorem Team.finish_handles (t : Team) (pc : Word) : (t.finish pc).handles = t.handles := rfl
@[simp] theorem Team.finish_fbWord1 (t : Team) (pc : Word) : (t.finish pc).fbWord1 = t.fbWord1 := rfl
@[simp] theorem Team.finish_yieldReq (t : Team) (pc : Word) : (t.finish pc).yieldReq = t.yieldReq := rfl
@[simp] theorem Team.finish_lastIssue (t : Team) (pc : Word) : (t.finish pc).lastIssue = t.lastIssue := rfl
@[simp] theorem Team.finish_resumedAt (t : Team) (pc : Word) : (t.finish pc).resumedAt = t.resumedAt := rfl
@[simp] theorem Team.finish_savedMx (t : Team) (pc : Word) : (t.finish pc).savedMx = t.savedMx := rfl
@[simp] theorem Team.finish_aheadOfEquals (t : Team) (pc : Word) : (t.finish pc).aheadOfEquals = t.aheadOfEquals := rfl
@[simp] theorem Team.finish_fetched (t : Team) (pc : Word) : (t.finish pc).fetched = t.fetched := rfl
@[simp] theorem Team.finish_mwr (t : Team) (pc : Word) : (t.finish pc).mwr = t.mwr := rfl
@[simp] theorem Team.finish_xseq (t : Team) (pc : Word) : (t.finish pc).xseq = t.xseq := rfl
@[simp] theorem Team.finish_cmdKeep (t : Team) (pc : Word) : (t.finish pc).cmdKeep = t.cmdKeep := rfl
@[simp] theorem Team.finish_wake (t : Team) (pc : Word) : (t.finish pc).wake = none := rfl
@[simp] theorem Team.finish_did (t : Team) (pc : Word) : (t.finish pc).did = 0 := rfl
@[simp] theorem Team.finish_stalled (t : Team) (pc : Word) : (t.finish pc).stalled = none := rfl
@[simp] theorem Team.finish_held (t : Team) (pc : Word) : (t.finish pc).held = false := rfl
@[simp] theorem Team.finish_spawning (t : Team) (pc : Word) : (t.finish pc).spawning = [] := rfl
@[simp] theorem Team.finish_unsent (t : Team) (pc : Word) : (t.finish pc).unsent = [] := rfl
@[simp] theorem Team.next_id (t : Team) : (t.next).id = t.id := rfl
@[simp] theorem Team.next_status (t : Team) : (t.next).status = t.status := rfl
@[simp] theorem Team.next_hdr (t : Team) : (t.next).hdr = t.hdr := rfl
@[simp] theorem Team.next_place (t : Team) : (t.next).place = t.place := rfl
@[simp] theorem Team.next_regs (t : Team) : (t.next).regs = t.regs := rfl
@[simp] theorem Team.next_tx (t : Team) : (t.next).tx = t.tx := rfl
@[simp] theorem Team.next_pend (t : Team) : (t.next).pend = t.pend := rfl
@[simp] theorem Team.next_seq (t : Team) : (t.next).seq = t.seq := rfl
@[simp] theorem Team.next_long (t : Team) : (t.next).long = t.long := rfl
@[simp] theorem Team.next_forkOpen (t : Team) : (t.next).forkOpen = t.forkOpen := rfl
@[simp] theorem Team.next_forkCtr (t : Team) : (t.next).forkCtr = t.forkCtr := rfl
@[simp] theorem Team.next_forkCount (t : Team) : (t.next).forkCount = t.forkCount := rfl
@[simp] theorem Team.next_forkTok (t : Team) : (t.next).forkTok = t.forkTok := rfl
@[simp] theorem Team.next_joinPc (t : Team) : (t.next).joinPc = t.joinPc := rfl
@[simp] theorem Team.next_deferred (t : Team) : (t.next).deferred = t.deferred := rfl
@[simp] theorem Team.next_handles (t : Team) : (t.next).handles = t.handles := rfl
@[simp] theorem Team.next_fbWord1 (t : Team) : (t.next).fbWord1 = t.fbWord1 := rfl
@[simp] theorem Team.next_yieldReq (t : Team) : (t.next).yieldReq = t.yieldReq := rfl
@[simp] theorem Team.next_lastIssue (t : Team) : (t.next).lastIssue = t.lastIssue := rfl
@[simp] theorem Team.next_resumedAt (t : Team) : (t.next).resumedAt = t.resumedAt := rfl
@[simp] theorem Team.next_savedMx (t : Team) : (t.next).savedMx = t.savedMx := rfl
@[simp] theorem Team.next_aheadOfEquals (t : Team) : (t.next).aheadOfEquals = t.aheadOfEquals := rfl
@[simp] theorem Team.next_fetched (t : Team) : (t.next).fetched = t.fetched := rfl
@[simp] theorem Team.next_mwr (t : Team) : (t.next).mwr = t.mwr := rfl
@[simp] theorem Team.next_xseq (t : Team) : (t.next).xseq = t.xseq := rfl
@[simp] theorem Team.next_cmdKeep (t : Team) : (t.next).cmdKeep = t.cmdKeep := rfl
@[simp] theorem Team.next_wake (t : Team) : (t.next).wake = none := rfl
@[simp] theorem Team.next_did (t : Team) : (t.next).did = 0 := rfl
@[simp] theorem Team.next_stalled (t : Team) : (t.next).stalled = none := rfl
@[simp] theorem Team.next_held (t : Team) : (t.next).held = false := rfl
@[simp] theorem Team.next_spawning (t : Team) : (t.next).spawning = [] := rfl
@[simp] theorem Team.next_unsent (t : Team) : (t.next).unsent = [] := rfl
@[simp] theorem Team.finish_ctl_live (t : Team) (pc : Word) : (t.finish pc).ctl.live = t.ctl.live := rfl
@[simp] theorem Team.finish_ctl_cur (t : Team) (pc : Word) : (t.finish pc).ctl.cur = t.ctl.cur := rfl
@[simp] theorem Team.finish_ctl_brk (t : Team) (pc : Word) : (t.finish pc).ctl.brk = t.ctl.brk := rfl
@[simp] theorem Team.finish_ctl_stack (t : Team) (pc : Word) : (t.finish pc).ctl.stack = t.ctl.stack := rfl
@[simp] theorem Team.finish_ctl_fmt (t : Team) (pc : Word) : (t.finish pc).ctl.fmt = t.ctl.fmt := rfl
@[simp] theorem Team.finish_ctl_msel (t : Team) (pc : Word) : (t.finish pc).ctl.msel = t.ctl.msel := rfl
@[simp] theorem Team.finish_ctl_priv (t : Team) (pc : Word) : (t.finish pc).ctl.priv = t.ctl.priv := rfl
@[simp] theorem Team.finish_ctl_inHandler (t : Team) (pc : Word) : (t.finish pc).ctl.inHandler = t.ctl.inHandler := rfl
@[simp] theorem Team.finish_ctl_tvb (t : Team) (pc : Word) : (t.finish pc).ctl.tvb = t.ctl.tvb := rfl
@[simp] theorem Team.finish_ctl_home (t : Team) (pc : Word) : (t.finish pc).ctl.home = t.ctl.home := rfl
@[simp] theorem Team.finish_ctl_acting (t : Team) (pc : Word) : (t.finish pc).ctl.acting = t.ctl.acting := rfl
@[simp] theorem Team.finish_pc (t : Team) (pc : Word) : (t.finish pc).ctl.pc = pc := rfl
@[simp] theorem Team.finish_hint (t : Team) (pc : Word) : (t.finish pc).ctl.hint = {} := rfl
@[simp] theorem Team.next_pc (t : Team) : t.next.ctl.pc = t.ctl.pc + 4 := rfl
@[simp] theorem Team.next_hint (t : Team) : t.next.ctl.hint = {} := rfl

end Sys2Proof.Machine
end

