-- ==== Sys2Proof/Laws/Records.lean ====
section
/-! SUPPORT. Records read back: a team, site, core or partition that was put is the one found, and the others stay. -/

namespace Sys2Proof.Machine

theorem State.team?_id {s : State} {i : Nat} {t : Team} (h : s.team? i = some t) : t.id = i := by
  have := List.find?_some h
  simpa using this

theorem State.curTeam?_id {s : State} {t : Team} (h : s.curTeam? = some t) : t.id = s.cur := State.team?_id h

theorem find?_replace {t : Team} (i : Nat) (l : List Team) :
    (l.map (fun u => if u.id == t.id then t else u)).find? (fun u => u.id == i) =
      if i = t.id then (l.find? (fun u => u.id == i)).map (fun _ => t) else l.find? (fun u => u.id == i) := by
  induction l with
  | nil => simp
  | cons u r ih =>
    rw [List.map_cons, List.find?_cons, List.find?_cons, ih]
    by_cases h1 : u.id = t.id
    · by_cases h2 : i = t.id
      · simp [h1, h2]
      · have h3 : (t.id == i) = false := by simpa using fun h => h2 h.symm
        simp [h1, h2, h3]
    · by_cases h2 : i = t.id
      · subst h2
        have h3 : (u.id == t.id) = false := by simpa using h1
        simp [h3]
      · simp [h1, h2]

/-- A team that was put is found under its number; every other number finds what it found. -/
theorem State.team?_putTeam (s : State) (t : Team) (i : Nat) :
    (s.putTeam t).team? i = if i = t.id then (s.team? i).map (fun _ => t) else s.team? i := find?_replace i s.teams

theorem State.team?_putTeam_self {s : State} {t u : Team} (h : s.team? t.id = some u) :
    (s.putTeam t).team? t.id = some t := by
  rw [State.team?_putTeam, if_pos rfl, h]
  rfl

theorem putKey_find {α : Type} (key : α → Nat) (x : α) (l : List α) (k : Nat) :
    (putKey key x l).find? (fun y => key y == k) =
      if k = key x then some x else l.find? (fun y => key y == k) := by
  induction l with
  | nil =>
    by_cases h : k = key x
    · simp [putKey, h]
    · have h' : ¬key x = k := fun e => h e.symm
      simp [putKey, h, h']
  | cons y r ih =>
    unfold putKey
    split
    · rename_i hxy
      by_cases h : k = key x
      · simp [h]
      · have h' : ¬key x = k := fun e => h e.symm
        have h'' : ¬key y = k := fun e => h (by omega)
        simp [h, h', h'']
    · rename_i hxy
      split
      · by_cases h : k = key x
        · simp [h]
        · have h' : (key x == k) = false := by simpa using fun e => h e.symm
          rw [List.find?_cons]
          simp [h, h']
      · rw [List.find?_cons, ih, List.find?_cons]
        by_cases h : k = key x
        · have h' : (key y == key x) = false := by simpa using fun e => hxy e.symm
          simp [h, h']
        · simp only [h, if_false]

theorem State.site_putSite (s : State) (x : Site) (k : Nat) :
    (s.putSite x).site k = if k = x.key then x else s.site k := by
  unfold State.site State.putSite
  rw [putKey_find]
  split <;> rfl

theorem State.core_putCore (s : State) (x : Core) (k : Nat) :
    (s.putCore x).core k = if k = x.key then x else s.core k := by
  unfold State.core State.putCore
  rw [putKey_find]
  split <;> rfl

theorem State.site_key (s : State) (k : Nat) : (s.site k).key = k := by
  unfold State.site
  cases h : s.sites.find? (fun x => x.key == k) with
  | none => rfl
  | some x => simpa using List.find?_some h

theorem State.core_key (s : State) (k : Nat) : (s.core k).key = k := by
  unfold State.core
  cases h : s.cores.find? (fun x => x.key == k) with
  | none => rfl
  | some x => simpa using List.find?_some h

@[simp] theorem State.team?_putSite (s : State) (x : Site) (i : Nat) : (s.putSite x).team? i = s.team? i := rfl
@[simp] theorem State.team?_putCore (s : State) (x : Core) (i : Nat) : (s.putCore x).team? i = s.team? i := rfl
@[simp] theorem State.site_putTeam (s : State) (t : Team) (k : Nat) : (s.putTeam t).site k = s.site k := rfl
@[simp] theorem State.site_putCore (s : State) (x : Core) (k : Nat) : (s.putCore x).site k = s.site k := rfl
@[simp] theorem State.core_putTeam (s : State) (t : Team) (k : Nat) : (s.putTeam t).core k = s.core k := rfl
@[simp] theorem State.core_putSite (s : State) (x : Site) (k : Nat) : (s.putSite x).core k = s.core k := rfl

end Sys2Proof.Machine
end

