-- ==== Sys2Proof/Laws/Ports.lean ====
section
/-! SUPPORT. What reads and writes at a port do where no transaction is live and nobody waits: all of it, said once. -/

namespace Sys2Proof.Machine

/-- A fold whose every step leaves the state is no change. -/
theorem foldl_fixed {α β : Type} (f : β → α → β) (l : List α) (s : β) (h : ∀ x ∈ l, f s x = s) :
    l.foldl f s = s := by
  induction l with
  | nil => rfl
  | cons a r ih =>
    rw [List.foldl_cons, h a (by simp), ih (fun x hx => h x (by simp [hx]))]

theorem State.txHolders_nil {s : State} (h : ∀ u ∈ s.teams, u.tx.live = false) (e l : Nat) : s.txHolders e l = [] := by
  unfold State.txHolders
  rw [List.filter_eq_nil_iff]
  intro u hu
  simp [h u hu]

/-- With no transaction live, an access from outside aborts none. -/
theorem State.txOutside_of {s : State} (h : ∀ u ∈ s.teams, u.tx.live = false) (b l : Nat) : s.txOutside b l = s := by
  unfold State.txOutside
  rw [State.txHolders_nil h]
  rfl

/-- With no line fetched ahead, no matrix read is kept to old memory. -/
theorem State.keepOld_of {s : State} (h : ∀ u ∈ s.teams, u.fetched = []) (b l : Nat) : s.keepOld b l = s := by
  unfold State.keepOld
  rw [if_pos]
  rw [List.all_eq_true]
  intro u hu
  rw [h u hu]
  simp

/-- Invalidating line-buffer copies changes line buffers only. -/
theorem State.invalidate_of (s : State) (site a n : Nat) :
    ∃ cs, s.invalidate site a n = { s with cores := cs } ∧
      cs.map (fun c => { c with lbuf := [] }) = s.cores.map (fun c => { c with lbuf := [] }) := by
  unfold State.invalidate
  split
  · refine ⟨_, rfl, ?_⟩
    rw [List.map_map]
    apply List.map_congr_left
    intro c _
    simp only [Function.comp]
    split <;> rfl
  · exact ⟨s.cores, rfl, rfl⟩

theorem State.wakeInvalid_of {s : State} {site : Nat} (h : (s.site site).waits = []) (a n : Nat) :
    s.wakeInvalid site a n = s := by
  unfold State.wakeInvalid
  simp [h]

theorem State.txWrites_of {s : State} (h : ∀ u ∈ s.teams, u.tx.live = false) (l : Nat) : s.txWrites l = false := by
  unfold State.txWrites
  rw [List.any_eq_false]
  intro u hu
  simp [h u hu]

theorem State.retest_of {s : State} (h : ∀ u ∈ s.teams, ∀ w k n, u.parkedIn ≠ some (.barrier w k, n)) (a n : Nat) :
    s.retestBarriers a n = s := by
  unfold State.retestBarriers
  apply foldl_fixed
  intro t ht
  have := h t ht
  cases hs : t.parkedIn with
  | none => rfl
  | some w =>
    rw [hs] at this
    obtain ⟨w, n⟩ := w
    cases w <;> try rfl
    exact absurd rfl (this _ _ _)

/-- A write at a port that nobody waits on: its bytes, and the line-buffer copies that go. -/
theorem State.portWrite_of {s : State} {a : Nat} (h : NoListeners s (a / 2 ^ 37)) (b : Nat) (bs : List Byte) :
    ∃ cs, s.portWrite b a bs = { s with cores := cs, mem := Mem.setBytes s.mem a bs } ∧
      cs.map (fun c => { c with lbuf := [] }) = s.cores.map (fun c => { c with lbuf := [] }) := by
  unfold State.portWrite
  rw [State.txOutside_of (fun u hu => (h.1 u hu).1), State.keepOld_of (fun u hu => (h.1 u hu).2.1)]
  obtain ⟨cs, e, hc⟩ := State.invalidate_of s (a / 2 ^ 37) a bs.length
  refine ⟨cs, ?_, hc⟩
  dsimp only
  rw [e, State.txWrites_of (by exact fun u hu => (h.1 u hu).1), State.wakeInvalid_of (by exact h.2)]
  exact State.retest_of (s := { s with cores := cs, mem := Mem.setBytes s.mem a bs }) (fun u hu => (h.1 u hu).2.2) _ _

/-- With no line fetched ahead, a write waits for nothing. -/
theorem State.settleFetched_of {s : State} (h : ∀ u ∈ s.teams, u.fetched = []) (b : Nat) (ls : List Nat) :
    s.settleFetched b ls = s := by
  have : s.fetchedBefore b ls = [] := by
    unfold State.fetchedBefore
    rw [List.flatMap_eq_nil_iff]
    intro u hu
    rw [h u hu]
    split <;> rfl
  unfold State.settleFetched
  rw [this]
  rfl

theorem State.portWriteAll_of {s : State} {a : Nat} (h : NoListeners s (a / 2 ^ 37)) (b : Nat) (bs : List Byte) :
    ∃ cs, s.portWriteAll b a [] bs = { s with cores := cs, mem := Mem.setBytes s.mem a bs } ∧
      cs.map (fun c => { c with lbuf := [] }) = s.cores.map (fun c => { c with lbuf := [] }) := State.portWrite_of h b bs

theorem NoListeners.of_eq {s u : State} (h : ∀ k, NoListeners s k) (ht : u.teams = s.teams) (hs : u.sites = s.sites) :
    ∀ k, NoListeners u k := by
  intro k
  obtain ⟨h1, h2⟩ := h k
  refine ⟨ht ▸ h1, ?_⟩
  unfold State.site at *
  rw [hs]
  exact h2

/-- Only cores' line buffers and memory differ. -/
def SameBut (s u : State) : Prop :=
  u = { s with cores := u.cores, mem := u.mem } ∧
    u.cores.map (fun c => { c with lbuf := [] }) = s.cores.map (fun c => { c with lbuf := [] })

theorem SameBut.trans {s u v : State} (h : SameBut s u) (g : SameBut u v) : SameBut s v := by
  obtain ⟨h1, h2⟩ := h
  obtain ⟨g1, g2⟩ := g
  refine ⟨?_, g2.trans h2⟩
  rw [g1, h1]

/-- The first k lines of a run, written one after another. -/
theorem State.writeLines_of {phys n : Nat} {bs : List Byte} (hn : bs.length = n) (k : Nat) :
    ∀ s : State, (∀ site, NoListeners s site) → s.memOk → 64 * (phys / 64 + k) < phys + n + 64 →
    ∃ u, ((List.range k).map (fun i => phys / 64 + i)).foldl (fun s l =>
        (s.settleFetched 0 (writeLines (max phys (l * 64)) [])).portWriteAll 0 (max phys (l * 64)) [] ((bs.drop (max phys (l * 64) - phys)).take
          (min (phys + n) (l * 64 + 64) - max phys (l * 64)))) s = u ∧ SameBut s u ∧ u.memOk ∧
      ∀ a, Mem.get u.mem a =
        if phys ≤ a ∧ a < phys + n ∧ a < 64 * (phys / 64 + k) then bs.getD (a - phys) 0 else Mem.get s.mem a := by
  induction k with
  | zero =>
    intro s _ hm _
    refine ⟨s, rfl, ⟨rfl, rfl⟩, hm, fun a => ?_⟩
    rw [if_neg (by omega)]
  | succ k ih =>
    intro s hs hm hk
    obtain ⟨u, e, hu, hw, hg⟩ := ih s hs hm (by omega)
    have hsu : ∀ site, NoListeners u site := NoListeners.of_eq hs (by rw [hu.1]) (by rw [hu.1])
    rw [List.range_succ, List.map_append, List.foldl_append, e]
    simp only [List.map_cons, List.map_nil, List.foldl_cons, List.foldl_nil]
    obtain ⟨cs, ew, hcs⟩ := State.portWriteAll_of (hsu ((max phys ((phys / 64 + k) * 64)) / 2 ^ 37)) 0
      ((bs.drop (max phys ((phys / 64 + k) * 64) - phys)).take
          (min (phys + n) ((phys / 64 + k) * 64 + 64) - max phys ((phys / 64 + k) * 64)))
    rw [State.settleFetched_of (fun t ht => ((hsu 0).1 t ht).2.1), ew]
    refine ⟨_, rfl, ?_, ?_, ?_⟩
    · exact hu.trans ⟨rfl, hcs⟩
    · exact Mem.wf_setBytes _ _ hw
    · intro a
      show Mem.get (Mem.setBytes u.mem _ _) a = _
      rw [Mem.get_setBytes hw, hg a]
      have hl : ((bs.drop (max phys ((phys / 64 + k) * 64) - phys)).take
          (min (phys + n) ((phys / 64 + k) * 64 + 64) - max phys ((phys / 64 + k) * 64))).length =
          min (phys + n) ((phys / 64 + k) * 64 + 64) - max phys ((phys / 64 + k) * 64) := by
        rw [List.length_take, List.length_drop]; omega
      rw [hl]
      by_cases h1 : max phys ((phys / 64 + k) * 64) ≤ a ∧ a < max phys ((phys / 64 + k) * 64) +
          (min (phys + n) ((phys / 64 + k) * 64 + 64) - max phys ((phys / 64 + k) * 64))
      · rw [if_pos h1, if_pos (by omega)]
        rw [List.getD_eq_getElem?_getD, List.getD_eq_getElem?_getD, List.getElem?_take, if_pos (by omega),
          List.getElem?_drop]
        congr 2
        omega
      · rw [if_neg h1]
        by_cases h2 : phys ≤ a ∧ a < phys + n ∧ a < 64 * (phys / 64 + k)
        · rw [if_pos h2, if_pos (by omega)]
        · rw [if_neg h2, if_neg (by omega)]

/-- A run written at its ports: it holds the bytes, every other address and everything else is as before. -/
theorem State.writePieces_of {s : State} {phys n : Nat} {bs : List Byte} (hn : n ≤ bs.length)
    (hs : ∀ site, NoListeners s site) (hm : s.memOk) : ∃ u, s.writePieces [(phys, n, [])] bs = u ∧ SameBut s u ∧ u.memOk ∧
      ∀ a, Mem.get u.mem a = if phys ≤ a ∧ a < phys + n then bs.getD (a - phys) 0 else Mem.get s.mem a := by
  unfold State.writePieces
  simp only [List.foldl_cons, List.foldl_nil]
  have hl : (bs.take n).length = n := by rw [List.length_take]; omega
  unfold linesOf
  by_cases h0 : n = 0
  · rw [if_pos h0]
    exact ⟨s, rfl, ⟨rfl, rfl⟩, hm, fun a => by rw [if_neg (by omega)]⟩
  · rw [if_neg h0]
    obtain ⟨u, e, hu, hw, hg⟩ := State.writeLines_of (phys := phys) hl ((phys + n - 1) / 64 - phys / 64 + 1) s hs hm (by omega)
    refine ⟨u, e, hu, hw, fun a => ?_⟩
    rw [hg a]
    by_cases h : phys ≤ a ∧ a < phys + n
    · rw [if_pos h, if_pos (by omega), List.getD_eq_getElem?_getD, List.getD_eq_getElem?_getD, List.getElem?_take,
        if_pos (by omega)]
    · rw [if_neg h, if_neg (by omega)]

/-- A run read at its ports with no transaction live: its bytes, and no change. -/
theorem State.readPieces_of {s : State} (h : ∀ u ∈ s.teams, u.tx.live = false) (phys n : Nat) :
    s.readPieces [(phys, n, [])] = (s, Mem.bytes s.mem phys n) := by
  unfold State.readPieces
  simp only [List.foldl_cons, List.foldl_nil, List.nil_append]
  rw [foldl_fixed]
  intro l _
  exact State.txOutside_of h 0 l

end Sys2Proof.Machine
end

