-- ==== Sys2Proof/Laws/Registers.lean ====
section
/-! SUPPORT. Masks, lane vectors and registers read back. -/

namespace Sys2Proof.Machine

theorem getD_setAt {α : Type} (e : α) (l : List α) (n : Nat) (x : α) (m : Nat) :
    (setAt e l n x).getD m e = if m = n then x else l.getD m e := by
  induction l generalizing n m with
  | nil =>
    induction n generalizing m with
    | zero => cases m <;> simp [setAt]
    | succ n ih =>
      cases m with
      | zero => simp [setAt]
      | succ m =>
        rw [setAt, List.getD_cons_succ, ih]
        simp
  | cons y r ih =>
    cases n with
    | zero => cases m <;> simp [setAt]
    | succ n =>
      cases m with
      | zero => simp [setAt]
      | succ m =>
        rw [setAt, List.getD_cons_succ, List.getD_cons_succ, ih]
        simp

theorem lane_vtab {n l : Nat} (f : Nat → Word) (h : l < n) : lane (vtab n f) l = f l := by
  simp [lane, vtab, h]

theorem lane_blend {n l : Nat} (m : Mask) (x y : LaneVec) (h : l < n) :
    lane (blend m n x y) l = if Mask.has m l then lane x l else lane y l := lane_vtab _ h

theorem mask_low_bit (l i : Nat) (h : l < 1024) : ((1 : Mask) <<< l).getLsbD i = decide (i = l) := by
  rw [BitVec.getLsbD_shiftLeft]
  by_cases hi : i < 1024
  · by_cases e : i = l
    · subst e
      simp [hi]
    · by_cases g : i < l
      · simp [g, e]
      · have : ¬i - l = 0 := by omega
        simp [hi, g, e, this]
  · have : ¬i = l := by omega
    simp [hi, this]

theorem mask_cast_bit (l i : Nat) (h : i < 1024) : ((1 <<< l : Nat) : Mask).getLsbD i = decide (i = l) := by
  have e : ((1 <<< l : Nat) : Mask) = BitVec.ofNat 1024 (2 ^ l) := by
    rw [Nat.one_shiftLeft]
    rfl
  rw [e, BitVec.getLsbD_ofNat, Nat.testBit_two_pow]
  by_cases g : i = l
  · subst g
    simp [h]
  · have : ¬l = i := fun x => g x.symm
    simp [g, this]

theorem Mask.has_foldl (f : Nat → Bool) (l : Nat) (hl : l < 1024) (r : List Nat) (m : Mask) :
    (r.foldl (fun m i => if f i then m ||| (1 <<< i : Mask) else m) m).getLsbD l =
      (m.getLsbD l || (r.contains l && f l)) := by
  induction r generalizing m with
  | nil => simp
  | cons i r ih =>
    rw [List.foldl_cons, ih]
    by_cases hf : f i
    · rw [if_pos hf, BitVec.getLsbD_or, mask_cast_bit i l hl]
      by_cases e : l = i
      · subst e
        simp [hf]
      · simp [e]
    · rw [if_neg hf]
      by_cases e : l = i
      · subst e
        simp [hf]
      · simp [e]

/-- A mask made from a decision holds it, lane by lane. -/
theorem Mask.has_ofFn (n : Nat) (f : Nat → Bool) (l : Nat) (h : l < 1024) :
    Mask.has (Mask.ofFn n f) l = (decide (l < n) && f l) := by
  unfold Mask.has Mask.ofFn
  rw [Mask.has_foldl f l h]
  by_cases e : l < n <;> simp [e]

theorem Team.k_setK (t : Team) (n m : Nat) (v : LaneVec) : (t.setK n v).k m = if m = n then v else t.k m :=
  getD_setAt _ _ _ _ _
theorem Team.s_setS (t : Team) (n m : Nat) (v : Word) : (t.setS n v).s m = if m = n then v else t.s m :=
  getD_setAt _ _ _ _ _
theorem Team.p_setP (t : Team) (n m : Nat) (v : Mask) : (t.setP n v).p m = if m = n then v else t.p m :=
  getD_setAt _ _ _ _ _
theorem Team.queue_setQueue (t : Team) (n m : Nat) (q : Queue) :
    (t.setQueue n q).queue m = if m = n then q else t.queue m := getD_setAt _ _ _ _ _

theorem Team.d_pushDrift_zero (t : Team) (v : LaneVec) : (t.pushDrift v).d 0 = v := rfl
theorem Team.d_pushDrift_succ (t : Team) (v : LaneVec) {n : Nat} (h : n < 15) : (t.pushDrift v).d (n + 1) = t.d n := by
  simp [Team.pushDrift, Team.d, h]

end Sys2Proof.Machine
end

