-- ==== Sys2Proof/Laws/Run.lean ====
section
/-! SUPPORT. The prologue once and for all: a word whose shape issues runs its effect, and what the effects that push
one entry or write one predicate leave. -/

namespace Sys2Proof.Machine

theorem State.settleOperands_of {s : State} {t : Team} {sh : Shape} {o : Bool}
    (h : t.pend.all (fun p => !sh.conflicts p o) = true) : s.settleOperands t sh o = s := by
  unfold State.settleOperands
  split
  · rfl
  · have : t.pend.filter (fun p => sh.conflicts p o) = [] := by
      rw [List.filter_eq_nil_iff]
      intro p hp
      have := List.all_eq_true.mp h p hp
      simpa using this
    rw [this]
    rfl

/-- The team that issues has not left for its handler. -/
theorem State.txGone_cur {s : State} {t : Team} (h : s.curTeam? = some t) : s.txGone t = false := by
  have e : s.team? t.id = some t := by rw [State.curTeam?_id h]; exact h
  simp [State.txGone, e]

/-- A word whose shape issues runs its effect. -/
theorem State.run_of {s : State} {sh : Shape} {t : Team} (f : State → Ctx → State) (h : Issues s sh t) :
    s.run sh f = .next (f s (ctxOf sh t)) := by
  obtain ⟨hc, ha, hw, hp, hh, hb, he, hf, hk, hs⟩ := h
  have hp' : ¬t.ctl.priv < sh.priv := Nat.not_lt.mpr hp
  simp only [State.run, State.prologue, hc, hw, State.settleOperands_of hs, State.txGone_cur hc, ha, hp', hh, hb, he, hf, hk, if_false,
    Bool.not_true, decide_false, Bool.false_and, Bool.false_eq_true, ctxOf, valsOf]

theorem State.commit_of {s : State} {sh : Shape} {t : Team} (f : Team → Team) (h : s.curTeam? = some t) :
    s.commit (ctxOf sh t) f = s.putTeam (f (popped sh t)).next := by
  have e : s.team? (ctxOf sh t).t.id = some t := by
    have := State.curTeam?_id h
    show s.team? t.id = some t
    rw [this]
    exact h
  simp only [State.commit, e]
  rfl

/-! ### Reading sources changes queues only -/

/-- How often a list of sources pops queue n. -/
def popsOf (srcs : List Src) (n : Nat) : Nat :=
  (srcs.filter (fun x => match x with | .q m => m.val == n | _ => false)).length

theorem Shape.pops_eq (sh : Shape) (n : Nat) : sh.pops n = popsOf sh.srcs n := rfl

theorem Team.readSrc_queue (t : Team) (a : Src) (n : Nat) :
    ((t.readSrc a).2.queue n).depth = (t.queue n).depth ∧
    ((t.readSrc a).2.queue n).items = (t.queue n).items.drop (popsOf [a] n) := by
  cases a with
  | q m =>
    show ((t.setQueue m.val _).queue n).depth = _ ∧ ((t.setQueue m.val _).queue n).items = _
    rw [Team.queue_setQueue]
    by_cases e : n = m.val
    · subst e
      simp [popsOf]
    · have e' : (m.val == n) = false := by simpa using fun h => e h.symm
      simp [popsOf, e, e']
  | d m => exact ⟨rfl, rfl⟩
  | k m => exact ⟨rfl, rfl⟩
  | s m => exact ⟨rfl, rfl⟩

theorem Team.readSrc_rest (t : Team) (a : Src) :
    (t.readSrc a).2 = { t with regs := { t.regs with q := (t.readSrc a).2.regs.q } } := by
  cases a <;> rfl

theorem Team.readSrcs_rest (t : Team) (l : List Src) :
    (t.readSrcs l).2 = { t with regs := { t.regs with q := (t.readSrcs l).2.regs.q } } := by
  induction l generalizing t with
  | nil => rfl
  | cons a r ih =>
    show ((t.readSrc a).2.readSrcs r).2 = { t with regs := { t.regs with q := ((t.readSrc a).2.readSrcs r).2.regs.q } }
    rw [ih, Team.readSrc_rest]

theorem popsOf_cons (a : Src) (l : List Src) (n : Nat) : popsOf (a :: l) n = popsOf [a] n + popsOf l n := by
  unfold popsOf
  rw [show a :: l = [a] ++ l from rfl, List.filter_append, List.length_append]

theorem Team.readSrcs_queue (t : Team) (l : List Src) (n : Nat) :
    ((t.readSrcs l).2.queue n).depth = (t.queue n).depth ∧
    ((t.readSrcs l).2.queue n).items = (t.queue n).items.drop (popsOf l n) := by
  induction l generalizing t with
  | nil => exact ⟨rfl, rfl⟩
  | cons a r ih =>
    show (((t.readSrc a).2.readSrcs r).2.queue n).depth = _ ∧ (((t.readSrc a).2.readSrcs r).2.queue n).items = _
    obtain ⟨h1, h2⟩ := ih (t.readSrc a).2
    obtain ⟨g1, g2⟩ := Team.readSrc_queue t a n
    rw [h1, h2, g1, g2, List.drop_drop, popsOf_cons a r]
    exact ⟨rfl, rfl⟩

/-! ### Pushing -/

theorem Team.writeNamed_rest (t : Team) (d : Dst) (m : Mask) (v w : LaneVec) :
    t.writeNamed d m v w = { t with regs := { (t.writeNamed d m v w).regs with drift := t.regs.drift, p := t.regs.p } } := by
  cases d with
  | s n =>
    unfold Team.writeNamed
    dsimp only
    split <;> rfl
  | drift => rfl
  | k n => rfl
  | q n => rfl

/-- A word with a destination that pushes one entry is complete. -/
theorem pushed_of {s : State} {sh : Shape} {t : Team} {d : Dst} (f : Ctx → Nat → Word) (hd : sh.dst = some d)
    (hp : sh.pushes = 1) (h : Issues s sh t) :
    ∃ t', s.run sh (fun s c => s.push c (vtab c.t.nlane (f c))) = .next (s.putTeam t') ∧
      Pushed t t' sh d (f (ctxOf sh t)) := by
  have hc := h.1
  have hact : sh.active t ≠ 0 := h.2.1
  rw [State.run_of _ h, State.push, State.commit_of _ hc]
  refine ⟨_, rfl, ?_⟩
  have h2 : ¬sh.pushes = 2 := by omega
  have e0 := Team.readSrcs_rest t sh.srcs
  have hq := Team.readSrcs_queue t sh.srcs
  generalize hu : (t.readSrcs sh.srcs).2 = u at e0 hq
  have hu' : popped sh t = u := hu
  have hn : u.nlane = t.nlane := by rw [e0]; rfl
  have ePush : (popped sh t).pushAll (ctxOf sh t).sh (ctxOf sh t).act (vtab (ctxOf sh t).t.nlane (f (ctxOf sh t)))
      (ctxOf sh t).pass = u.writePush d (sh.active t) (vtab t.nlane (f (ctxOf sh t))) (passOf t sh (valsOf sh t)) := by
    rw [hu']
    show u.pushAll sh (sh.active t) (vtab t.nlane (f (ctxOf sh t))) (passOf t sh (valsOf sh t)) = _
    simp only [Team.pushAll, hd, h2, if_false]
  rw [ePush]
  generalize hv : f (ctxOf sh t) = v
  generalize hw : passOf t sh (valsOf sh t) = w
  generalize hm : sh.active t = m at *
  have eN := Team.writeNamed_rest u d m (vtab t.nlane v) w
  have hnew : ((u.writePush d m (vtab t.nlane v) w).next).d 0 = blend m t.nlane (vtab t.nlane v) w := by
    show blend m u.nlane (vtab t.nlane v) w = _
    rw [hn]
  constructor
  · intro l hl
    rw [hnew, hm, hw, lane_blend _ _ _ hl, lane_vtab _ hl]
  · intro n hn'
    show ((u.writeNamed d m (vtab t.nlane v) w).pushDrift _).d (n + 1) = t.d n
    rw [Team.d_pushDrift_succ _ _ hn', eN]
    show u.d n = t.d n
    rw [e0]
    rfl
  · intro n l hk hl
    cases d with
    | k i =>
      have : n = i.val := by simpa [kOfDst] using hk.symm
      subst this
      show lane ((u.setK i.val (blend m u.nlane (vtab t.nlane v) (u.k i.val))).k i.val) l = _
      rw [Team.k_setK, if_pos rfl, hn, lane_blend _ _ _ hl, lane_vtab _ hl, hm, e0]
      rfl
    | drift => simp [kOfDst] at hk
    | q i => simp [kOfDst] at hk
    | s i => simp [kOfDst] at hk
  · intro n hk
    show (u.writeNamed d m (vtab t.nlane v) w).k n = t.k n
    have base : u.k n = t.k n := by rw [e0]; rfl
    cases d with
    | k i =>
      have : ¬n = i.val := fun e => hk (by simp [kOfDst, e])
      show (u.setK i.val _).k n = _
      rw [Team.k_setK, if_neg this, base]
    | drift => exact base
    | q i => exact base
    | s i =>
      unfold Team.writeNamed
      dsimp only
      split
      · exact base
      · exact base
  · intro n
    show (u.writeNamed d m (vtab t.nlane v) w).s n = _
    have base : u.s n = t.s n := by rw [e0]; rfl
    cases d with
    | s i =>
      unfold Team.writeNamed
      dsimp only
      rw [if_neg hact, Team.s_setS, hn, hm]
      by_cases e : n = i.val
      · simp [sOfDst, e]
      · have : ¬sOfDst (.s i) = some n := by simpa [sOfDst] using fun h => e h.symm
        rw [if_neg e, if_neg this, base]
    | drift =>
      rw [if_neg (by simp [sOfDst])]
      exact base
    | q i =>
      rw [if_neg (by simp [sOfDst])]
      exact base
    | k i =>
      rw [if_neg (by simp [sOfDst])]
      exact base
  · intro n
    rw [hnew]
    obtain ⟨b1, b2⟩ := hq n
    rw [Shape.pops_eq]
    show ((u.writeNamed d m (vtab t.nlane v) w).queue n).depth = _ ∧ ((u.writeNamed d m (vtab t.nlane v) w).queue n).items = _
    cases d with
    | q i =>
      show ((u.setQueue i.val _).queue n).depth = _ ∧ ((u.setQueue i.val _).queue n).items = _
      rw [Team.queue_setQueue]
      by_cases e : n = i.val
      · subst e
        simp [qOfDst, b1, b2, hn]
      · have : ¬qOfDst (.q i) = some n := by simpa [qOfDst] using fun h => e h.symm
        rw [if_neg e, if_neg this, List.append_nil]
        exact ⟨b1, b2⟩
    | drift => simp [qOfDst, Team.writeNamed, b1, b2]
    | k i =>
      show (u.queue n).depth = _ ∧ (u.queue n).items = _
      simp [qOfDst, b1, b2]
    | s i =>
      have : ∀ x, (u.setS i.val x).queue n = u.queue n := fun _ => rfl
      unfold Team.writeNamed
      dsimp only
      split <;> simp [qOfDst, b1, b2, this]
  · unfold Team.writePush
    generalize (u.writeNamed d m (vtab t.nlane v) w).regs = x at eN
    generalize blend m u.nlane (vtab t.nlane v) w = y
    generalize u.regs.q = z at e0
    rw [eN, e0]
    rfl

/-- A word that writes one predicate is complete. -/
theorem wroteP_of {s : State} {sh : Shape} {t : Team} (p : Fin 7) (f : Ctx → Nat → Bool) (h : Issues s sh t) :
    ∃ t', s.runPred sh p f = .next (s.putTeam t') ∧ WroteP t t' sh p.val (f (ctxOf sh t)) := by
  rw [State.runPred, State.run_of _ h, State.commit_of _ h.1]
  refine ⟨_, rfl, ?_⟩
  have e0 := Team.readSrcs_rest t sh.srcs
  have hq := Team.readSrcs_queue t sh.srcs
  generalize hu : (t.readSrcs sh.srcs).2 = u at e0 hq
  have hu' : popped sh t = u := hu
  rw [hu']
  have bp : ∀ n, u.p n = t.p n := fun n => by rw [e0]; rfl
  constructor
  · intro n l hlt hl'
    show Mask.has ((u.setP p.val _).p n) l = _
    rw [Team.p_setP]
    by_cases e : n = p.val
    · rw [if_pos e]
      show ((u.p p.val &&& ~~~sh.active t) ||| (Mask.ofFn t.nlane (f (ctxOf sh t)) &&& sh.active t)).getLsbD l = _
      have := Mask.has_ofFn t.nlane (f (ctxOf sh t)) l hl'
      rw [BitVec.getLsbD_or, BitVec.getLsbD_and, BitVec.getLsbD_and, BitVec.getLsbD_not,
        show (Mask.ofFn t.nlane (f (ctxOf sh t))).getLsbD l = _ from this, bp]
      unfold Mask.has
      cases g : (sh.active t).getLsbD l
      · rw [if_neg (fun x => Bool.false_ne_true x.2), e]
        simp [hl']
      · rw [if_pos ⟨e, rfl⟩]
        simp [hlt]
    · rw [if_neg e, if_neg (fun x => e x.1), bp]
  · intro n
    exact hq n
  · rw [e0]
    rfl

end Sys2Proof.Machine
end

