-- ==== Sys2Proof/Tests/Slice0.lean ====
section
/-! SUPPORT. Tests. Words written out from the encodings of the spec decode to their instructions; terms that
WellFormed refuses; single steps whose results the spec's own examples and tables give; and, for every obligation
with hypotheses, states that meet them. -/

open Sys2Proof Sys2Proof.Machine

namespace Sys2Proof.Tests

set_option Elab.async false

theorem test_decode_row_0 :
    decode 0b00000000_000000000000000000000001 = .ok (.ill 1) ∧
    decode 0b00000001_0011_00000000000000000000 = .ok (.nop (.when 3)) ∧
    decode 0b00000010_1010_00000000000000000111 = .ok (.br (.unless 2) 7) ∧
    decode 0b00000011_1010_00000000000000000111 = .ok (.brany (.unless 2) 7) ∧
    decode 0b00000100_1010_00000000000000000111 = .ok (.brall (.unless 2) 7) ∧
    decode 0b00000101_1010_00000000000000000111 = .ok (.call (.unless 2) 7) ∧
    decode 0b00001000_1010_00000000000000000111 = .ok (.ifThen (.unless 2) 7) ∧
    decode 0b00000110_1111_000000_111_011_000000_00 = .ok (.jmpi .always 3) ∧
    decode 0b00000110_1111_000000_111_011_000000_01 = .ok (.calli .always 3) ∧
    decode 0b00000111_1111_00000000000000000000 = .ok (.ret .always) ∧
    decode 0b00001001_1111_00000000000000000111 = .ok (.elseArm 7) ∧
    decode 0b00001010_1111_00000000000000000000 = .ok (.endIf) ∧
    decode 0b00001011_1111_00000000000000000111 = .ok (.loop 7) ∧
    decode 0b00001100_0001_00000000000000000000 = .ok (.brk (.when 1)) ∧
    decode 0b00001101_0001_00000000000000000000 = .ok (.cont (.when 1)) ∧
    decode 0b00001110_1111_11111111111111111110 = .ok (.endLoop 0xFFFFE) ∧
    decode 0b00001111_1111_00000000000000000000 = .ok (.exit .always) := by
  and_intros <;> rfl

theorem test_decode_row_1 :
    decode 0b00010000_1111_010010_000100_010110_01 = .ok (.add .always (.k 2) (.d 4) (.k 6) .w32) ∧
    decode 0b00010001_1111_010010_000100_010110_01 = .ok (.sub .always (.k 2) (.d 4) (.k 6) .w32) ∧
    decode 0b00010010_1111_010010_000100_010110_01 = .ok (.mul .always (.k 2) (.d 4) (.k 6) .w32) ∧
    decode 0b00010011_1111_010010_000100_010110_01 = .ok (.mulh .always (.k 2) (.d 4) (.k 6) .w32) ∧
    decode 0b00010100_1111_010010_000100_010110_01 = .ok (.mulhn .always (.k 2) (.d 4) (.k 6) .w32) ∧
    decode 0b00010101_1111_010010_000100_010110_01 = .ok (.mad .always (.k 2) (.d 4) (.k 6) .w32) ∧
    decode 0b00010110_1111_010010_000100_010110_01 = .ok (.div .always (.k 2) (.d 4) (.k 6) .w32) ∧
    decode 0b00010111_1111_010010_000100_010110_01 = .ok (.divn .always (.k 2) (.d 4) (.k 6) .w32) ∧
    decode 0b00011000_1111_010010_000100_010110_01 = .ok (.rem .always (.k 2) (.d 4) (.k 6) .w32) ∧
    decode 0b00011001_1111_010010_000100_010110_01 = .ok (.remn .always (.k 2) (.d 4) (.k 6) .w32) ∧
    decode 0b00011010_1111_010010_000100_010110_01 = .ok (.min .always (.k 2) (.d 4) (.k 6) .w32) ∧
    decode 0b00011011_1111_010010_000100_010110_01 = .ok (.max .always (.k 2) (.d 4) (.k 6) .w32) ∧
    decode 0b00011100_1111_010010_000100_010110_01 = .ok (.minn .always (.k 2) (.d 4) (.k 6) .w32) ∧
    decode 0b00011101_1111_010010_000100_010110_01 = .ok (.maxn .always (.k 2) (.d 4) (.k 6) .w32) ∧
    decode 0b00011110_1111_010010_000100_010110_01 = .ok (.adds .always (.k 2) (.d 4) (.k 6) .w32) ∧
    decode 0b00011111_1111_010010_000100_010110_01 = .ok (.subs .always (.k 2) (.d 4) (.k 6) .w32) := by
  and_intros <;> rfl

theorem test_decode_row_2 :
    decode 0b00100000_1111_010010_000100_010110_00 = .ok (.and .always (.k 2) (.d 4) (.k 6) .w64) ∧
    decode 0b00100001_1111_010010_000100_010110_00 = .ok (.or .always (.k 2) (.d 4) (.k 6) .w64) ∧
    decode 0b00100010_1111_010010_000100_010110_00 = .ok (.xor .always (.k 2) (.d 4) (.k 6) .w64) ∧
    decode 0b00100011_1111_010010_000100_010110_00 = .ok (.andn .always (.k 2) (.d 4) (.k 6) .w64) ∧
    decode 0b00100100_1111_010010_000100_010110_00 = .ok (.shl .always (.k 2) (.d 4) (.k 6) .w64) ∧
    decode 0b00100101_1111_010010_000100_010110_00 = .ok (.shr .always (.k 2) (.d 4) (.k 6) .w64) ∧
    decode 0b00100110_1111_010010_000100_010110_00 = .ok (.sar .always (.k 2) (.d 4) (.k 6) .w64) ∧
    decode 0b00100111_1111_010010_000100_010110_00 = .ok (.rol .always (.k 2) (.d 4) (.k 6) .w64) ∧
    decode 0b00101000_1111_010010_000100_000000_01 = .ok (.clz .always (.k 2) (.d 4) .w32) ∧
    decode 0b00101001_1111_010010_000100_000000_01 = .ok (.ctz .always (.k 2) (.d 4) .w32) ∧
    decode 0b00101010_1111_010010_000100_000000_01 = .ok (.popc .always (.k 2) (.d 4) .w32) ∧
    decode 0b00101011_1111_010010_000100_000000_01 = .ok (.brev .always (.k 2) (.d 4) .w32) ∧
    decode 0b00101100_1111_010010_000100_010110_00 = .ok (.bfx .always (.k 2) (.d 4) (.k 6) .w64) ∧
    decode 0b00101101_1111_010010_000100_010110_00 = .ok (.bfi .always (.k 2) (.d 4) (.k 6) .w64) ∧
    decode 0b00101110_1111_010010_000100_000001_10 = .ok (.ext .always (.k 2) (.d 4) true .b32) ∧
    decode 0b00101111_1111_010010_000100_000000_00 = .ok (.neg .always (.k 2) (.d 4)) ∧
    decode 0b00101111_1111_010010_000100_000000_01 = .ok (.abs .always (.k 2) (.d 4)) ∧
    decode 0b00101111_1111_010010_000100_000000_10 = .ok (.not .always (.k 2) (.d 4)) := by
  and_intros <;> rfl

theorem test_decode_row_3 :
    decode 0b00110000_1111_010010_11111111111111 = .ok (.li .always (.k 2) 0x3FFF) ∧
    decode 0b00110001_1111_010010_000100_10000001 = .ok (.addi .always (.k 2) (.d 4) 0x81) ∧
    decode 0b00110010_1111_010010_000100_00_100001 = .ok (.andi .always (.k 2) (.d 4) 0x21) ∧
    decode 0b00110010_1111_010010_000100_01_100001 = .ok (.ori .always (.k 2) (.d 4) 0x21) ∧
    decode 0b00110010_1111_010010_000100_10_100001 = .ok (.xori .always (.k 2) (.d 4) 0x21) ∧
    decode 0b00110011_1111_010010_000100_10_100100 = .ok (.shi .always (.k 2) (.d 4) .sar 36) ∧
    decode 0b00110100_1111_010010_000100_010110_11 = .ok (.lea .always (.k 2) (.d 4) (.k 6) 3) ∧
    decode 0b00110101_1111_101_011_000100_010110_00 = .ok (.cmp .always 5 .le (.d 4) (.k 6) .w64) ∧
    decode 0b00110110_1111_101_100_000100_010110_01 = .ok (.cmpn .always 5 .gt (.d 4) (.k 6) .w32) ∧
    decode 0b00110111_0010_010010_000100_010110_00 = .ok (.sel (.when 2) (.k 2) (.d 4) (.k 6)) ∧
    decode 0b00111000_1111_011_001_111_101_00000000 = .ok (.pset .always 3 (.p 1) .tt .nor) ∧
    decode 0b00111001_1111_011_001_000_001_00000000 = .ok (.pmov .always 3 (.p 1) true) ∧
    decode 0b00111010_1111_011_001_000_010_00000000 = .ok (.vote .always 3 (.p 1) .same) ∧
    decode 0b00111011_1111_000_100_000_000_00000000 = .ok (.ballot .always (.p 4)) ∧
    decode 0b00111100_1111_011_010_000100_010110_00 = .ok (.fcmp .always 3 .lt (.d 4) (.k 6)) ∧
    decode 0b00111101_1111_010010_000100_000000_00 = .ok (.fclass .always (.k 2) (.d 4)) := by
  and_intros <;> rfl

theorem test_decode_row_4 :
    decode 0b01000000_1111_010010_000100_010110_10 = .ok (.fadd .always (.k 2) (.d 4) (.k 6) .f16x4) ∧
    decode 0b01000001_1111_010010_000100_010110_10 = .ok (.fsub .always (.k 2) (.d 4) (.k 6) .f16x4) ∧
    decode 0b01000010_1111_010010_000100_010110_10 = .ok (.fmul .always (.k 2) (.d 4) (.k 6) .f16x4) ∧
    decode 0b01000011_1111_010010_000100_010110_10 = .ok (.ffma .always (.k 2) (.d 4) (.k 6) .f16x4) ∧
    decode 0b01000100_1111_010010_000100_010110_10 = .ok (.fmin .always (.k 2) (.d 4) (.k 6) .f16x4) ∧
    decode 0b01000101_1111_010010_000100_010110_10 = .ok (.fmax .always (.k 2) (.d 4) (.k 6) .f16x4) ∧
    decode 0b01000110_1111_010010_000100_000000_01 = .ok (.fabs .always (.k 2) (.d 4) .bf16x4) ∧
    decode 0b01000111_1111_010010_000100_000000_01 = .ok (.fneg .always (.k 2) (.d 4) .bf16x4) ∧
    decode 0b01001000_1111_010010_000100_000000_00 = .ok (.frcp .always (.k 2) (.d 4)) ∧
    decode 0b01001001_1111_010010_000100_000000_00 = .ok (.fsqrt .always (.k 2) (.d 4)) ∧
    decode 0b01001010_1111_010010_000100_000000_00 = .ok (.frsq .always (.k 2) (.d 4)) ∧
    decode 0b01001011_1111_010010_000100_000000_00 = .ok (.fex2 .always (.k 2) (.d 4)) ∧
    decode 0b01001100_1111_010010_000100_000000_00 = .ok (.flg2 .always (.k 2) (.d 4)) ∧
    decode 0b01001101_1111_010010_000100_010110_00 = .ok (.fdiv .always (.k 2) (.d 4) (.k 6)) ∧
    decode 0b01001110_1111_010010_000100_000000_11 = .ok (.fround .always (.k 2) (.d 4) .rd) := by
  and_intros <;> rfl

theorem test_decode_row_5 :
    decode 0b01010000_1111_010010_000100_010110_00 = .ok (.cadd .always (.k 2) (.d 4) (.k 6)) ∧
    decode 0b01010001_1111_010010_000100_010110_00 = .ok (.csub .always (.k 2) (.d 4) (.k 6)) ∧
    decode 0b01010010_1111_010010_000100_010110_00 = .ok (.cmul .always (.k 2) (.d 4) (.k 6)) ∧
    decode 0b01010011_1111_010010_000100_010110_00 = .ok (.cfma .always (.k 2) (.d 4) (.k 6)) ∧
    decode 0b01010100_1111_010010_000100_000000_00 = .ok (.cconj .always (.k 2) (.d 4)) ∧
    decode 0b01010101_1111_010010_000100_000000_00 = .ok (.cabs2 .always (.k 2) (.d 4)) ∧
    decode 0b01010110_1111_010010_000100_010110_00 = .ok (.twosum .always (.k 2) (.d 4) (.k 6)) ∧
    decode 0b01010111_1111_010010_000100_010110_00 = .ok (.twoprod .always (.k 2) (.d 4) (.k 6)) ∧
    decode 0b01011000_1111_010010_000100_010110_00 = .ok (.cpack .always (.k 2) (.d 4) (.k 6)) ∧
    decode 0b01011001_1111_010010_000100_000000_01 = .ok (.cpart .always (.k 2) (.d 4) true) := by
  and_intros <;> rfl

theorem test_decode_row_6 :
    decode 0b01100000_1111_010010_000100_000000_10 = .ok (.cvtif .always (.k 2) (.d 4) .i32) ∧
    decode 0b01100001_1111_010010_000100_000011_01 = .ok (.cvtfi .always (.k 2) (.d 4) .n32 .rz) ∧
    decode 0b01100010_1111_010010_000100_010001_00 = .ok (.cvtn .always (.k 2) (.d 4) .i4) ∧
    decode 0b01100011_1111_010010_000100_001100_00 = .ok (.cvtw .always (.k 2) (.d 4) .firn8) ∧
    decode 0b01100100_1111_010010_000100_001011_00 = .ok (.cvtmx .always (.k 2) (.d 4) 0xB) ∧
    decode 0b01100101_1111_010010_000100_010110_01 = .ok (.pack .always (.k 2) (.d 4) (.k 6) .f16) ∧
    decode 0b01100110_1111_010010_000100_000000_10 = .ok (.unpk .always (.k 2) (.d 4) .f16lo) := by
  and_intros <;> rfl

theorem test_decode_row_7 :
    decode 0b01110000_1111_010010_000100_010110_01 = .ok (.shfl .always (.k 2) (.d 4) (.k 6) .pair) ∧
    decode 0b01110001_1111_010010_000100_010110_11 = .ok (.shflt .always (.k 2) (.d 4) (.k 6) .fall) ∧
    decode 0b01110010_1111_010010_000100_000000_10 = .ok (.bcast .always (.k 2) (.d 4) (.d 0) .hi) ∧
    decode 0b01110011_1111_010010_000100_000000_10 = .ok (.tred .always (.k 2) (.d 4) .max) ∧
    decode 0b01110100_1111_010010_000100_000001_11 = .ok (.tscan .always (.k 2) (.d 4) true .or) ∧
    decode 0b01110101_1111_010010_000100_000000_01 = .ok (.ftred .always (.k 2) (.d 4) .c32) := by
  and_intros <;> rfl

theorem test_decode_row_8 :
    decode 0b10000000_1111_010010_000100_10000101 = .ok (.ldI8 .always (.k 2) (.d 4) 0x85) ∧
    decode 0b10000001_1111_010010_000100_10000101 = .ok (.ldN8 .always (.k 2) (.d 4) 0x85) ∧
    decode 0b10000010_1111_010010_000100_10000101 = .ok (.ldI16 .always (.k 2) (.d 4) 0x85) ∧
    decode 0b10000011_1111_010010_000100_10000101 = .ok (.ldN16 .always (.k 2) (.d 4) 0x85) ∧
    decode 0b10000100_1111_010010_000100_10000101 = .ok (.ldI32 .always (.k 2) (.d 4) 0x85) ∧
    decode 0b10000101_1111_010010_000100_10000101 = .ok (.ldN32 .always (.k 2) (.d 4) 0x85) ∧
    decode 0b10000110_1111_010010_000100_10000101 = .ok (.ld64 .always (.k 2) (.d 4) 0x85) ∧
    decode 0b10000111_1111_010010_000100_10000101 = .ok (.ldp .always (.k 2) (.d 4) 0x85) ∧
    decode 0b10001000_1111_001111_000100_10000101 = .ok (.st8 .always (.d 15) (.d 4) 0x85) ∧
    decode 0b10001001_1111_001111_000100_10000101 = .ok (.st16 .always (.d 15) (.d 4) 0x85) ∧
    decode 0b10001010_1111_001111_000100_10000101 = .ok (.st32 .always (.d 15) (.d 4) 0x85) ∧
    decode 0b10001011_1111_001111_000100_10000101 = .ok (.st64 .always (.d 15) (.d 4) 0x85) ∧
    decode 0b10001100_1111_010010_000100_10000101 = .ok (.stp .always (.k 2) (.d 4) 0x85) ∧
    decode 0b10001101_1111_010010_000100_010110_10 = .ok (.ldx .always (.k 2) (.d 4) (.k 6) 2) ∧
    decode 0b10001110_1111_010010_000100_010110_10 = .ok (.stx .always (.k 2) (.d 4) (.k 6) 2) ∧
    decode 0b10001111_1111_010010_000100_10000101 = .ok (.ldu .always (.k 2) (.d 4) 0x85) := by
  and_intros <;> rfl

theorem test_decode_row_9 :
    decode 0b10010000_1111_010010_000100_010110_11 = .ok (.aadd .always (.k 2) (.d 4) (.k 6) .acqRel) ∧
    decode 0b10010001_1111_010010_000100_010110_11 = .ok (.aand .always (.k 2) (.d 4) (.k 6) .acqRel) ∧
    decode 0b10010010_1111_010010_000100_010110_11 = .ok (.aor .always (.k 2) (.d 4) (.k 6) .acqRel) ∧
    decode 0b10010011_1111_010010_000100_010110_11 = .ok (.axor .always (.k 2) (.d 4) (.k 6) .acqRel) ∧
    decode 0b10010100_1111_010010_000100_010110_11 = .ok (.amin .always (.k 2) (.d 4) (.k 6) .acqRel) ∧
    decode 0b10010101_1111_010010_000100_010110_11 = .ok (.amax .always (.k 2) (.d 4) (.k 6) .acqRel) ∧
    decode 0b10010110_1111_010010_000100_010110_11 = .ok (.aminn .always (.k 2) (.d 4) (.k 6) .acqRel) ∧
    decode 0b10010111_1111_010010_000100_010110_11 = .ok (.amaxn .always (.k 2) (.d 4) (.k 6) .acqRel) ∧
    decode 0b10011000_1111_010010_000100_010110_11 = .ok (.aswp .always (.k 2) (.d 4) (.k 6) .acqRel) ∧
    decode 0b10011001_1111_010010_000100_010110_11 = .ok (.acas .always (.k 2) (.d 4) (.k 6) .acqRel) ∧
    decode 0b10011010_1111_010010_000100_010110_11 = .ok (.afadd .always (.k 2) (.d 4) (.k 6) .acqRel) ∧
    decode 0b10011011_1111_001000_000100_010110_10 = .ok (.red .always .fadd (.d 4) (.k 6) .release) := by
  and_intros <;> rfl

theorem test_decode_row_A :
    decode 0b10100000_1111_00000000000000000000 = .ok (.fence .always) ∧
    decode 0b10100001_1111_00000000000000000000 = .ok (.xfence .always) ∧
    decode 0b10100010_1111_000000000000000000_10 = .ok (.cdrain .always .dram) ∧
    decode 0b10100011_1111_00000000000000000111 = .ok (.txbeg 7) ∧
    decode 0b10100100_1111_00000000000000000000 = .ok (.txend) ∧
    decode 0b10100101_1111_000000_000100_00000000 = .ok (.txabt .always (.d 4)) ∧
    decode 0b10100110_1111_010010_000000_00000001 = .ok (.txst .always (.k 2) true) ∧
    decode 0b10100111_1111_010010_000100_10000101 = .ok (.ldacq .always (.k 2) (.d 4) 0x85) ∧
    decode 0b10101000_1111_010010_000100_10000101 = .ok (.strel .always (.k 2) (.d 4) 0x85) ∧
    decode 0b10101001_1111_000000_000100_10000101 = .ok (.pfetch .always (.d 4) 0x85) := by
  and_intros <;> rfl

theorem test_decode_row_B :
    decode 0b10110000_1111_01001_00000000000000_1 = .ok (.cpy .always 9 true) ∧
    decode 0b10110001_1111_01001_00000000000000_1 = .ok (.cpy2 .always 9 true) ∧
    decode 0b10110010_1111_01001_00000000000_110_1 = .ok (.gath .always 9 6 true) ∧
    decode 0b10110011_1111_01001_00000000000_110_1 = .ok (.scat .always 9 6 true) ∧
    decode 0b10110100_1111_01001_000000000000000 = .ok (.cfill .always 9 false) ∧
    decode 0b10110101_1111_01001_000000000000000 = .ok (.cinc .always 9) ∧
    decode 0b10110110_1111_01001_000000000000000 = .ok (.cwait .always 9) ∧
    decode 0b10110111_1111_01001_000000000000000 = .ok (.arm .always 9) ∧
    decode 0b10111000_1111_010010_000100_000000_01 = .ok (.fork .always (.k 2) (.d 4) true) ∧
    decode 0b10111001_1111_000000_000100_00000000 = .ok (.join .always (.d 4)) ∧
    decode 0b10111010_1111_010010_000000_000000_00 = .ok (.cstat .always (.k 2) (.d 0) false) := by
  and_intros <;> rfl

theorem test_decode_row_C :
    decode 0b11000000_1111_00_000011_01001_000_0000 = .ok (.rload .always 3 9) ∧
    decode 0b11000001_1111_01_000011_01001_101_0001 = .ok (.mloop .always .m16 3 9 5 true) ∧
    decode 0b11000010_1111_10_000011_01001_101_0000 = .ok (.mloopSp .always .m32 3 9 5 false) ∧
    decode 0b11000011_1111_00_000011_01001_101_0001 = .ok (.mdrain .always .m8 3 9 5 true) ∧
    decode 0b11000100_1111_00_000011_00000_101_0011 = .ok (.mzero .always .m8 3 5 .cf32) ∧
    decode 0b11000101_1111_00_000011_01001_000_0000 = .ok (.mcol .always 3 9) ∧
    decode 0b11000110_1111_00_000011_01001_101_0001 = .ok (.mload .always .m8 3 9 5 .i32) ∧
    decode 0b11000111_1111_00_000011_01001_101_0010 = .ok (.mxfer .always .m8 3 9 5 .adds) ∧
    decode 0b11001000_1111_00_000000_00000_101_0001 = .ok (.mprog .always 5 true) ∧
    decode 0b11001001_1111_00_000000_00000_101_0010 = .ok (.mwait .always 5 true false) := by
  and_intros <;> rfl

theorem test_decode_row_D :
    decode 0b11010000_1111_01001_000000000000000 = .ok (.bari .always 9) ∧
    decode 0b11010001_1111_010010_000100_10000101 = .ok (.barr .always (.k 2) (.d 4) 0x85) ∧
    decode 0b11010010_1111_101_110_000100_010110_01 = .ok (.barw .always 5 25 (.d 4) (.k 6)) ∧
    decode 0b11010011_1111_000000_000100_10000101 = .ok (.bard .always (.d 4) 0x85) ∧
    decode 0b11010100_1111_000000_000100_10000101 = .ok (.pinit .always (.d 4) 0x85) ∧
    decode 0b11010101_1111_000011_000100_10000101 = .ok (.pfill .always (.d 3) (.d 4) 0x85) ∧
    decode 0b11010110_1111_010010_000100_10000101 = .ok (.pwait .always (.k 2) (.d 4) 0x85) ∧
    decode 0b11010111_1111_101_110_000000_010110_01 = .ok (.ptest .always 5 25 (.k 6)) ∧
    decode 0b11011000_1111_000000_000100_010110_00 = .ok (.peq .always (.d 4) (.k 6)) ∧
    decode 0b11011001_1111_000000_000100_10000101 = .ok (.pcomp .always (.d 4) 0x85) ∧
    decode 0b11011010_1111_01001_000000000000000 = .ok (.spawn .always 9) ∧
    decode 0b11011011_1111_000000_000100_00000000 = .ok (.launch .always (.d 4)) ∧
    decode 0b11011100_1111_101_000_000100_00000000 = .ok (.launcht .always 5 (.d 4)) ∧
    decode 0b11011101_1111_00000000000000000000 = .ok (.yield .always) := by
  and_intros <;> rfl

theorem test_decode_row_E :
    decode 0b11100000_1111_01001_0000000000000_10 = .ok (.rput .always 9 true false) ∧
    decode 0b11100001_1111_01001_0000000000000_10 = .ok (.rget .always 9 true) ∧
    decode 0b11100010_1111_01001_0000000000_1_1010 = .ok (.ratom .always 9 true .cas) ∧
    decode 0b11100011_1111_01001_00000000_1_01_0100 = .ok (.rred .always 9 true true .min) ∧
    decode 0b11100100_1111_01001_00000000000000_1 = .ok (.xput .always 9 true) ∧
    decode 0b11100101_1111_01001_000000000000000 = .ok (.xopen .always 9) ∧
    decode 0b11100110_1111_01001_000000000000000 = .ok (.xred .always 9) ∧
    decode 0b11100111_1111_000000_000100_00000000 = .ok (.xclose .always (.d 4)) ∧
    decode 0b11101000_1111_00000000000000000000 = .ok (.rfence .always) ∧
    decode 0b11101001_1111_010010_000100_00000000 = .ok (.rname .always (.k 2) (.d 4)) := by
  and_intros <;> rfl

theorem test_decode_row_F :
    decode 0b11110000_000000000000000000000101 = .ok (.imm 5) ∧
    decode 0b11110001_000000000000000000000101 = .ok (.immh 5) ∧
    decode 0b11110010_000100000000_000000000000 = .ok (.mod 0x100) ∧
    decode 0b11110011_1111_010010_010001_00000000 = .ok (.sget .always (.k 2) 17) ∧
    decode 0b11110100_1111_000100_010100_00000000 = .ok (.sset .always (.d 4) 20) ∧
    decode 0b11110101_1111_110_101_000100_0011_0010 = .ok (.qcfg .always 5 (.d 4) 3 2) ∧
    decode 0b11110110_1111_000000_00000000000101 = .ok (.trap .always 5) ∧
    decode 0b11110111_1111_00000000000000000000 = .ok (.eret) ∧
    decode 0b11111000_1111_01001_000000000000000 = .ok (.ctxs .always 9) ∧
    decode 0b11111001_1111_01001_000000000000000 = .ok (.ctxr .always 9) ∧
    decode 0b11111010_1111_000000_000100_000000_00 = .ok (.tlbi .always (.d 4)) ∧
    decode 0b11111010_1111_000000_000100_000000_01 = .ok (.tlbiName .always (.d 4)) ∧
    decode 0b11111010_1111_000000_000000_000000_10 = .ok (.tlbiAll .always) ∧
    decode 0b11111011_1111_010010_00000000000000 = .ok (.fbpop .always (.k 2)) ∧
    decode 0b11111011_1111_010010_00000000000001 = .ok (.fbpopW1 .always (.k 2)) ∧
    decode 0b11111100_1111_01001_0000000000000_00 = .ok (.frz .always 9) ∧
    decode 0b11111100_1111_01001_0000000000000_01 = .ok (.frzDetail .always 9) ∧
    decode 0b11111100_1111_01001_0000000000000_10 = .ok (.frzRelease .always 9) ∧
    decode 0b11111101_1111_010010_000100_000000_00 = .ok (.pidx .always (.k 2) (.d 4)) ∧
    decode 0b11111101_1111_000000_000100_010110_01 = .ok (.pidxSet .always (.d 4) (.k 6)) := by
  and_intros <;> rfl

/-! ### What well-formedness refuses, check by check -/

theorem test_ill_formed_ill : WellFormed (.ill 0x01000000) = false := by decide
theorem test_ill_formed_ldp : WellFormed (.ldp .always (.k 3) (.d 0) 0) = false ∧
    WellFormed (.ldp .always .drift (.d 0) 0) = false := by decide
theorem test_ill_formed_stp : WellFormed (.stp .always (.k 3) (.d 0) 0) = false ∧
    WellFormed (.stp .always (.d 2) (.d 0) 0) = false := by decide
theorem test_ill_formed_cvtmx : WellFormed (.cvtmx .always .drift (.d 0) 6) = false ∧
    WellFormed (.cvtmx .always .drift (.d 0) 12) = false := by decide
theorem test_ill_formed_bcast : WellFormed (.bcast .always .drift (.d 0) (.d 1) .lo) = false ∧
    WellFormed (.bcast .always .drift (.d 0) (.k 0) .hi) = false := by decide
theorem test_ill_formed_fork : WellFormed (.fork .always .drift (.d 1) false) = false := by decide
theorem test_ill_formed_cstat : WellFormed (.cstat .always .drift (.k 0) false) = false := by decide
theorem test_ill_formed_qcfg : WellFormed (.qcfg .always 0 (.d 0) 2 4) = false ∧
    WellFormed (.qcfg .always 0 (.d 1) 2 0) = false := by decide
theorem test_ill_formed_sget : WellFormed (.sget .always .drift 28) = false := by decide
theorem test_ill_formed_sset : WellFormed (.sset .always (.d 0) 19) = false := by decide
theorem test_ill_formed_mwait : WellFormed (.mwait .always 1 false true) = false := by decide

/-! ### Words that are no instruction are refused by name (R33, R35, R37, R52) -/

theorem test_decode_refuses : decode 0x01700000 = .error .guard ∧ decode 0x10F04000 = .error .destination ∧
    decode 0x01F00001 = .error .field ∧ decode 0xEA000000 = .error .opcode ∧ decode 0x35FE0000 = .error .destination := by
  and_intros <;> rfl

/-! ### Small states -/

/-- A monitor-level team of n lanes with the k registers given, alone on core 0 of site 0; queue 0 holds one entry. -/
def team (n : Nat) (ks : List LaneVec) : Team :=
  { id := 1, hdr := { lanes := n, kregs := 32, qdepth := 32 }, place := { launch := 1, args := List.replicate 4 (List.replicate n 0) },
    regs :=
      { drift := emptyDrift n, k := ks ++ List.replicate (32 - ks.length) (List.replicate n 0),
        q := { depth := 2, items := [List.replicate n 9] } :: List.replicate 7 {}, s := List.replicate 8 0,
        p := List.replicate 7 0 },
    ctl := { pc := 0x1000, live := Mask.low n, cur := Mask.low n, priv := 2 } }

/-- One lane whose k registers hold the words given. -/
def team1 (ks : List Word) : Team := team 1 (ks.map (fun w => [w]))

/-- Partition 0, of site 0 alone. -/
def part0 : Partition :=
  { id := 0, dev := 0, sites := [0], domain := 0, reserved := 0, state := .running, nextLaunch := 2, journal := [],
    intake := [], dlq := [], dlqMoved := 0, replicas := [0, 0] }

/-- The first 32 MiB of site 0, one release-consistent page for tenant 0, with the bytes given set in them. -/
def mapped (ws : List (Nat × Nat × Nat)) : Memory :=
  ws.foldl (fun m x => Mem.write m x.1 x.2.1 x.2.2) [(7, 0x5F), (0x1F00400017, 1)]

/-- Site 0 with the team, which issues. -/
def world (t : Team) (ws : List (Nat × Nat × Nat)) : State :=
  { State.reset with
    mem := mapped ws, sites := [{ key := 0, part := some 0 }], teams := [t], parts := [part0], cur := 1, uid := 2 }

/-- What an outcome's state holds. -/
def goes : Host.Outcome State Fault Refusal → State
  | .next s => s
  | _ => State.reset
def teamAfter (r : Host.Outcome State Fault Refusal) : Team := ((goes r).team? 1).getD {}

/-- Each bit of a mask below n. -/
def bitsOf (m : Mask) (n : Nat) : List Bool := (List.range n).map (fun l => Mask.has m l)

def t0 : Team := team1 []
def s0 : State := world t0 []

/-- `Issues` as a computation. -/
def issuesB (s : State) (sh : Shape) (t : Team) : Bool :=
  s.curTeam? == some t && sh.active t != 0 && sh.wf && decide (sh.priv ≤ t.ctl.priv) &&
  hintOk sh.imm sh.immh sh.mod t.ctl.hint && sh.boundOk t && sh.emptyOk t && sh.fullOk t && t.wake == none &&
  t.pend.all (fun p => !sh.conflicts p (sh.dst.isSome && sh.pass.isNone))
theorem issues_iff (s : State) (sh : Shape) (t : Team) : issuesB s sh t = true ↔ Issues s sh t := by
  unfold issuesB Issues
  simp only [Bool.and_eq_true, beq_iff_eq, bne_iff_ne, decide_eq_true_eq, and_assoc]

/-! ### Single steps whose results the spec gives -/

/-- The lane demonstration of spec/06_integer.md: eight lanes, k0 the lane numbers, k1 = 3, p0 true in lanes 0 to 2. -/
def demo : Team :=
  let t := team 8 [[0, 1, 2, 3, 4, 5, 6, 7], List.replicate 8 3, [0, 1, 3, 0, 0, 0, 0, 0], [3, 2, 1, 0, 7, 6, 5, 4]]
  { t with regs := { t.regs with p := 7 :: List.replicate 6 0 } }

theorem test_demo_compare : bitsOf ((teamAfter (exec (.cmp .always 0 .lt (.k 0) (.k 1) .w64) (world demo []))).p 0) 8 =
    [true, true, true, false, false, false, false, false] := by decide +kernel
theorem test_demo_ballot : (teamAfter (exec (.ballot .always (.p 0)) (world demo []))).d 0 =
    List.replicate 8 0x0000000300000007 := by decide +kernel
theorem test_demo_scan : (teamAfter (exec (.tscan (.when 0) (.k 4) (.k 0) false .add) (world demo []))).d 0 =
    [0, 1, 3, 3, 4, 5, 6, 7] ∧
    (teamAfter (exec (.tscan (.when 0) (.k 4) (.k 0) false .add) (world demo []))).k 4 = [0, 1, 3, 0, 0, 0, 0, 0] := by
  decide +kernel
theorem test_demo_reduce : (teamAfter (exec (.tred .always .drift (.k 0) .max) (world demo []))).d 0 =
    List.replicate 8 7 := by decide +kernel
theorem test_demo_shuffle : (teamAfter (exec (.shfl .always (.k 5) (.k 0) (.k 1) .pair) (world demo []))).k 5 =
    [3, 2, 1, 0, 7, 6, 5, 4] := by decide +kernel
theorem test_demo_divide : (teamAfter (exec (.div .always .drift (.k 3) (.k 2) .w64) (world demo []))).d 0 =
    [-1, 2, 0, -1, -1, -1, -1, -1] := by decide +kernel
theorem test_demo_remainder : (teamAfter (exec (.rem .always .drift (.k 3) (.k 2) .w64) (world demo []))).d 0 =
    [3, 0, 1, 0, 7, 6, 5, 4] := by decide +kernel

theorem test_convert_tie : (teamAfter (exec (.cvtif .always .drift (.k 0) .i64) (world (team1 [16777217]) []))).d 0 =
    [0x4B800000] := by decide +kernel
theorem test_round_half : (teamAfter (exec (.fround .always .drift (.k 0) .rn) (world (team1 [0x40200000]) []))).d 0 =
    [0x40000000] := by decide +kernel
theorem test_round_keeps_sign : (teamAfter (exec (.fround .always .drift (.k 0) .rn) (world (team1 [0xBECCCCCD]) []))).d 0 =
    [0x80000000] := by decide +kernel
theorem test_abs_minimum : (teamAfter (exec (.abs .always .drift (.k 0)) (world (team1 [0x8000000000000000]) []))).d 0 =
    [0x8000000000000000] := by decide +kernel
theorem test_shift_count_masked :
    (teamAfter (exec (.shl .always .drift (.k 0) (.k 1) .w32) (world (team1 [1, 33]) []))).d 0 = [2] := by decide +kernel
theorem test_leading_zeros : (teamAfter (exec (.clz .always .drift (.k 0) .w32) (world (team1 [0]) []))).d 0 = [32] := by
  decide +kernel
theorem test_field_extract :
    (teamAfter (exec (.bfx .always .drift (.k 0) (.k 1) .w64) (world (team1 [0xABCD, 0x0804]) []))).d 0 = [0xBC] := by
  decide +kernel
theorem test_scaled_index :
    (teamAfter (exec (.lea .always (.k 2) (.k 0) (.k 1) 3) (world (team1 [0x100, 5]) []))).k 2 = [0x128] := by
  decide +kernel
theorem test_select_pops_once :
    ((teamAfter (exec (.sel (.when 0) .drift (.k 0) (.q 0)) s0)).queue 0).items = [] ∧
    (teamAfter (exec (.sel (.when 0) .drift (.k 0) (.q 0)) s0)).d 0 = [9] := by decide +kernel
theorem test_class_of_minus_zero :
    (teamAfter (exec (.fclass .always .drift (.k 0)) (world (team1 [0x80000000]) []))).d 0 = [8] := by decide +kernel
theorem test_call_links :
    (teamAfter (exec (.call .always 0xFFFFF) s0)).ctl.pc = 0xFFC ∧ (teamAfter (exec (.call .always 0xFFFFF) s0)).s 7 = 0x1004 := by
  decide +kernel
theorem test_calli_reads_first :
    (teamAfter (exec (.calli .always 7) (world (t0.setS 7 0x2000) []))).ctl.pc = 0x2000 ∧
    (teamAfter (exec (.calli .always 7) (world (t0.setS 7 0x2000) []))).s 7 = 0x1004 := by decide +kernel
theorem test_trap_vector :
    let s := goes (exec (.trap .always 5) s0)
    ((s.team? 1).getD {}).ctl.pc = 0x700 ∧ ((s.team? 1).getD {}).ctl.inHandler = true ∧
    Mem.word s.mem (t0.frameBase + 0x22000) = 0x1004 := by decide +kernel
theorem test_hint_extends :
    let s := goes (exec (.imm 1) s0)
    (teamAfter (exec (.li .always (.k 0) 0) s)).k 0 = [0x4000] := by decide +kernel
theorem test_load_byte_extends :
    let s := goes (exec (.ldI8 .always (.k 1) (.k 0) 1) (world (team1 [0x4000]) [(0x4001, 1, 0x80)]))
    (teamAfter (exec (.loadReturn 1 2 1) s)).k 1 = [0xFFFFFFFFFFFFFF80] := by decide +kernel
theorem test_store_then_load :
    let s := goes (exec (.st16 .always (.k 1) (.k 0) 1) (world (team1 [0x4000, 0xABCD]) []))
    (s.forward (s.teams.getD 0 {}).coreKey 1 0x4002 2, Mem.read s.mem 0x4002 2) = (0xABCD, 0) := by decide +kernel
theorem test_store_drains :
    let s := goes (exec (.st16 .always (.k 1) (.k 0) 1) (world (team1 [0x4000, 0xABCD]) []))
    Mem.read (goes (exec (.writeBufferDrain 0 0) s)).mem 0x4002 2 = 0xABCD := by decide +kernel
theorem test_misaligned_load_traps :
    (teamAfter (exec (.ld64 .always (.k 1) (.k 0) 0) (world (team1 [0x4004]) []))).ctl.pc = 0x400 := by decide +kernel
theorem test_atomic_returns_old :
    let s := goes (exec (.aadd .always (.k 2) (.k 0) (.k 1) .acquire) (world (team1 [0x4000, 5]) [(0x4000, 8, 7)]))
    (s.teams.getD 0 {}).k 2 = [7] ∧ Mem.word s.mem 0x4000 = 12 := by decide +kernel
theorem test_counter_increment :
    let s := goes (exec (.cinc .always 0) (world (team1 [0x4000, 5]) [(0x4000, 8, 7)]))
    Mem.word (goes (exec (.counterIncrement 2) s)).mem 0x4000 = 12 := by decide +kernel

theorem test_hint_word_without_lanes :
    (teamAfter (exec (.imm 5) (world { t0 with ctl := { t0.ctl with cur := 0, hint := { imm := some 1 } } } []))).ctl.hint.imm =
      some 5 := by decide +kernel

/-! ### States and operands that meet the hypotheses of the obligations -/

/-- Nobody listens at any site of a state whose teams are idle and whose sites have no waiter. -/
theorem noListeners_of {s : State} (ht : ∀ u ∈ s.teams, u.tx.live = false ∧ u.fetched = [] ∧ u.parkedIn = none)
    (hs : ∀ x ∈ s.sites, x.waits = []) (k : Nat) : NoListeners s k := by
  refine ⟨fun u hu => ⟨(ht u hu).1, (ht u hu).2.1, fun w k n h => ?_⟩, ?_⟩
  · simp [(ht u hu).2.2] at h
  · unfold State.site
    cases h : s.sites.find? (fun x => x.key == k) with
    | none => rfl
    | some x => exact hs x (List.mem_of_find?_eq_some h)

theorem witness_decode_undoes_encode :
    WellFormed (.ldp .always (.k 30) (.q 7) 0x80) = true ∧ encode (.ldp .always (.k 30) (.q 7) 0x80) = some 0x87FBB780 := by
  decide +kernel
theorem witness_encode_undoes_decode :
    decode 0xF5FD0532 = .ok (.qcfg .always 4 (.d 5) 3 2) ∧ WellFormed (.qcfg .always 4 (.d 5) 3 2) = true := ⟨rfl, rfl⟩

/-- A word placed where the next step fetches: the turn, the slot, the team, and the word read. -/
def placed (w : Nat) : State := State.reset.withFetchWord 32 w
def placedTurn (w : Nat) : State := (placed w).takeTurn.2
def placedSlot (w : Nat) : Option (State × Team × Code) :=
  let s1 := placedTurn w
  match s1.chooseTeam 0 with
  | none => none
  | some t =>
    let s2 := (s1.takeSlot 0 (some t)).parkOnHead t.id
    match s2.team? t.id with
    | none => none
    | some u =>
      match s2.fetch u with
      | .word s3 w => if u.status = .running then some (s3, u, w) else none
      | .ended _ => none

theorem witness_step_runs_the_fetched_instruction :
    (placed 0x01F00000).takeTurn.1 = some (.issue 0) ∧ (placedTurn 0x01F00000).lostPart 0 = none ∧
    (placedSlot 0x01F00000).map (fun x => x.2.2) = some 0x01F00000 ∧
    (placedSlot 0xEAF00000).map (fun x => x.2.2) = some 0xEAF00000 := by decide +kernel
theorem witness_step_words : decode 0x01F00000 = .ok (.nop .always) ∧ decode 0xEAF00000 = .error .opcode := ⟨rfl, rfl⟩
theorem witness_step_runs_the_event :
    ({ State.reset with agenda := [{ wait := 6, act := .event (.siteReset 0) }] } : State).agenda =
      { wait := 6, act := .event (.siteReset 0) } :: [] := rfl
theorem witness_step_keeps_memory_canonical : (placed 0x01F00000).memOk ∧ ∃ t, step (placed 0x01F00000) = .next t := by
  refine ⟨by unfold State.memOk; decide +kernel, ?_⟩
  have h : (match step (placed 0x01F00000) with | .next _ => true | _ => false) = true := by decide +kernel
  cases h2 : step (placed 0x01F00000) with
  | next t => exact ⟨t, rfl⟩
  | fault f => rw [h2] at h; cases h
  | refused r => rw [h2] at h; cases h

theorem witness_sources_read_in_order :
    (shapeDAB 0x10 .always .drift (.d 15) (.k 31)).srcs[0]? = some (.d 15) ∧
    (shapeDAB 0x10 .always .drift (.d 15) (.k 31)).srcs[1]? = some (.k 31) ∧
    (shapeDAB 0x10 .always .drift (.q 0) (.s 7)).srcs[0]? = some (.q 0) ∧
    (shapeDAB 0x10 .always .drift (.q 0) (.s 7)).srcs[1]? = some (.s 7) := by decide

theorem witness_no_active_lane :
    s0.curTeam? = some t0 ∧ (shapeDAB 0x10 (.when 6) (.s 7) (.q 0) (.k 31)).active t0 = 0 ∧ t0.pend = [] ∧
    (shapeDAB 0x10 (.when 6) (.s 7) (.q 0) (.k 31)).boundOk t0 = true ∧
    (shapeDAB 0x10 (.when 6) (.s 7) (.q 0) (.k 31)).emptyOk t0 = true ∧
    (shapeDAB 0x10 (.when 6) (.s 7) (.q 0) (.k 31)).fullOk t0 = true := by decide +kernel

/-- The demonstration's team with no lane enabled. -/
def idleTeam : Team := { t0 with ctl := { t0.ctl with cur := 0 } }
theorem witness_no_enabled_lane : (world idleTeam []).curTeam? = some idleTeam ∧ idleTeam.enabled = 0 := by decide +kernel

theorem witness_integer_and_logic_complete :
    Issues s0 (shapeDAB 0x10 .always (.k 31) (.q 0) (.d 15)) t0 ∧
    Issues s0 { shapeDAB 0x15 .always (.s 7) (.k 0) (.d 0) with srcs := [.k 0, .d 0, oldOf (.s 7)] } t0 ∧
    Issues s0 (shapeDA 0x2F (.unless 6) (.q 0) (.q 0)) t0 := by simp only [← issues_iff]; decide +kernel
theorem witness_division : Issues s0 (shapeDAB 0x16 .always .drift (.k 0) (.k 1)) t0 := by simp only [← issues_iff]; decide +kernel

/-- The base team with both immediate hints pending, or a rounding attribute. -/
def hinted : Team := { t0 with ctl := { t0.ctl with hint := { imm := some 0xFFFFFF, immh := some 1 } } }
def rounding : Team := { t0 with ctl := { t0.ctl with hint := { mod := some 0x018000 } } }
theorem witness_immediates_complete :
    Issues (world hinted []) { op := 0x30, sel := .guard .always, dst := some (.k 31), imm := true, immh := true } hinted ∧
    Issues (world hinted []) (shapeImm 0x32 .always .drift (.q 0)) hinted ∧
    Issues s0 (shapeDA 0x33 .always .drift (.k 0)) t0 ∧ Issues s0 (shapeDAB 0x34 .always .drift (.k 0) (.k 1)) t0 := by
  simp only [← issues_iff]; decide +kernel
theorem witness_predicate_instructions :
    Issues s0 (shapeCmp 0x35 .always (.q 0) (.k 31)) t0 ∧ Issues s0 (shapeP 0x3A .always) t0 ∧
    Issues s0 { shapeDAB 0x37 (.when 6) .drift (.q 0) (.k 1) with sel := .enabled } t0 ∧
    Issues s0 { shapeP 0x3B .always with dst := some .drift } t0 ∧ Issues s0 (shapeDA 0x3D .always (.s 0) (.d 15)) t0 := by
  simp only [← issues_iff]; decide +kernel
theorem witness_float_and_complex :
    Issues (world rounding []) (shapeRound2 0x40 .always (.k 31) (.q 0) (.d 15)) rounding ∧
    Issues (world rounding []) { shapeRound2 0x53 .always .drift (.k 0) (.k 1) with srcs := [.k 0, .k 1, oldOf .drift] } rounding ∧
    Issues (world rounding []) (shapeRound1 0x4C .always .drift (.k 0)) rounding ∧
    Issues s0 { shapeDAB 0x56 .always (.k 0) (.k 1) (.k 2) with pushes := 2 } t0 ∧
    Issues s0 (shapeDA 0x4E .always .drift (.k 0)) t0 := by simp only [← issues_iff]; decide +kernel
theorem witness_number_formats_round_trip :
    0xFF800000 < 2 ^ 32 ∧ FV.decode b32 0xFF800000 ≠ .nan ∧ FV.decode b16 1 ≠ .nan ∧ FV.decode Machine.bf16 0x8000 ≠ .nan ∧
    narrowDecode .e4m3 0x7E ≠ .nan ∧ narrowDecode .e2m1 0xF ≠ .nan ∧ narrowDecode .f16 0xFC00 ≠ .nan := by decide +kernel
theorem witness_conversions_complete :
    Issues (world rounding []) (shapeRound1 0x60 .always (.k 31) (.q 0)) rounding ∧
    Issues s0 { shapeDA 0x64 .always .drift (.k 0) with wf := wfCvtmx 0xB } t0 ∧
    Issues s0 (shapeDAB 0x65 .always .drift (.k 0) (.k 1)) t0 ∧ Issues s0 (shapeDA 0x66 .always .drift (.k 0)) t0 := by
  simp only [← issues_iff]; decide +kernel

/-- A team of two passes asked to yield. -/
def asked : Team := { team 64 [] with yieldReq := true }
theorem witness_lane_instructions :
    Issues s0 (shapeDAB 0x71 .always (.k 31) (.q 0) (.d 15)) t0 ∧ t0.long = none ∧ t0.yieldReq = false ∧
    Issues (world asked []) (shapeDAB 0x71 .always .drift (.k 0) (.k 1)) asked ∧ asked.long = none ∧ asked.yieldReq = true ∧
    32 < asked.nlane ∧ Issues (world asked []) (shapeDA 0x74 .always .drift (.k 0)) asked ∧
    Issues s0 (shapeDA 0x74 .always (.s 0) (.q 0)) t0 := by simp only [← issues_iff]; decide +kernel
theorem witness_lane_sources :
    Issues (world demo []) (shapeDAB 0x70 .always .drift (.k 0) (.k 1)) demo ∧ 3 < (ctxOf (shapeDAB 0x70 .always .drift (.k 0) (.k 1)) demo).t.nlane ∧ Mask.has ((shapeDAB 0x70 .always .drift (.k 0) (.k 1)).active demo) 3 = true ∧
    7 / 32 = 3 / 32 ∧ (lane (demo.k 1) 7).toNat % 32 = 3 % 32 ∧ (lane (demo.k 1) 7).toNat % 1024 = 3 ∧
    Mask.has (ctxOf (shapeDAB 0x70 (.unless 0) .drift (.k 0) (.k 0)) demo).act 2 = false ∧
    (lane ((ctxOf (shapeDAB 0x70 (.unless 0) .drift (.k 0) (.k 0)) demo).val 1) 2).toNat % 1024 = 2 ∧
    (ctxOf (shapeDA 0x73 .always .drift (.k 0)) t0).lanes = [0] ∧
    Mask.has (ctxOf (shapeDA 0x74 .always .drift (.k 0)) demo).act 7 = true := by simp only [← issues_iff]; decide +kernel

theorem witness_nop_ill_and_hint_words :
    Issues s0 { op := 0x01, sel := .guard (.unless 6) } t0 ∧ wfIll 0xFF000001 = true ∧ s0.curTeam? = some t0 ∧ t0.enabled ≠ 0 ∧
    t0.ctl.hint.imm = none ∧ t0.ctl.hint.mod = none ∧ (world hinted []).curTeam? = some hinted ∧ hinted.enabled ≠ 0 ∧
    hinted.ctl.hint.imm ≠ none ∧ hinted.ctl.hint.immh ≠ none ∧ (world rounding []).curTeam? = some rounding ∧
    rounding.enabled ≠ 0 ∧ rounding.ctl.hint.mod ≠ none := by simp only [← issues_iff]; decide +kernel

/-- Only the first immediate hint is pending. -/
def halfHinted : Team := { t0 with ctl := { t0.ctl with hint := { imm := some 1 } } }
theorem witness_immh_after_imm : (world halfHinted []).curTeam? = some halfHinted ∧ halfHinted.ctl.hint.immh = none ∧
    halfHinted.ctl.hint.imm ≠ none := by decide +kernel

theorem witness_branches :
    Issues s0 (shapeBranch 0x02) t0 ∧ t0.enabled &&& t0.cond .always = t0.enabled ∧ t0.enabled &&& t0.cond (.when 6) = 0 ∧
    Issues (world demo []) (shapeBranch 0x02) demo ∧ demo.enabled &&& demo.cond (.when 0) ≠ demo.enabled ∧
    demo.enabled &&& demo.cond (.when 0) ≠ 0 ∧ Issues s0 (shapeBranch 0x04) t0 ∧
    Issues (world halfHinted []) (shapeBranch 0x03) halfHinted ∧ t0.ctl.hint.imm = none ∧ halfHinted.ctl.hint.imm = some 1 ∧
    (world idleTeam []).curTeam? = some idleTeam ∧ idleTeam.enabled = 0 ∧ idleTeam.pend = [] := by
  simp only [← issues_iff]; decide +kernel

/-- s7 holds a target off a multiple of 4. -/
def crooked : Team := t0.setS 7 0x2002
theorem witness_calls_and_returns :
    Issues s0 { op := 0x05, sel := .guard .always, imm := true, srcs := [.s 7] } t0 ∧
    ({ op := 0x06, sel := .guard .always, srcs := [.s 7] } : Shape).active t0 = t0.enabled ∧
    (branchTarget t0 7).extractLsb' 0 2 = 0 ∧ (t0.s 7).extractLsb' 0 2 = 0 ∧
    Issues s0 { op := 0x06, sel := .guard .always, srcs := [.s 7] } t0 ∧
    Issues s0 { op := 0x06, sel := .guard .always, srcs := [.s 0, .s 7] } t0 ∧
    Issues s0 { op := 0x07, sel := .guard .always, srcs := [.s 7] } t0 ∧
    Issues (world demo []) { op := 0x07, sel := .guard (.when 0), srcs := [.s 7] } demo ∧
    ({ op := 0x07, sel := .guard (.when 0), srcs := [.s 7] } : Shape).active demo ≠ demo.enabled ∧
    Issues (world crooked []) { op := 0x07, sel := .guard .always, srcs := [.s 7] } crooked ∧
    (crooked.s 7).extractLsb' 0 2 ≠ 0 := by simp only [← issues_iff]; decide +kernel

/-- Inside an `if`, a loop, or sixteen levels. -/
def inIf : Team :=
  { t0 with ctl := { t0.ctl with stack := [{ image := 1, isLoop := false, inElse := false, target := 0x1000, body := 0 }] } }
def inLoop : Team :=
  { t0 with ctl := { t0.ctl with stack := [{ image := 1, isLoop := true, inElse := false, target := 0x1000, body := 0x101C }] } }
def loopOver : Team := { inLoop with ctl := { inLoop.ctl with brk := 1, cur := 0 } }
def deep : Team := { t0 with ctl := { t0.ctl with stack := List.replicate 16 { image := 1 } } }
theorem witness_structured_control :
    (world inIf []).curTeam? = some inIf ∧ hintOk true false .none inIf.ctl.hint = true ∧
    hintOk false false .none inIf.ctl.hint = true ∧ t0.ctl.stack.length < 16 ∧
    inIf.ctl.stack = { image := 1, isLoop := false, inElse := false, target := 0x1000, body := 0 } :: [] ∧
    inIf.ctl.pc = 0x1000 ∧ (world inLoop []).curTeam? = some inLoop ∧
    inLoop.ctl.stack = [] ++ { image := 1, isLoop := true, inElse := false, target := 0x1000, body := 0x101C } :: [] ∧
    branchTarget inLoop 7 = 0x101C ∧ (1 : Mask) &&& inLoop.ctl.live &&& ~~~inLoop.ctl.brk ≠ 0 ∧
    (world loopOver []).curTeam? = some loopOver ∧ loopOver.enabled = 0 ∧
    (1 : Mask) &&& loopOver.ctl.live &&& ~~~loopOver.ctl.brk = 0 := by decide +kernel
theorem witness_structure_traps :
    (world deep []).curTeam? = some deep ∧ 16 ≤ deep.ctl.stack.length ∧ s0.curTeam? = some t0 ∧ t0.ctl.stack = [] ∧
    (∀ l ∈ deep.ctl.stack, l.isLoop = false) ∧ hintOk false false .none deep.ctl.hint = true := by decide +kernel
theorem witness_structure_mismatch :
    (∀ l r, inLoop.ctl.stack = l :: r → l.isLoop = true ∨ l.inElse = true ∨ l.target ≠ inLoop.ctl.pc) ∧
    (∀ l r, inLoop.ctl.stack = l :: r → l.isLoop = true ∨ l.target ≠ inLoop.ctl.pc) ∧
    (∀ l r, inIf.ctl.stack = l :: r → l.isLoop = false ∨ l.target ≠ inIf.ctl.pc ∨ branchTarget inIf 0 ≠ l.body) := by
  have loopTop : inLoop.ctl.stack.head? = some { image := 1, isLoop := true, inElse := false, target := 0x1000, body := 0x101C } := by
    decide +kernel
  have ifTop : inIf.ctl.stack.head? = some { image := 1, isLoop := false, inElse := false, target := 0x1000, body := 0 } := by
    decide +kernel
  refine ⟨fun l r h => .inl ?_, fun l r h => .inl ?_, fun l r h => .inl ?_⟩
  · simp only [h, List.head?_cons, Option.some.injEq] at loopTop; simp [loopTop]
  · simp only [h, List.head?_cons, Option.some.injEq] at loopTop; simp [loopTop]
  · simp only [h, List.head?_cons, Option.some.injEq] at ifTop; simp [ifTop]

theorem witness_exit :
    Issues s0 { op := 0x0F, sel := .guard .always } t0 ∧ t0.tx.live = false ∧
    t0.ctl.live &&& ~~~({ op := 0x0F, sel := .guard .always } : Shape).active t0 = 0 ∧ s0.matrixQueueOf t0 = [] ∧
    t0.deferred = [] ∧ t0.handles = [] ∧ (∀ k ∈ s0.cmds, k.team = some t0.id → k.state = CmdState.heldInSet) ∧
    (∀ o ∈ s0.ops, o.team ≠ t0.id) ∧ Issues (world demo []) { op := 0x0F, sel := .guard (.when 0) } demo ∧
    demo.ctl.live &&& ~~~({ op := 0x0F, sel := .guard (.when 0) } : Shape).active demo ≠ 0 := by
  simp only [← issues_iff]; decide +kernel

/-- MSEL names C's word 0, V's, or a level image that the stack has not. -/
def selC : Team := { t0 with ctl := { t0.ctl with msel := 0 } }
def selV : Team := { t0 with ctl := { t0.ctl with msel := 32 } }
def selDeep : Team := { t0 with ctl := { t0.ctl with msel := 96 } }
theorem witness_special_registers :
    Issues s0 { op := 0xF3, sel := .guard .always, dst := some (.k 31), wf := wfSget 27 } t0 ∧
    (∀ i, i < 8 → (t0.queue i).items.length < 256 ∧ (t0.queue i).depth < 256) ∧
    Issues s0 { op := 0xF4, sel := .guard .always, srcs := [.q 0], wf := wfSset 20, priv := ssetPriv 20 } t0 ∧
    lane ((valsOf { op := 0xF4, sel := .guard .always, srcs := [.k 0], wf := wfSset 22, priv := ssetPriv 22 } t0).getD 0 [])
      (Mask.first t0.enabled t0.nlane) = 0 ∧
    ssetCheck 20 0 = none ∧ (ssetCheck 20 1).isSome = true ∧ selC.ctl.msel.toNat / 32 = 0 ∧ selV.ctl.msel.toNat / 32 = 1 ∧
    3 ≤ selDeep.ctl.msel.toNat / 32 ∧ selDeep.ctl.stack.length ≤ selDeep.ctl.msel.toNat / 32 - 3 ∧
    Mask.has (selV.setSpecial 25 1).ctl.live 0 = true := by simp only [← issues_iff]; decide +kernel
theorem witness_queue_configuration :
    Issues s0 { op := 0xF5, sel := .guard .always, srcs := [.q 0], wf := wfQcfg (.q 0) 15 2 } t0 ∧
    (15 + 1) + (((List.range 8).filter (fun i => i != 7)).map (fun i => (t0.queue i).depth)).sum ≤ t0.hdr.qdepth ∧
    Issues (world { t0 with hdr := { t0.hdr with qdepth := 17 } } [])
      { op := 0xF5, sel := .guard .always, srcs := [], wf := wfQcfg (.d 0) 15 0 } { t0 with hdr := { t0.hdr with qdepth := 17 } } ∧
    17 < (15 + 1) + (((List.range 8).filter (fun i => i != 7)).map (fun i => (t0.queue i).depth)).sum := by
  simp only [← issues_iff]; decide +kernel

/-- The base team inside its handler, its frame as a trap of class 7 left it. -/
def trapped : State := goes (exec (.trap .always 0x3FFF) s0)
def handler : Team := (trapped.team? 1).getD {}
theorem witness_software_trap :
    Issues s0 { op := 0xF6, sel := .guard .always } t0 ∧ t0.pend = [] ∧ t0.tx.live = false ∧ t0.ctl.inHandler = false ∧
    t0.nlane ≤ 1024 ∧ Mem.wf s0.mem = true ∧ Issues trapped { op := 0xF7, sel := .enabled } handler ∧ handler.pend = [] ∧
    (∀ e ∈ (trapped.core handler.coreKey).wbuf, e.team ≠ handler.id) ∧ handler.ctl.inHandler = true ∧
    Mem.word trapped.mem (handler.frameBase + 0x22000) = 0x1000 + 4 ∧
    Mem.word trapped.mem (handler.frameBase + 0x22008) = 2 ∧ 2 ≤ handler.ctl.priv ∧ handler.ctl.stack.length = 0 ∧
    (0xF6F04005 : Code).extractLsb' 24 8 = 0xF6 ∧ (0xF6F04005 : Code).extractLsb' 14 6 ≠ 0 ∧
    t0.enabled &&& t0.cond .always ≠ 0 := by simp only [← issues_iff]; decide +kernel
theorem witness_software_trap_guard : gOf 0xF6F04005 = .ok .always := rfl
theorem witness_trap_entry :
    Mem.wf s0.mem = true ∧ s0.team? t0.id = some t0 ∧ t0.pend = [] ∧ t0.tx.live = false ∧ t0.ctl.inHandler = false ∧
    t0.nlane ≤ 1024 ∧ (Mask.lanes 1 t0.nlane)[0]? = some 0 ∧ trapped.team? handler.id = some handler ∧ handler.pend = [] ∧
    handler.tx.live = false ∧ handler.ctl.inHandler = true := by decide +kernel

/-- The same, the frame's EPC off a multiple of 4. -/
def crookedFrame : State := { trapped with mem := Mem.write trapped.mem (handler.frameBase + 0x22000) 8 0x1005 }
theorem witness_return_from_trap :
    Issues s0 { op := 0xF7, sel := .enabled } t0 ∧ t0.ctl.inHandler = false ∧
    (∀ e ∈ (s0.core t0.coreKey).wbuf, e.team ≠ t0.id) ∧ Issues trapped { op := 0xF7, sel := .enabled } handler ∧
    handler.ctl.inHandler = true ∧ (Mem.word trapped.mem (handler.frameBase + 0x22000)).extractLsb' 0 2 = 0 ∧
    2 ≤ handler.ctl.priv ∧ (Mem.word trapped.mem (handler.frameBase + 0x22008)).extractLsb' 16 48 = 0 ∧
    (Mem.word trapped.mem (handler.frameBase + 0x22008)).extractLsb' 2 6 = 0 ∧
    ((Mem.word trapped.mem (handler.frameBase + 0x22008)).extractLsb' 11 5).toNat = handler.ctl.stack.length ∧
    Issues crookedFrame { op := 0xF7, sel := .enabled } handler ∧
    (Mem.word crookedFrame.mem (handler.frameBase + 0x22000)).extractLsb' 0 2 ≠ 0 := by simp only [← issues_iff]; decide +kernel

/-- A user-level team. -/
def user : Team := { t0 with ctl := { t0.ctl with priv := 0 } }
theorem witness_trap_then_return :
    Mem.wf (world user []).mem = true ∧ (world user []).team? user.id = some user ∧ user.pend = [] ∧ user.tx.live = false ∧
    user.ctl.inHandler = false ∧ user.nlane ≤ 1024 ∧ user.ctl.pc.extractLsb' 0 2 = 0 ∧ user.ctl.priv ≤ 1 ∧
    user.ctl.stack.length ≤ 16 ∧ user.ctl.cur &&& user.ctl.live = user.ctl.cur ∧
    user.ctl.brk &&& user.ctl.live = user.ctl.brk ∧ (∀ e ∈ ((world user []).core user.coreKey).wbuf, e.team ≠ user.id) := by
  decide +kernel
theorem witness_checks_in_order :
    let sh : Shape := { op := 0x87, sel := .guard .always, wf := false }
    let pr : Shape := { op := 0xFC, sel := .guard .always, priv := 2 }
    let bound : Shape := { op := 0xB0, sel := .guard .always, blk := some (31, 2) }
    let few : Shape := { op := 0x10, sel := .guard .always, srcs := [.q 0, .q 0] }
    let full : Shape := { op := 0x10, sel := .guard .always, dst := some (.q 7) }
    s0.curTeam? = some t0 ∧ t0.pend = [] ∧ sh.active t0 ≠ 0 ∧ sh.wf = false ∧ pr.wf = true ∧ user.ctl.priv < pr.priv ∧
    (world user []).curTeam? = some user ∧ pr.active user ≠ 0 ∧ (world hinted []).curTeam? = some hinted ∧
    hintOk few.imm few.immh few.mod hinted.ctl.hint = false ∧ bound.boundOk t0 = false ∧ few.boundOk t0 = true ∧
    few.emptyOk t0 = false ∧ full.boundOk t0 = true ∧ full.emptyOk t0 = true ∧ full.fullOk t0 = false ∧
    hintOk full.imm full.immh full.mod t0.ctl.hint = true := by decide +kernel

/-- A team whose k0 names mapped memory and k1 a value, beside its world. -/
def tl : Team := team1 [0x4000, 0xABCD]
def sl : State := world tl [(0x4000, 8, 7)]
/-- What the checks answer for lane 0 at 0x4000. -/
def x0 : LaneX :=
  { lane := 0, vaddr := 0x4000, phys := 0x4000, kind := .rc, repl := [], ctl := false,
    leaf := some { kind := .rc, repl := false, wr := true, ex := true, usr := true, big := true, frame := 0, rmask := 0 } }
/-- The team's load issued. -/
def loading : State := goes (exec (.ld64 .always (.k 1) (.k 0) 0) sl)
def loader : Team := (loading.team? 1).getD {}
def noPend : Pend :=
  { id := 0, seq := 0, op := .load 0 false, release := none, acquire := none, dst := none, uniform := false, age := 0, act := 0,
    lanes := [] }
def theLoad : Pend := loader.pend.headD noPend

theorem witness_loads :
    ∃ x ∈ loadForms tl .always (.k 1) (.d 0) (.k 0) 0 0, Issues sl x.sh tl ∧ tl.tx.live = false ∧
      (∀ i ∈ sl.incs, i.team ≠ some tl.id) ∧ (∀ e ∈ (sl.core tl.coreKey).wbuf, e.team = tl.id → e.kind ≠ .strong) ∧
      sl.checkLanes tl { size := x.size, write := false, plain := true, cross := false } x.addrs = .ok [x0] ∧
      ∀ y ∈ [x0], y.ctl = false ∧ sl.mxAhead tl (kindUnder (x.ord == .strong) y.kind) = false := by
  refine ⟨_, List.mem_of_getElem? (i := 6) rfl, ?_⟩
  simp only [← issues_iff]; decide +kernel
theorem witness_loads_pair_and_acquire :
    (∃ x ∈ loadForms tl .always (.k 30) (.d 0) (.k 0) 0 0, x.size = 16 ∧ Issues sl x.sh tl ∧
      sl.checkLanes tl { size := x.size, write := false, plain := true, cross := false } x.addrs = .ok [x0]) ∧
    (∃ x ∈ loadForms tl .always .drift (.d 0) (.k 0) 0 0, (x.ord.span tl).isSome = true ∧ Issues sl x.sh tl ∧
      sl.checkLanes tl { size := x.size, write := false, plain := true, cross := false } x.addrs = .ok [x0]) := by
  refine ⟨⟨_, List.mem_of_getElem? (i := 7) rfl, ?_⟩, ⟨_, List.mem_of_getElem? (i := 10) rfl, ?_⟩⟩ <;>
    (simp only [← issues_iff]; decide +kernel)
theorem witness_load_returns :
    loading.live loader.place.site = true ∧ ({ loading with sites := [{ key := 0, part := some 0, frozen := true }] } : State).live loader.place.site = false ∧
    loading.team? loader.id = some loader ∧ loader.pend.find? (fun q => q.id == theLoad.id) = some theLoad ∧
    theLoad.op = .load 8 false ∧ loading.before (.pend loader.id theLoad.id) = [] ∧
    (∀ a ∈ theLoad.lanes, a.got = none ∧ Mask.has 1 a.lane = true ∧ a.lane < loader.nlane) ∧
    (∀ u ∈ loading.teams, u.tx.live = false) ∧ (theLoad.lanes.map (fun a => a.lane)).Nodup ∧ theLoad.uniform = false ∧
    (∀ a ∈ theLoad.lanes, Mask.has theLoad.act a.lane = true) ∧ theLoad.dst = some (.k 1) ∧ theLoad.age < 16 := by
  decide +kernel

/-- The team's store stands in the write buffer; and a store that must wait for a load. -/
def stored : State := goes (exec (.st64 .always (.k 1) (.k 0) 0) sl)
def noEntry : WbEntry := { id := 0, team := 0, seq := 0, line := 0, bytes := [], kind := .rc, release := none, repl := [] }
def theEntry : WbEntry := (stored.core 0).wbuf.headD noEntry
def waitingEntry : WbEntry := { noEntry with id := 9, team := 1, seq := 9, line := 0x100, bytes := [(0, 1)], release := some allSpan }
def mustWait : State := loading.putCore { loading.core 0 with wbuf := [waitingEntry] }
theorem witness_stores :
    ∃ x ∈ storeForms tl .always (.k 1) (.d 0) (.k 0) 0 0, Issues sl x.sh tl ∧ tl.tx.live = false ∧ tl.pend = [] ∧
      (∀ i ∈ sl.incs, i.team ≠ some tl.id) ∧ (sl.core tl.coreKey).wbuf.length + [x0].length ≤ 8 ∧
      sl.checkLanes tl { size := x.size, write := true, plain := true, cross := true } x.addrs = .ok [x0] ∧
      ∀ y ∈ [x0], y.ctl = false ∧ y.phys % 64 + x.size ≤ 64 ∧ x.ord = .plain ∧
        sl.mxAhead tl (kindUnder (x.ord == .strong) y.kind) = false := by
  refine ⟨_, List.mem_of_getElem? (i := 3) rfl, ?_⟩
  simp only [← issues_iff]; decide +kernel
theorem witness_release_stores :
    ∃ x ∈ storeForms tl .always (.k 1) (.d 0) (.k 0) 0 0, Issues sl x.sh tl ∧ x.ord = .release 2 ∧ sl.remoteUnder tl 2 = [] ∧
      sl.mxReads tl (fun _ => true) = false := by
  refine ⟨_, List.mem_of_getElem? (i := 6) rfl, ?_⟩
  simp only [← issues_iff]; decide +kernel
theorem witness_drain :
    Mem.wf stored.mem = true ∧ (stored.core 0).wbuf.find? (fun e => e.line % 8 == 0) = some theEntry ∧
    stored.before (.entry 0 theEntry.id) = [] ∧ theEntry.repl = [] ∧ stored.live (coreSite 0) = true ∧
    (stored.core 0).wbuf.find? (fun e => e.line % 8 == 7) = none ∧ Mem.wf mustWait.mem = true ∧
    (mustWait.core 0).wbuf.find? (fun e => e.line % 8 == 0) = some waitingEntry ∧
    mustWait.before (.entry 0 waitingEntry.id) ≠ [] := by decide +kernel
theorem witness_drain_listeners : NoListeners stored (theEntry.line * 64 / 2 ^ 37) :=
  noListeners_of (by decide +kernel) (by decide +kernel) _

/-- k0 off a multiple of 8; outside the site; on a page that is not mapped. -/
def tOdd : Team := team1 [0x4004]
def tFar : Team := team1 [0x8000000000000000]
def tGone : Team := team1 [0x2000000]
theorem witness_access_traps :
    (∃ x ∈ loadForms tOdd .always (.k 1) (.d 0) (.k 0) 0 0, Issues (world tOdd []) x.sh tOdd ∧
      x.addrs.filter (fun y => y.2.toNat % x.size != 0) ≠ []) ∧
    (∃ x ∈ loadForms tFar .always (.k 1) (.d 0) (.k 0) 0 0, Issues (world tFar []) x.sh tFar ∧
      (world tFar []).checkLanes tFar { size := x.size, write := false, plain := true, cross := false } x.addrs =
        .trap 4 0x02 [(0, 0x8000000000000000)]) ∧
    (∃ x ∈ loadForms tGone .always (.k 1) (.d 0) (.k 0) 0 0, Issues (world tGone []) x.sh tGone ∧ tGone.tx.live = false ∧
      (world tGone []).checkLanes tGone { size := x.size, write := false, plain := true, cross := false } x.addrs =
        .fault 0x2000000 false) := by
  refine ⟨⟨_, List.mem_of_getElem? (i := 6) rfl, ?_⟩, ⟨_, List.mem_of_getElem? (i := 6) rfl, ?_⟩,
    ⟨_, List.mem_of_getElem? (i := 6) rfl, ?_⟩⟩ <;> (simp only [← issues_iff]; decide +kernel)
theorem witness_store_traps :
    (∃ x ∈ storeForms tOdd .always (.k 1) (.d 0) (.k 0) 0 0, Issues (world tOdd []) x.sh tOdd ∧
      x.addrs.filter (fun y => y.2.toNat % x.size != 0) ≠ []) ∧
    (∃ x ∈ storeForms tFar .always (.k 1) (.d 0) (.k 0) 0 0, Issues (world tFar []) x.sh tFar ∧
      (world tFar []).checkLanes tFar { size := x.size, write := true, plain := true, cross := true } x.addrs =
        .trap 4 0x02 [(0, 0x8000000000000000)]) ∧
    (∃ x ∈ storeForms tGone .always (.k 1) (.d 0) (.k 0) 0 0, Issues (world tGone []) x.sh tGone ∧ tGone.tx.live = false ∧
      (world tGone []).checkLanes tGone { size := x.size, write := true, plain := true, cross := true } x.addrs =
        .fault 0x2000000 false) := by
  refine ⟨⟨_, List.mem_of_getElem? (i := 3) rfl, ?_⟩, ⟨_, List.mem_of_getElem? (i := 3) rfl, ?_⟩,
    ⟨_, List.mem_of_getElem? (i := 3) rfl, ?_⟩⟩ <;> (simp only [← issues_iff]; decide +kernel)

/-- The team's relaxed atomic in its port's queue. -/
def updating : State := goes (exec (.aadd .always (.k 2) (.k 0) (.k 1) .relaxed) sl)
def updater : Team := (updating.team? 1).getD {}
def theUpdate : Pend := updater.pend.headD noPend
def noAcc : LaneAcc := { lane := 0, addr := 0, kind := .rc, repl := [], opnd := 0, expect := 0, got := none }
theorem witness_atomics :
    (∃ x ∈ atomForms .always (.k 2) (.k 0) (.k 1) .acqRel, Issues sl x.sh tl ∧ tl.tx.live = false ∧ Quiet sl tl ∧
      atom32 tl.ctl.hint = false ∧ sl.remoteUnder tl (scopeOf tl.ctl.hint) = [] ∧ sl.checkLanes tl { size := 8, write := true, plain := false, cross := false }
        ((ctxOf x.sh tl).lanes.map (fun l => (l, lane ((valsOf x.sh tl).getD 0 []) l))) = .ok [x0]) ∧
    Issues sl { op := 0x9B, sel := .guard .always, srcs := [.k 0, .k 1], mod := .atomic } tl := by
  refine ⟨⟨_, List.mem_of_getElem? (i := 10) rfl, ?_⟩, ?_⟩ <;>
    (simp only [Quiet, ← issues_iff]; decide +kernel)
theorem witness_red :
    let sh : Shape := { op := 0x9B, sel := .guard .always, srcs := [.k 0, .k 1], mod := .atomic }
    sl.checkLanes tl { size := 8, write := true, plain := false, cross := false }
      ((ctxOf sh tl).lanes.map (fun l => (l, lane ((valsOf sh tl).getD 0 []) l))) = .ok [x0] := by decide +kernel
theorem witness_atomic_applies :
    Mem.wf updating.mem = true ∧ updating.team? updater.id = some updater ∧
    updater.pend.find? (fun q => q.id == theUpdate.id) = some theUpdate ∧ theUpdate.op = .atom (.op .add) false ∧
    theUpdate.lanes = [theUpdate.lanes.headD noAcc] ∧ (theUpdate.lanes.headD noAcc).lane < 1024 ∧
    (theUpdate.lanes.headD noAcc).got = none ∧ (theUpdate.lanes.headD noAcc).repl = [] ∧
    updating.before (.pend updater.id theUpdate.id) = [] ∧ updating.live updater.place.site = true ∧
    BitVec.ofNat 64 (Mem.read updating.mem (theUpdate.lanes.headD noAcc).addr 8) = 7 := by decide +kernel
theorem witness_atomic_listeners : NoListeners updating ((theUpdate.lanes.headD noAcc).addr / 2 ^ 37) :=
  noListeners_of (by decide +kernel) (by decide +kernel) _

/-- A remote operation of the team in flight. -/
def anOp : RemOp :=
  { id := 5, team := 1, seq := 0, site := 0, core := 0, op := 0xE0, fn := 0, lane := 0, tenant := 0, user := false, key := 0,
    dest := 0x4000, local_ := 0x5000, len := 8, opnd := 0, expect := 0, ctr := none, words := [], dsite := 0, inc := 0,
    plane := 0, ordered := false, phase := .sent, data := List.replicate 8 1, sent := 0,
    relay := none, relayed := false, carried := [] }
/-- The team under a fence of fabric scope. -/
def tWide : Team := { tl with ctl := { tl.ctl with hint := { mod := some 0x800000 } } }
def sWide : State := { world tWide [(0x4000, 8, 7)] with ops := [anOp] }
def sRem : State := { sl with ops := [anOp] }
theorem witness_fences :
    Quiet sl tl ∧ (∀ o ∈ sl.ops, o.team ≠ tl.id) ∧ Issues sl { op := 0xA0, sel := .guard .always, mod := .scope } tl ∧
    tl.tx.live = false ∧ Issues sl { op := 0xA1, sel := .guard .always } tl ∧ (∀ k ∈ sl.cmds, k.core ≠ tl.coreKey) ∧
    tl.deferred = [] ∧ Issues sl { op := 0xA2, sel := .guard .always } tl ∧ Issues sl { op := 0xE8, sel := .guard .always } tl ∧
    tl.status = .running ∧ (sRem.ops.filter (fun o => o.team == tl.id)).map (fun o => o.id) ≠ [] ∧
    Issues sRem { op := 0xA2, sel := .guard .always } tl ∧
    Issues sl { op := 0xA9, sel := .guard .always, srcs := [.q 0], imm := true } tl ∧
    Quiet sWide tWide ∧ sWide.remoteUnder tWide (scopeOf tWide.ctl.hint) ≠ [] ∧
    Issues sWide { op := 0xA0, sel := .guard .always, mod := .scope } tWide := by
  simp only [Quiet, ← issues_iff]; decide +kernel

/-- A team whose kernel uses transactions; one transaction deep, at the bound, with its level gone, and keeping a
timestamp for its `txbeg`. -/
def txTeam : Team := { t0 with hdr := { t0.hdr with usesTx := true } }
def inTx : Team := { txTeam with tx := { live := true, held := true, depth := 1, ts := 5, handler := 0x1800 } }
def deepTx : Team := { inTx with tx := { inTx.tx with depth := 8 } }
def lostTx : Team := { inTx with tx := { inTx.tx with saveStack := [{}] } }
def heldTx : Team := { txTeam with tx := { held := true, ts := 0, heldpc := 0x1000 } }
theorem witness_transactions :
    Issues (world txTeam []) { op := 0xA3, sel := .enabled, imm := true, wf := (world txTeam []).curUsesTx } txTeam ∧
    txTeam.tx.live = false ∧
    Issues (world heldTx []) { op := 0xA3, sel := .enabled, imm := true, wf := (world heldTx []).curUsesTx } heldTx ∧
    heldTx.tx.heldpc = heldTx.ctl.pc ∧
    Issues (world inTx []) { op := 0xA3, sel := .enabled, imm := true, wf := (world inTx []).curUsesTx } inTx ∧
    inTx.tx.live = true ∧ inTx.tx.depth < 8 ∧
    Issues (world deepTx []) { op := 0xA3, sel := .enabled, imm := true, wf := (world deepTx []).curUsesTx } deepTx ∧
    deepTx.tx.depth = 8 ∧ Issues (world inTx []) { op := 0xA4, sel := .enabled } inTx ∧
    inTx.ctl.stack.length = inTx.tx.saveStack.length ∧ inTx.tx.depth ≤ 1 ∧ Quiet (world inTx []) inTx ∧
    Issues (world deepTx []) { op := 0xA4, sel := .enabled } deepTx ∧ 1 < deepTx.tx.depth ∧
    Issues (world lostTx []) { op := 0xA4, sel := .enabled } lostTx ∧
    lostTx.ctl.stack.length ≠ lostTx.tx.saveStack.length ∧ Issues s0 { op := 0xA4, sel := .enabled } t0 := by
  simp only [Quiet, ← issues_iff]; decide +kernel
theorem witness_txabt_txst :
    Issues (world inTx []) { op := 0xA5, sel := .guard .always, srcs := [.q 0] } inTx ∧
    Issues s0 { op := 0xA5, sel := .guard .always, srcs := [.k 31] } t0 ∧
    Issues (world inTx []) { op := 0xA6, sel := .guard .always, dst := some (.k 31) } inTx := by
  simp only [← issues_iff]; decide +kernel

/-- Two teams' transactions at one line: team 1 with timestamp 5, team 2 older or younger. -/
def wrote : Team := { inTx with tx := { inTx.tx with lines := [{ line := 0x100, write := true, undo := List.replicate 64 3 }] } }
def rival (ts : BitVec 48) : Team :=
  { wrote with id := 2, tx := { wrote.tx with ts }, place := { wrote.place with slot := 1 } }
def contest (ts : BitVec 48) : State := { world inTx [] with teams := [inTx, rival ts] }
theorem witness_transaction_aborts :
    Mem.wf (world wrote []).mem = true ∧ (world wrote []).team? wrote.id = some wrote ∧ wrote.tx.live = true ∧
    (wrote.tx.lines.map (fun l => l.line)).Nodup ∧ (∀ l ∈ wrote.tx.lines, l.write = true → l.undo.length = 64) ∧
    (contest 4).team? inTx.id = some inTx ∧ (contest 4).team? (rival 4).id = some (rival 4) ∧
    (contest 4).txHolders inTx.id 0x100 = [rival 4] ∧ (rival 4).tx.live = true ∧ (rival 4).id ≠ inTx.id ∧
    inTx.tx.lines.length < 256 ∧ (rival 4).tx.lines.any (fun l => l.line == 0x100 && l.write) = true ∧
    tsOlder (rival 4).tx.ts inTx.tx.ts = true ∧ (contest 6).txHolders inTx.id 0x100 = [rival 6] ∧
    tsOlder (rival 6).tx.ts inTx.tx.ts = false := by decide +kernel

/-- A copy of 8 bytes from 0x5000 to 0x4000 with a counter at 0x6000; in a fork set or outside. -/
def tc : Team := team1 [0x4000, 0x5000, 8, 0x6000]
def sc : State := world tc [(0x5000, 8, 0x1122334455667788)]
def forked : Team := { tc with forkOpen := true, forkTok := 3, forkCtr := some 0x6008 }
/-- The check lets a word through, off replicated pages. -/
def passes : CtrChk → Bool
  | .ok _ r => !r
  | _ => false
theorem of_passes {r : CtrChk} (h : passes r = true) : ∃ p, r = .ok p false := by
  cases r <;> simp [passes] at h
  subst h; exact ⟨_, rfl⟩
theorem witness_engine_commands_issue :
    cmdArgs 0xB0 + 1 % 2 = 4 ∧ Issues sc { op := 0xB0, sel := .guard .always, blk := some (0, 4) } tc ∧ tc.tx.live = false ∧
    tc.did = 0 ∧ (ctxOf { op := 0xB0, sel := .guard .always, blk := some (0, 4) } tc).lanes = [0] ∧
    cmdOver 0xB0 1 (laneArgs (ctxOf { op := 0xB0, sel := .guard .always, blk := some (0, 4) } tc) 4 0) = false ∧
    sc.coreEntries tc.coreKey + 1 ≤ 256 ∧ tc.forkOpen = false ∧
    cmdTotal 0xB0 (laneArgs (ctxOf { op := 0xB0, sel := .guard .always, blk := some (0, 4) } tc) 4 0) ≠ 0 ∧
    (∀ k ∈ sc.cmds, k.id < sc.uid) ∧ sc.mxReads tc (fun e => decide (e.seq < tc.xseq)) = false ∧
    (∀ p ∈ tc.pend, tc.xseq ≤ p.seq) ∧
    Issues (world forked []) { op := 0xB0, sel := .guard .always, blk := some (0, 4) } forked ∧
    ((world forked []).heldOf forked.id).length + 1 ≤ 64 := by
  simp only [← issues_iff]; decide +kernel
theorem witness_engine_checks :
    ∀ r ∈ sc.cmdChecks (ctxOf { op := 0xB0, sel := .guard .always, blk := some (0, 4) } tc) 0xB0 1 0
      (laneArgs (ctxOf { op := 0xB0, sel := .guard .always, blk := some (0, 4) } tc) 4 0), ∃ p, r.2.2 = .ok p false := by
  have h : (sc.cmdChecks (ctxOf { op := 0xB0, sel := .guard .always, blk := some (0, 4) } tc) 0xB0 1 0
      (laneArgs (ctxOf { op := 0xB0, sel := .guard .always, blk := some (0, 4) } tc) 4 0)).all (fun r => passes r.2.2) = true := by
    decide +kernel
  exact fun r hr => of_passes (List.all_eq_true.mp h r hr)

/-- The copy in flight; its segment, untouched and read; and the copy written. -/
def theCopy : Cmd :=
  { id := 7, team := some 1, site := 0, core := 0, op := 0xB0, fn := 1, lane := 0, args := [0x4000, 0x5000, 8, 0x6000],
    tenant := 0, user := false, state := .flight, token := some 3, setCtr := some 0x6008, rewritten := false, issued := 0,
    upto := 0, done := [], segs := [] }
def newSeg : Seg := { lo := 0, rd := 0, wr := 0, held := [], put := [], idx := none, stuck := false }
def readSeg : Seg := newSeg.afterRead 8 0 (List.replicate 8 1)
def readCopy : Cmd := theCopy.putSeg readSeg
def doneCopy : Cmd := { theCopy with upto := 8 }
def unserved : State := { sc with cmds := [theCopy], parts := [{ part0 with reserved := 1 }], now := 6000 }
theorem witness_engine_moves :
    ({ sc with cmds := [theCopy] } : State).cmd? theCopy.id = some theCopy ∧ theCopy.op = 0xB0 ∧ theCopy.state = .flight ∧
    Mem.wf sc.mem = true ∧ sc.live theCopy.site = true ∧ newSeg.stuck = false ∧ theCopy.beginSeg newSeg.lo = some newSeg ∧
    theCopy.within newSeg newSeg.rd 0 8 = true ∧ apart newSeg.heldRuns 0 8 = true ∧
    ({ sc with cmds := [theCopy] } : State).xlateRun theCopy.party .read 2 (sideAt theCopy.op theCopy.args true 0) 8 =
      .ok [(0x5000, 8, [])] ∧ sc.partOf theCopy.site = 0 ∧
    ({ sc with cmds := [readCopy] } : State).cmd? readCopy.id = some readCopy ∧ readSeg.stuck = false ∧
    readCopy.segs.find? (fun h => h.lo == readSeg.lo) = some readSeg ∧ readCopy.within readSeg readSeg.wr 0 8 = true ∧
    chunkEnd readSeg.wr (readCopy.len readSeg) ≤ readSeg.rd ∧ apart readSeg.put 0 8 = true ∧
    covered ((0, 8) :: readSeg.put) readSeg.wr (readCopy.len readSeg) = true ∧
    chunkEnd readSeg.wr (readCopy.len readSeg) = readCopy.len readSeg ∧ readCopy.upto = readSeg.lo ∧ readCopy.done = [] ∧
    ({ sc with cmds := [readCopy] } : State).xlateRun readCopy.party .write 2 (sideAt readCopy.op readCopy.args false 0) 8 =
      .ok [(0x4000, 8, [])] ∧ (∀ u ∈ sc.teams, u.tx.live = false) := by decide +kernel
theorem witness_engine_listeners : ∀ site, NoListeners { sc with cmds := [readCopy] } site :=
  noListeners_of (by decide +kernel) (by decide +kernel)
theorem witness_engine_ends :
    ({ sc with cmds := [doneCopy] } : State).cmd? doneCopy.id = some doneCopy ∧ doneCopy.state = .flight ∧
    doneCopy.upto = doneCopy.total ∧
    unserved.cmd? theCopy.id = some theCopy ∧ unserved.part? (unserved.partOf theCopy.site) = some { part0 with reserved := 1 } ∧
    theCopy.rewritten = false ∧ theCopy.upto = 0 ∧ theCopy.done = [] ∧ theCopy.segs = [] ∧
    theCopy.issued + us 2 ≤ unserved.now := by decide +kernel

/-- A counter at 0x4000 that reads 7; team arguments for `cinc`, `cwait` and `arm`. -/
def tinc : Team := team1 [0x4000, 5, 0]
def theInc : Inc := { id := 4, team := some 1, ctr := 0x4000, amount := 5 }
def theArmed : Armed := { ctr := 0x4000, thr := 12, kind := 1, target := 0x4008, value := 1, recd := [], tenant := 0, user := false }
def sinc : State :=
  { sl with incs := [theInc], sites := [{ key := 0, part := some 0, armed := [theArmed] }] }
theorem witness_counter_increments :
    Issues (world tinc []) { op := 0xB5, sel := .guard .always, blk := some (0, 2) } tinc ∧ tinc.tx.live = false ∧
    Quiet (world tinc []) tinc ∧
    (∀ l ∈ (ctxOf { op := 0xB5, sel := .guard .always, blk := some (0, 2) } tinc).lanes,
      (world tinc []).checkWord tinc.party ((ctxOf { op := 0xB5, sel := .guard .always, blk := some (0, 2) } tinc).arg 0 l) 8
        .write = .ok 0x4000 false ∧
      ((ctxOf { op := 0xB5, sel := .guard .always, blk := some (0, 2) } tinc).arg 1 l).toNat < 2 ^ 32) ∧
    Mem.wf sinc.mem = true ∧ sinc.live (theInc.ctr / 2 ^ 37) = true ∧
    sinc.incs.filter (fun j => j.id == theInc.id) = [theInc] ∧ sinc.incWaits theInc = false ∧
    (sinc.site 0).armed.filter (fun a => a.ctr == theInc.ctr &&
      decide (1 ≤ (a.thr - Mem.word sinc.mem theInc.ctr).toNat ∧ (a.thr - Mem.word sinc.mem theInc.ctr).toNat ≤ theInc.amount)) =
      [theArmed] ∧ theArmed.kind < 2 := by
  simp only [Quiet, ← issues_iff]; decide +kernel
theorem witness_increment_listeners : NoListeners sinc (theInc.ctr / 2 ^ 37) :=
  noListeners_of (by decide +kernel) (by decide +kernel) _

/-- Waiting for 7 of a counter that reads 7, and for 8. -/
def twait (n : Word) : Team := team1 [0x4000, n, 100]
def swait (n : Word) : State := world (twait n) [(0x4000, 8, 7)]
def parkedOn (why : Park) : Team := { t0 with status := .parked why 0 }
def trapWaits : Team := { t0 with wake := some (.trap 5 0x0A 0 none) }
theorem witness_counter_waits :
    Issues (swait 7) { op := 0xB6, sel := .guard .always, blk := some (0, 3) } (twait 7) ∧ (twait 7).tx.live = false ∧
    Quiet (swait 7) (twait 7) ∧ (swait 7).txHolders 1 (0x4000 / 64) = [] ∧ (swait 8).txHolders 1 (0x4000 / 64) = [] ∧
    (ctxOf { op := 0xB6, sel := .guard .always, blk := some (0, 3) } (twait 7)).diverges [1, 2] = none ∧
    (swait 7).checkWord (twait 7).party 0x4000 8 .read = .ok 0x4000 false ∧
    (Mem.word (swait 7).mem 0x4000 - 7).toNat < 2 ^ 63 ∧
    Issues (swait 8) { op := 0xB6, sel := .guard .always, blk := some (0, 3) } (twait 8) ∧ Quiet (swait 8) (twait 8) ∧
    (ctxOf { op := 0xB6, sel := .guard .always, blk := some (0, 3) } (twait 8)).diverges [1, 2] = none ∧
    (swait 8).checkWord (twait 8).party 0x4000 8 .read = .ok 0x4000 false ∧
    2 ^ 63 ≤ (Mem.word (swait 8).mem 0x4000 - 8).toNat ∧ (twait 8).status = .running := by
  simp only [Quiet, ← issues_iff]; decide +kernel
theorem witness_wait_expiries :
    ({ world (parkedOn (.counter 0x4000 8 1)) [] with now := 3 } : State).team? 1 = some (parkedOn (.counter 0x4000 8 1)) ∧
    (parkedOn (.counter 0x4000 8 1)).status = .parked (.counter 0x4000 8 1) 0 ∧ 0 + 1 * Config.ticksPerNs ≤ 3 ∧
    s0.live t0.place.site = true ∧ (parkedOn .entries).status = .parked .entries 0 ∧
    (parkedOn .remoteEntries).status = .parked .remoteEntries 0 ∧ 0 + us 1000 ≤ 3000000 ∧
    (world trapWaits []).curTeam? = some trapWaits ∧ trapWaits.wake = some (.trap 5 0x0A 0 none) ∧ trapWaits.pend = [] := by
  decide +kernel

/-- A fill armed at 0x4010, an increment at 0x4008, and a prepared copy of no bytes at 0x8000. -/
def tarm (kind target value : Word) : Team := team1 [0x4000, 12, kind, target, value]
def armWords : List (Nat × Nat × Nat) := [(0x4000, 8, 7), (0x8000, 1, 0xB0), (0x8008, 8, 0x4000), (0x8010, 8, 0x5000)]
def sarm (t : Team) : State := world t armWords
def full8 : State := { sarm (tarm 0 0x4010 1) with sites := [{ key := 0, part := some 0, armed := List.replicate 8 theArmed }] }
theorem witness_arm_actions :
    let sh : Shape := { op := 0xB7, sel := .guard .always, blk := some (0, 5) }
    issuesB (sarm (tarm 0 0x4010 1)) sh (tarm 0 0x4010 1) = true ∧ (ctxOf sh (tarm 0 0x4010 1)).diverges [1, 2, 4] = none ∧
    (sarm (tarm 0 0x4010 1)).checkWord (tarm 0 0x4010 1).party 0x4000 8 .read = .ok 0x4000 false ∧ 0x4010 % 16 = 0 ∧
    gDev 0x4010 = 0 ∧ (sarm (tarm 0 0x4010 1)).partSite 0 (gSite 0x4010) = some 0 ∧
    reached (Mem.word (sarm (tarm 0 0x4010 1)).mem 0x4000) 12 = false ∧
    reached (Mem.word (sarm (tarm 0 0x4010 1)).mem 0x4000) 7 = true ∧
    issuesB full8 sh (tarm 0 0x4010 1) = true ∧ 8 ≤ ((full8.site 0).armed.filter (fun b => b.ctr == 0x4000)).length ∧
    issuesB (sarm (tarm 1 0x4008 1)) sh (tarm 1 0x4008 1) = true ∧
    issuesB (sarm (tarm 2 0x8000 0)) sh (tarm 2 0x8000 0) = true ∧ 0x8000 % 64 = 0 ∧
    (sarm (tarm 2 0x8000 0)).checkWord (tarm 2 0x8000 0).party 0x8000 64 .read = .ok 0x8000 false ∧
    (sarm (tarm 2 0x8000 0)).recordOk (tarm 2 0x8000 0).party
      ((List.range 8).map (fun i => Mem.word (sarm (tarm 2 0x8000 0)).mem (0x8000 + 8 * i))) = true := by decide +kernel
theorem witness_arm_lines : (sarm (tarm 0 0x4010 1)).txHolders 1 (0x4000 / 64) = [] ∧
    (sarm (tarm 2 0x8000 0)).txHolders 1 (0x8000 / 64) = [] := by decide +kernel
theorem witness_arm_quiet : Quiet (sarm (tarm 0 0x4010 1)) (tarm 0 0x4010 1) ∧ (tarm 0 0x4010 1).tx.live = false ∧
    Quiet (sarm (tarm 2 0x8000 0)) (tarm 2 0x8000 0) := by simp only [Quiet]; decide +kernel

/-- A set opened with token 3; its `join` with and without a member in flight. -/
def tjoin : Team := { team1 [3] with forkOpen := true, forkTok := 3 }
def sjoin : State := world tjoin []
def member : Cmd := { theCopy with state := .heldInSet }
def sheld : State := { sjoin with cmds := [member] }
theorem witness_fork_sets :
    Issues sl { op := 0xB8, sel := .guard .always, srcs := [.k 0], dst := some (.k 31), pass := some (.k 0), wf := wfOptA true (.k 0) } tl ∧
    sl.checkWord tl.party 0x4000 8 .write = .ok 0x4000 false ∧ tl.forkOpen = false ∧
    Issues sjoin { op := 0xB8, sel := .guard .always, srcs := [], dst := some .drift, pass := some (.d 0), wf := wfOptA false (.d 0) } tjoin ∧
    tjoin.forkOpen = true ∧ Issues sjoin { op := 0xB9, sel := .guard .always, srcs := [.k 0] } tjoin ∧ tjoin.tx.live = false ∧
    tjoin.status = .running ∧
    voteOf (ctxOf { op := 0xB9, sel := .guard .always, srcs := [.k 0] } tjoin)
      ((valsOf { op := 0xB9, sel := .guard .always, srcs := [.k 0] } tjoin).getD 0 []) = [] ∧
    (3 : Word) = BitVec.ofNat 64 tjoin.forkTok ∧ sjoin.setMembers tjoin = [] ∧ sjoin.heldOf tjoin.id = [] ∧ tjoin.deferred = [] ∧
    Issues sheld { op := 0xB9, sel := .guard .always, srcs := [.k 0] } tjoin ∧
    ((sheld.startCmds (sheld.heldOf tjoin.id)).putTeam { tjoin with forkOpen := false, joinPc := some tjoin.ctl.pc }).setMembers
      tjoin ≠ [] ∧ Issues sjoin { op := 0xB9, sel := .guard .always, srcs := [.k 31] } tjoin ∧ tjoin.k 31 = [0] := by
  simp only [← issues_iff]; decide +kernel
theorem witness_engine_status :
    Issues sinc { op := 0xBA, sel := .guard .always, srcs := [.k 0], dst := some .drift, pass := some (.k 0), wf := wfOptA true (.k 0) } tl ∧
    sl.checkWord tl.party 0x4000 8 .read = .ok 0x4000 false ∧ Quiet sl tl ∧
    Issues sl { op := 0xBA, sel := .guard .always, srcs := [.k 0], dst := some .drift, pass := some (.k 0), wf := wfOptA true (.k 0) } tl ∧
    Issues sl { op := 0xBA, sel := .guard .always, srcs := [], dst := some .drift, pass := some (.d 0), wf := wfOptA false (.d 0) } tl := by
  simp only [Quiet, ← issues_iff]; decide +kernel

/-- A holder of core 0's matrix unit. -/
def tm : Team := team1 [0x4000, 64, 64, 0x400, 0x400, 0]
def mx0 : Matrix := { holder := some 1, tenant := some 0 }
def withUnit (t : Team) (x : Matrix) : State := { world t [] with cores := [{ key := 0, mx := x }] }
def sm : State := withUnit tm mx0
theorem witness_matrix_queue :
    tm.tx.live = false ∧ tm.deferred = [] ∧ tm.pend = [] ∧ (sm.core tm.coreKey).mx.holder = some tm.id ∧
    ((sm.core tm.coreKey).mx.queue.filter (fun e => !e.again)).length < 4 := by decide +kernel
theorem witness_rload : ∃ x ∈ matrixForms sm tm .always .m8 0 0 7 false .i32 .mov,
    x.ok ∧ (∀ r ∈ x.ranges, r.bad = none ∧ r.broken = none) ∧ Issues sm x.sh tm := by
  refine ⟨_, List.mem_of_getElem? (i := 0) rfl, ?_⟩
  simp only [← issues_iff]; decide +kernel
theorem witness_mzero : ∃ x ∈ matrixForms sm tm .always .m8 0 0 7 false .i32 .mov,
    x.ok ∧ (∀ r ∈ x.ranges, r.bad = none ∧ r.broken = none) ∧ Issues sm x.sh tm := by
  refine ⟨_, List.mem_of_getElem? (i := 4) rfl, ?_⟩
  simp only [← issues_iff]; decide +kernel
theorem witness_mcol : ∃ x ∈ matrixForms sm tm .always .m8 0 0 7 false .i32 .mov,
    x.ok ∧ (∀ r ∈ x.ranges, r.bad = none ∧ r.broken = none) ∧ Issues sm x.sh tm := by
  refine ⟨_, List.mem_of_getElem? (i := 5) rfl, ?_⟩
  simp only [← issues_iff]; decide +kernel
theorem witness_mload : ∃ x ∈ matrixForms sm tm .always .m8 0 0 7 false .i32 .mov,
    x.ok ∧ (∀ r ∈ x.ranges, r.bad = none ∧ r.broken = none) ∧ Issues sm x.sh tm := by
  refine ⟨_, List.mem_of_getElem? (i := 6) rfl, ?_⟩
  simp only [← issues_iff]; decide +kernel
/-- Arguments of a drain of FP32, of a transfer, and of a loop of one step. -/
def tdrain : Team := team1 [0x4000, 64, 0x40000, 0x100000]
def txfer : Team := team1 [0]
def tloop (sparse : Nat) : Team := team1 [0x4000, 64, 64, 1, BitVec.ofNat 64 (0x400 + sparse * 2 ^ 14), 0]
theorem witness_mdrain : ∃ x ∈ matrixForms (withUnit tdrain mx0) tdrain .always .m8 0 0 7 false .f32 .mov,
    x.ok ∧ (∀ r ∈ x.ranges, r.bad = none ∧ r.broken = none) ∧ Issues (withUnit tdrain mx0) x.sh tdrain := by
  refine ⟨_, List.mem_of_getElem? (i := 3) rfl, ?_⟩
  simp only [← issues_iff]; decide +kernel
theorem witness_mxfer : ∃ x ∈ matrixForms (withUnit txfer mx0) txfer .always .m8 0 0 7 false .f32 .mov,
    x.ok ∧ (∀ r ∈ x.ranges, r.bad = none ∧ r.broken = none) ∧ Issues (withUnit txfer mx0) x.sh txfer := by
  refine ⟨_, List.mem_of_getElem? (i := 7) rfl, ?_⟩
  simp only [← issues_iff]; decide +kernel
/-- An rload of 64 steps and 16 columns in place. -/
def mxR : Matrix := { mx0 with
  rl := some { tenant := 0, user := false, src := 0x8000, stride := 64, kres := 64, nres := 16, fmt := 0x400, codes := [],
               scales := [] } }
def sLoop (sparse : Nat) : State := withUnit (tloop sparse) mxR
theorem loopRload (t : Team) (h : ((withUnit t mxR).core t.coreKey).mx = mxR) :
    ((withUnit t mxR).core t.coreKey).mx.project.rl = some (0x400, 64, 16) := by rw [h]; decide +kernel
theorem witness_mloop : ∃ x ∈ matrixForms (sLoop 0) (tloop 0) .always .m8 0 0 7 false .i32 .mov,
    x.ok ∧ (∀ r ∈ x.ranges, r.bad = none ∧ r.broken = none) ∧ Issues (sLoop 0) x.sh (tloop 0) := by
  refine ⟨_, List.mem_of_getElem? (i := 1) rfl, ?_, ?_⟩
  · refine ⟨?_, ?_, ?_, ?_, ?_, ?_, ?_, fun r h => ?_, ?_, ?_, ?_, ?_⟩
    case refine_8 => cases (loopRload (tloop 0) (by decide +kernel)).symm.trans h; decide +kernel
    all_goals decide +kernel
  · simp only [← issues_iff]; decide +kernel
theorem witness_mloop_sp : ∃ x ∈ matrixForms (sLoop 1) (tloop 1) .always .m8 0 0 7 false .i32 .mov,
    x.ok ∧ (∀ r ∈ x.ranges, r.bad = none ∧ r.broken = none) ∧ Issues (sLoop 1) x.sh (tloop 1) := by
  refine ⟨_, List.mem_of_getElem? (i := 2) rfl, ?_, ?_⟩
  · refine ⟨?_, ?_, ?_, ?_, ?_, ?_, ?_, fun r h => ?_, ?_, ?_, ?_, ?_⟩
    case refine_8 => cases (loopRload (tloop 1) (by decide +kernel)).symm.trans h; decide +kernel
    all_goals decide +kernel
  · simp only [← issues_iff]; decide +kernel

/-- A team with one matrix store to place. -/
def tPuts : Team := { tm with mwr := [{ tile := 0, addr := 0x4000, kind := .rc, repl := [], bytes := [1, 2] }] }
def sPuts : State := withUnit tPuts mx0
theorem witness_matrix_places :
    tPuts.tx.live = false ∧ tPuts.deferred = [] ∧ (sPuts.core tPuts.coreKey).mx.holder = some tPuts.id ∧
    Issues sPuts { op := 0xC9, sel := .guard .always, wf := wfMwait 0 true } tPuts ∧
    (sPuts.core tPuts.coreKey).mx.waitedFor none = [] ∧ tPuts.mwr.length = 1 ∧ Mem.wf sPuts.mem = true ∧ tPuts.pend = [] ∧
    (sPuts.core tPuts.coreKey).wbuf = [] ∧ (∀ w ∈ tPuts.mwr, w.repl = [] ∧ w.addr % 64 + w.bytes.length ≤ 64) := by
  simp only [← issues_iff]; decide +kernel
theorem witness_matrix_places_listeners : NoListeners sPuts (0x4000 / 2 ^ 37) :=
  noListeners_of (by decide +kernel) (by decide +kernel) _

/-- An entry of the queue; queues of one and of four; the unit held by another team. -/
def ent (op : Nat) (a : Word) (prog : Nat) : MEntry :=
  { seq := 0, keep := false, spans := [], old := none, word := wordX op 0xF 0 0 0 7 1, args := [a, 64], tenant := 0, user := false, prog, stuck := false, again := false }
def busy (e : MEntry) (n : Nat) : State := withUnit tm { mx0 with queue := List.replicate n e }
def foreign : State := withUnit tm { mx0 with holder := some 2 }
theorem witness_matrix_waits :
    Issues sm { op := 0xC8, sel := .guard .always, dst := some .drift } tm ∧
    Issues sm { op := 0xC9, sel := .guard .always, wf := wfMwait 0 true } tm ∧ (sm.core tm.coreKey).mx.waitedFor none = [] ∧
    (busy (ent 0xC4 0 0) 1).curTeam? = some tm ∧ ((busy (ent 0xC4 0 0) 1).core tm.coreKey).mx.waitedFor (some 7) ≠ [] ∧
    Issues (busy (ent 0xC4 0 0) 1) { op := 0xC9, sel := .guard .always, wf := wfMwait 7 false } tm ∧ tm.status = .running ∧
    (foreign.core tm.coreKey).mx.holder = some 2 ∧ 2 ≠ tm.id ∧
    Issues foreign { op := 0xC8, sel := .guard .always, dst := some .drift } tm ∧
    Issues foreign { op := 0xC9, sel := .guard .always, wf := wfMwait 0 true } tm ∧
    7 + spanOf (rowsOf .m8) (16 * (0 + 1)) .i32 ≤ 8 ∧
    4 ≤ (((busy (ent 0xC4 0 0) 4).core tm.coreKey).mx.queue.filter (fun e => !e.again)).length ∧
    Issues (busy (ent 0xC4 0 0) 4) { op := 0xC4, sel := .guard .always } tm := by
  simp only [← issues_iff]; decide +kernel
theorem witness_sequencer :
    ((busy (ent 0xC4 0 0) 1).core 0).mx.queue = ent 0xC4 0 0 :: [] ∧ ((busy (ent 0xC4 0 0) 1).core 0).mx.holder = some tm.id ∧
    (busy (ent 0xC4 0 0) 1).team? tm.id = some tm ∧ tm.coreKey = 0 ∧ (ent 0xC4 0 0).op = 0xC4 ∧
    (busy (ent 0xC4 0 0) 1).live (coreSite 0) = true ∧ (ent 0xC6 0x4000 1).op = 0xC6 ∧ 0 < (ent 0xC6 0x4000 1).prog ∧
    Mem.wf ((busy (ent 0xC6 0x4000 1) 1).core 0).mx.acc = true ∧
    (busy (ent 0xC6 0x4000 1) 1).mxRead tm (ent 0xC6 0x4000 1) (0x4000 + 1 * 64) 64 =
      (.ok [(0x4040, 64, [])], busy (ent 0xC6 0x4000 1) 1, List.replicate 64 0) ∧
    (busy (ent 0xC6 0x2000000 1) 1).mxUnit tm (ent 0xC6 0x2000000 1) =
      .stop (busy (ent 0xC6 0x2000000 1) 1) (.fault 0x2000040 false) 1 false ∧
    (busy (ent 0xC6 0x8000000000000000 1) 1).mxUnit tm (ent 0xC6 0x8000000000000000 1) =
      .stop (busy (ent 0xC6 0x8000000000000000 1) 1) (.bad 0x8000000000000040) 1 false ∧
    (ent 0xC6 0x8000000000000000 1).hasTile = true := by decide +kernel

def unitWaiter : Team := parkedOn .matrixUnit
def freeUnit : State := withUnit unitWaiter {}
theorem witness_matrix_unit :
    [1, -2].length = [3, (4 : Int)].length ∧ (freeUnit.core 0).mx.holder = none ∧ freeUnit.live (coreSite 0) = true ∧
    firstWaiter (freeUnit.matrixWaiters 0) = some (unitWaiter, 0) ∧ unitWaiter.status = .parked .matrixUnit 0 ∧
    unitWaiter.coreKey = 0 ∧ freeUnit.team? unitWaiter.id = some unitWaiter ∧ freeUnit.live unitWaiter.place.site = true ∧
    0 + us 10000 ≤ ({ freeUnit with now := us 10000 } : State).now ∧ 4095 < 4096 ∧ (sm.site (coreSite 0)).lsite < 64 ∧
    (sm.core 0).mx.tenant.getD 0 < 65536 := by decide +kernel

/-- A barrier word at 0x4000: phase 65535, expecting 2. -/
def tb : Team := team1 [0x4000, 2, 0xFFFF]
def sb (phase arrived drops : Nat) : State :=
  world tb [(0x4000, 8, ({ phase, expect := 2, arrived, drops } : Barrier).toNat)]
theorem witness_barrier_set :
    let sh : Shape := { op := 0xD0, sel := .guard .always, blk := some (0, 2) }
    issuesB (sb 65535 0 0) sh tb = true ∧ tb.tx.live = false ∧ Mem.wf (sb 65535 0 0).mem = true ∧
    (ctxOf sh tb).diverges [0, 1] = none ∧ (sb 65535 0 0).checkWord tb.party 0x4000 16 .write = .ok 0x4000 false ∧
    ((ctxOf sh tb).arg1 1).toNat = 2 ∧ Barrier.ofNat (Mem.read (sb 65535 0 0).mem 0x4000 8) = ⟨65535, 2, 0, 0⟩ ∧
    issuesB (sb 65535 1 0) sh tb = true ∧ Barrier.ofNat (Mem.read (sb 65535 1 0).mem 0x4000 8) = ⟨65535, 2, 1, 0⟩ := by decide +kernel
theorem witness_barrier_quiet : Quiet (sb 65535 0 0) tb ∧ NoListeners (sb 65535 0 0) (0x4000 / 2 ^ 37) := by
  refine ⟨by simp only [Quiet]; decide +kernel, noListeners_of (by decide +kernel) (by decide +kernel) _⟩
theorem witness_barrier_arrive :
    let sh : Shape := { op := 0xD1, sel := .guard .always, srcs := [.k 0], dst := some (.k 31), pass := some (.k 0), imm := true }
    let dh : Shape := { op := 0xD3, sel := .guard .always, srcs := [.k 0], imm := true }
    issuesB (sb 65535 1 1) sh tb = true ∧ issuesB (sb 65535 1 1) dh tb = true ∧ voteOf (ctxOf sh tb) (addrs16 (ctxOf sh tb) 0) = [] ∧
    lane (addrs16 (ctxOf sh tb) 0) (ctxOf sh tb).first = 0x4000 ∧ lane (addrs16 (ctxOf dh tb) 0) (ctxOf dh tb).first = 0x4000 ∧
    (sb 65535 1 1).checkWord tb.party 0x4000 16 .write = .ok 0x4000 false ∧
    Barrier.ofNat (Mem.read (sb 65535 1 1).mem 0x4000 8) = ⟨65535, 2, 1, 1⟩ ∧
    Barrier.ofNat (Mem.read (sb 65535 2 0).mem 0x4000 8) = ⟨65535, 2, 2, 0⟩ ∧ issuesB (sb 65535 2 0) sh tb = true := by decide +kernel
theorem witness_barrier_wake :
    (world (parkedOn (.barrier 0x4000 65535)) []).team? 1 = some (parkedOn (.barrier 0x4000 65535)) ∧
    (parkedOn (.barrier 0x4000 65535)).status = .parked (.barrier 0x4000 65535) 0 := by decide +kernel
theorem witness_barrier_wait :
    let sh : Shape := { op := 0xD2, sel := .guard .always, srcs := [.k 2, .k 0], dst := some .drift, pass := some (.k 2), imm := true }
    let c := ctxOf sh tb
    issuesB (sb 65535 1 0) sh tb = true ∧ tb.status = .running ∧
    voteOf c (vtab tb.nlane (fun l => lane (c.val 0) l &&& 0xFFFF)) = [] ∧
    voteOf c (vtab tb.nlane (fun l => lane (c.val 1) l + BitVec.ofInt 64 (extOff5 tb.ctl.hint 0 * 16))) = [] ∧
    lane (vtab tb.nlane (fun l => lane (c.val 1) l + BitVec.ofInt 64 (extOff5 tb.ctl.hint 0 * 16))) c.first = 0x4000 ∧
    (sb 65535 1 0).checkWord tb.party 0x4000 16 .read = .ok 0x4000 false ∧
    (65535 + 65536 - 65535) % 65536 = 0 ∧ (Barrier.ofNat (Mem.read (sb 0 0 0).mem 0x4000 8)).phase = 0 ∧
    (0 + 65536 - 65535) % 65536 = 1 ∧ issuesB (sb 0 0 0) sh tb = true ∧ issuesB (sb 32767 0 0) sh tb = true ∧
    32768 ≤ (32767 + 65536 - 65535) % 65536 := by decide +kernel

/-- k0 names the cell at 0x4000, k1 the one at 0x4010, k2 holds 7. -/
def tp : Team := team1 [0x4000, 0x4010, 7]
/-- The two cells: an empty one, one full of 7, one with a bad state, or one that links to the other. -/
def sp (w0 w1 v0 v1 : Nat) : State := world tp [(0x4000, 8, v0), (0x4008, 8, w0), (0x4010, 8, v1), (0x4018, 8, w1)]
def fullWord : Nat := 2 ^ 63
def toNext : Nat := 2 ^ 62 + 0x401
theorem witness_find :
    (∀ u ∈ (sp 0 0 0 0).teams ++ (sp toNext fullWord 0 7).teams, u.tx.live = false) ∧
    gDev 0x4000 = tp.place.ldev ∧ gSite 0x4000 = tp.place.lsite ∧ gDev (2 ^ 43) ≠ tp.place.ldev ∧
    (sp toNext 0 0 0).reachCell tp.party 0x4000 0x4000 = sp toNext 0 0 0 ∧
    (sp 0 0 0 0).cellAt tp.party .write 0x4000 = .ok 0x4000 false ∧ (sp 0 0 0 0).cellSt 0x4000 = .empty ∧
    (sp fullWord 0 7 0).cellAt tp.party .write 0x4000 = .ok 0x4000 false ∧ (sp fullWord 0 7 0).cellSt 0x4000 = .full ∧
    (sp (3 * 2 ^ 62) 0 0 0).cellAt tp.party .write 0x4000 = .ok 0x4000 false ∧
    (sp (3 * 2 ^ 62) 0 0 0).cellSt 0x4000 = .invalid ∧ (sp toNext 0 0 0).cellAt tp.party .write 0x4000 = .ok 0x4000 false ∧
    (sp toNext 0 0 0).cellSt 0x4000 = .linked 0x4010 ∧ (sp toNext 0 0 0).cellAt tp.party .write 0x4010 = .ok 0x4010 false ∧
    (sp toNext 0 0 0).cellSt 0x4010 = .empty ∧ (sp toNext fullWord 0 7).cellSt 0x4000 = .linked 0x4010 ∧
    (sp toNext fullWord 0 7).cellAt tp.party .write 0x4000 = .ok 0x4000 false ∧
    (sp toNext fullWord 0 7).cellAt tp.party .write 0x4010 = .ok 0x4010 false ∧
    (sp toNext fullWord 0 7).cellSt 0x4010 = .full := by decide +kernel
/-- A team parked on the empty cell, listed there. -/
def cellWaiter : Team := parkedOn (.cell 0 0x4000)
def awaited : State :=
  { world cellWaiter [(0x4008, 8, 5)] with
    sites := [{ key := 0, part := some 0, waits := [{ root := 0x4000, head := 5, who := [.team 1] }] }] }
theorem witness_fill :
    Mem.wf awaited.mem = true ∧
    (∀ t ∈ awaited.teams, t.tx.live = false ∧ t.parkedIn = some (.cell 0 0x4000, 0)) ∧
    awaited.teams = [cellWaiter] ∧ (awaited.waitList? 0x4000).map (fun w => w.who) = some [.team cellWaiter.id] ∧
    awaited.team? cellWaiter.id = some cellWaiter ∧ cellWaiter.status = .parked (.cell 0 0x4000) 0 := by decide +kernel

/-- What every promise instruction of the team asks of the state, on cells in each state. -/
theorem witness_promise_quiet :
    Quiet (sp 0 0 0 0) tp ∧ Quiet (sp fullWord 0 7 0) tp ∧ Quiet (sp fullWord fullWord 7 8) tp ∧ tp.tx.live = false ∧
    tp.status = .running := by simp only [Quiet]; decide +kernel
theorem witness_pinit :
    let sh : Shape := { op := 0xD4, sel := .guard .always, srcs := [.k 0], imm := true }
    issuesB (sp fullWord 0 7 0) sh tp = true ∧ cellsM (ctxOf sh tp) 0 = [(0, 0x4000)] ∧
    tp.did = 0 ∧ (sp fullWord 0 7 0).cellAt tp.party .write 0x4000 = .ok 0x4000 false ∧
    ((sp fullWord 0 7 0).reachCell tp.party 0x4000 0x4000).cellSt 0x4000 = .full ∧ issuesB (sp 0 0 0 0) sh tp = true ∧
    (sp 0 0 0 0).cellAt tp.party .write 0x4000 = .ok 0x4000 false ∧
    ((sp 0 0 0 0).reachCell tp.party 0x4000 0x4000).cellSt 0x4000 = .empty ∧
    ((sp 0 0 0 0).reachCell tp.party 0x4000 0x4000).waitList? 0x4000 = none := by
  decide +kernel
/-- The roots that are found when finding them changes nothing. -/
def foundAll (s : State) (c : Ctx) (ls : List (Nat × Word)) : Option (List (Nat × Nat × Word × Bool)) :=
  let x := s.findAll c true ls
  if x.1 = s && (rootsOf x.2).length == ls.length then some (rootsOf x.2) else none
theorem witness_pfill :
    let sh : Shape := { op := 0xD5, sel := .guard .always, srcs := [.k 0, .k 2], imm := true }
    let c := ctxOf sh tp
    issuesB (sp 0 0 0 0) sh tp = true ∧ cellsM c 0 = [(0, 0x4000)] ∧
    (sp 0 0 0 0).cellAt tp.party .write 0x4000 = .ok 0x4000 false ∧
    foundAll (sp 0 0 0 0) c [(0, 0x4000)] = some [(0, 0x4000, 0x4000, false)] ∧
    fillPlan (sp 0 0 0 0) (fun l => lane (c.val 1) l) [(0, 0x4000, 0x4000, false)] [] [] = ([(0x4000, 7)], []) ∧
    issuesB (sp fullWord 0 8 0) sh tp = true ∧
    foundAll (sp fullWord 0 8 0) c [(0, 0x4000)] = some [(0, 0x4000, 0x4000, true)] ∧
    fillPlan (sp fullWord 0 8 0) (fun l => lane (c.val 1) l) [(0, 0x4000, 0x4000, true)] [] [] = ([], [0]) := by decide +kernel
theorem witness_pwait :
    let sh : Shape := { op := 0xD6, sel := .guard .always, srcs := [.k 0], dst := some (.k 31), pass := some (.k 0), imm := true }
    let c := ctxOf sh tp
    issuesB (sp fullWord 0 7 0) sh tp = true ∧ lane (addrs16 c 0) c.first = 0x4000 ∧ c.lanes = [0] ∧
    (sp fullWord 0 7 0).cellAt tp.party .read 0x4000 = .ok 0x4000 false ∧
    (sp fullWord 0 7 0).findRoot tp.party .read false 0x4000 =
      (sp fullWord 0 7 0, .root 0x4000 0x4000 true) ∧ issuesB (sp 0 0 0 0) sh tp = true ∧
    (sp 0 0 0 0).cellAt tp.party .read 0x4000 = .ok 0x4000 false ∧
    (sp 0 0 0 0).findRoot tp.party .read false 0x4000 = (sp 0 0 0 0, .root 0x4000 0x4000 false) := by
  decide +kernel
/-- The team woken at its `pwait` with 7. -/
def woken : Team := { tp with wake := some (.value 7) }
theorem witness_pwait_woken :
    (world woken []).curTeam? = some woken ∧ woken.wake = some (.value 7) ∧ woken.tx.live = false ∧
    Issues ((world woken []).putTeam { woken with wake := none })
      { op := 0xD6, sel := .guard .always, srcs := [.k 0], dst := some (.k 31), pass := some (.k 0), imm := true }
      { woken with wake := none } := by simp only [← issues_iff]; decide +kernel
theorem witness_ptest :
    let sh : Shape := { op := 0xD7, sel := .guard .always, srcs := [.k 0], dst := some .drift, imm := true }
    let c := ctxOf sh tp
    issuesB (sp toNext fullWord 0 7) sh tp = true ∧ lane (c.val 0) c.first + BitVec.ofInt 64 (extOff5 tp.ctl.hint 0 * 16) = 0x4000 ∧
    (sp toNext fullWord 0 7).cellAt tp.party .read 0x4000 = .ok 0x4000 false ∧
    (sp toNext fullWord 0 7).findRoot tp.party .read false 0x4000 =
      (sp toNext fullWord 0 7, .root 0x4010 0x4010 true) := by decide +kernel
theorem witness_peq :
    let sh : Shape := { op := 0xD8, sel := .guard .always, srcs := [.k 0, .k 1] }
    let c := ctxOf sh tp
    issuesB (sp 0 0 0 0) sh tp = true ∧ lane (c.val 0) c.first = 0x4000 ∧ lane (c.val 1) c.first = 0x4010 ∧
    (sp 0 0 0 0).cellAt tp.party .write 0x4000 = .ok 0x4000 false ∧ (sp 0 0 0 0).cellAt tp.party .write 0x4010 = .ok 0x4010 false ∧
    (sp 0 0 0 0).findRoot tp.party .write false 0x4000 = (sp 0 0 0 0, .root 0x4000 0x4000 false) ∧
    (sp 0 0 0 0).findRoot tp.party .write false 0x4010 = (sp 0 0 0 0, .root 0x4010 0x4010 false) ∧
    issuesB (sp fullWord fullWord 7 8) sh tp = true ∧
    (sp fullWord fullWord 7 8).cellAt tp.party .write 0x4000 = .ok 0x4000 false ∧ (sp fullWord fullWord 7 8).cellAt tp.party .write 0x4010 = .ok 0x4010 false ∧
    (sp fullWord fullWord 7 8).findRoot tp.party .write false 0x4000 =
      (sp fullWord fullWord 7 8, .root 0x4000 0x4000 true) ∧
    (sp fullWord fullWord 7 8).findRoot tp.party .write false 0x4010 = (sp fullWord fullWord 7 8, .root 0x4010 0x4010 true) ∧
    (sp fullWord fullWord 7 8).equate (0x4000, 0x4000, true) (0x4010, 0x4010, true) = none ∧
    (sp 0 0 0 0).waitList? 0x4010 = none := by decide +kernel
theorem witness_pcomp :
    let sh : Shape := { op := 0xD9, sel := .guard .always, srcs := [.k 0], imm := true }
    issuesB (sp toNext 0 0 0) sh tp = true ∧ cellsM (ctxOf sh tp) 0 = [(0, 0x4000)] ∧
    (sp toNext 0 0 0).cellAt tp.party .write 0x4000 = .ok 0x4000 false ∧
    (sp toNext 0 0 0).findRoot tp.party .write true 0x4000 = (sp toNext 0 0 0, .root 0x4010 0x4010 false) := by decide +kernel

/-- A journal entry of launch 1, and partition 0 with it. -/
def anEntry : JEntry :=
  { launch := 1, tenant := 0, lrec := {}, hdr := {}, state := .running, replicas := [0, 0], depsFull := [], bad := false, clusters := [(0, 0)],
    nextTeam := [(0, 1)], exported := [], fails := 0, backoff := none, granted := [], committed := false }
def withEntry (e : JEntry) : Partition := { part0 with journal := [e] }
def aRecord : DlqRec := { bytes := [], tenant := 0, sup := false }
def dlqHolds (n : Nat) : State := { sl with parts := [{ part0 with dlq := List.replicate n aRecord }] }
theorem witness_launch :
    let sh : Shape := { op := 0xDB, sel := .guard .always, srcs := [.k 0] }
    let st : Shape := { op := 0xDC, sel := .guard .always, srcs := [.k 0] }
    let c := ctxOf sh tl
    issuesB (dlqHolds 0) sh tl = true ∧ issuesB (dlqHolds 1024) sh tl = true ∧ issuesB (dlqHolds 1023) st tl = true ∧
    tl.tx.live = false ∧ (dlqHolds 0).txHolders 0 (0x4000 / 64) = [] ∧ (dlqHolds 0).part? tl.place.part = some part0 ∧ c.lanes = [0] ∧
    (dlqHolds 0).checkWord { tl.party with tenant := tl.ctl.home.toNat } (lane (c.val 0) 0) 64 .read = .ok 0x4000 false ∧
    (dlqHolds 1024).checkWord { tl.party with tenant := tl.ctl.home.toNat } (lane (c.val 0) 0) 64 .read = .ok 0x4000 false ∧
    part0.dlq.length + c.lanes.length ≤ 1024 ∧ 1024 < (List.replicate 1024 aRecord).length + c.lanes.length ∧ tl.status = .running := by
  decide +kernel
theorem witness_launch_quiet : Quiet (dlqHolds 0) tl ∧ Quiet (dlqHolds 1024) tl := by simp only [Quiet]; decide +kernel
theorem witness_launch_events :
    (dlqHolds 1).part? 0 = some { part0 with dlq := [aRecord] } ∧ ({ part0 with dlq := [aRecord] } : Partition).works = true ∧
    ({ part0 with dlq := [aRecord], replicas := [0] } : Partition).works = false ∧
    (world (parkedOn (.launchQueue 1)) []).team? 1 = some (parkedOn (.launchQueue 1)) ∧
    (parkedOn (.launchQueue 1)).status = .parked (.launchQueue 1) 0 ∧
    (world (parkedOn (.launchQueue 1)) []).live 0 = true ∧ (world (parkedOn (.launchQueue 1)) []).part? t0.place.part = some part0 ∧ max 0 part0.dlqMoved + us 1000 ≤ 3000000 ∧
    s0.now < max 0 part0.dlqMoved + us 1000 := by decide +kernel

/-- k0 names a header of four lanes that may be spawned at 0x5000, k1 to k4 its arguments; a bin of it with n records; and
sixteen bins of other headers. -/
def tsp : Team := team1 [0x5000, 1, 2, 3, 4]
def fourLanes : Header := parseHeader 0x5000 [0, 0, 0, 0, 0, 0, 0, 0, 4, 0, 0, 0, 0, 1]
def aBin (num n : Nat) (h : Header) : Bin :=
  { num, cluster := 0, tenant := 0, part := 0, launch := 1, hdr := h, argblk := 0, opened := 0, order := num,
    recs := List.replicate n [1, 2, 3, 4] }
def binned (bs : List Bin) : State :=
  { world tsp [(0x5008, 2, 4), (0x500D, 1, 1)] with
    sites := [{ key := 0, part := some 0, bins := bs }], parts := [withEntry anEntry] }
def otherBins : List Bin := (List.range 16).map (fun n => aBin n 1 {})
def spawnShape : Shape := { op := 0xDA, sel := .guard .always, blk := some (0, 5) }
def isMine (b : Bin) : Bool :=
  b.cluster == tsp.place.cluster && b.tenant == tsp.ctl.home.toNat && b.part == tsp.place.part &&
    b.launch == tsp.place.launch && b.hdr.addr == fourLanes.addr && decide (b.recs.length < b.hdr.lanes)
theorem witness_spawn :
    issuesB (binned [aBin 0 1 fourLanes]) spawnShape tsp = true ∧ tsp.tx.live = false ∧ tsp.spawning = [] ∧
    tsp.status = .running ∧ (binned [aBin 0 1 fourLanes]).txHolders 0 (0x5000 / 64) = [] ∧
    (ctxOf spawnShape tsp).lanes = [0] ∧ (ctxOf spawnShape tsp).arg 0 0 = 0x5000 ∧
    (binned [aBin 0 1 fourLanes]).checkWord { tsp.party with tenant := tsp.ctl.home.toNat } 0x5000 64 .read = .ok 0x5000 false ∧
    parseHeader 0x5000 (Mem.bytes (binned []).mem 0x5000 64) = fourLanes ∧
    headerBad 0x5000 (Mem.bytes (binned []).mem 0x5000 64) true none = none ∧ fourLanes.spawnable = true ∧
    fourLanes.gang = false ∧ fourLanes.supervisor = false ∧ fourLanes.fits 0 = true ∧
    ((binned [aBin 0 1 fourLanes]).placeRecord tsp fourLanes 0 [1, 2, 3, 4]).isSome = true ∧
    issuesB (binned otherBins) spawnShape tsp = true ∧ (binned otherBins).placeRecord tsp fourLanes 0 [1, 2, 3, 4] = none ∧
    issuesB (world tsp []) spawnShape tsp = true ∧
    (world tsp []).checkWord { tsp.party with tenant := tsp.ctl.home.toNat } 0x5000 64 .read = .ok 0x5000 false ∧
    headerBad 0x5000 (Mem.bytes (world tsp []).mem 0x5000 64) true none ≠ none := by decide +kernel
/-- The team again, its lane's header checked before it parked. -/
def tspKept : Team := { tsp with spawning := [(0, fourLanes)] }
def binnedKept : State := { binned [aBin 0 1 fourLanes] with teams := [tspKept] }
theorem witness_spawn_again :
    issuesB binnedKept spawnShape tspKept = true ∧ tspKept.tx.live = false ∧
    (binnedKept.placeRecord tspKept fourLanes (binnedKept.argBlock tspKept) [1, 2, 3, 4]).isSome = true ∧
    (List.range 4).map (fun i => (ctxOf spawnShape tspKept).arg (i + 1) 0) = [1, 2, 3, 4] := by decide +kernel
theorem witness_spawn_quiet :
    Quiet (binned [aBin 0 1 fourLanes]) tsp ∧ Quiet (binned otherBins) tsp ∧ Quiet (world tsp []) tsp := by
  simp only [Quiet]; decide +kernel
theorem witness_bins :
    ((binned [aBin 0 1 fourLanes]).site 0).bins.find? isMine = some (aBin 0 1 fourLanes) ∧
    (aBin 0 1 fourLanes).recs.length + 1 < (aBin 0 1 fourLanes).hdr.lanes ∧
    ((binned [aBin 0 3 fourLanes]).site 0).bins.find? isMine = some (aBin 0 3 fourLanes) ∧
    (aBin 0 3 fourLanes).recs.length + 1 = (aBin 0 3 fourLanes).hdr.lanes ∧
    ((binned []).site 0).bins.find? isMine = none ∧ fourLanes.lanes ≠ 1 ∧
    ((binned otherBins).site 0).bins.find? isMine = none ∧
    (∀ n, n < 16 → ∃ b ∈ ((binned otherBins).site 0).bins.filter (fun b => b.cluster == tsp.place.cluster), b.num = n) ∧
    (binned [aBin 0 1 fourLanes]).journal? 0 1 = some (withEntry anEntry, anEntry) ∧
    ((binned [aBin 5 1 fourLanes]).site 0).bins.find? (fun d => d.cluster * 16 + d.num == 0 * 16 + 5) = some (aBin 5 1 fourLanes) ∧
    (binned [aBin 5 1 fourLanes]).live 0 = true ∧ (aBin 5 1 fourLanes).due = 64 * 64 * 3 ∧
    (binned [aBin 5 1 fourLanes]).now < (aBin 5 1 fourLanes).due := by decide +kernel
/-- Asked to yield, in the cycle of the deadline. -/
def asksToYield : Team := { t0 with yieldReq := true }
def atDeadline : State :=
  { world asksToYield [] with sites := [{ key := 0, part := some 0, tswOut := some (0, 5) }], now := 6 }
theorem witness_yield :
    let sh : Shape := { op := 0xDD, sel := .guard .always }
    issuesB s0 sh t0 = true ∧ t0.yieldReq = false ∧ t0.tx.live = false ∧ issuesB atDeadline sh asksToYield = true ∧
    asksToYield.tx.live = false ∧ asksToYield.ctl.inHandler = false ∧ (atDeadline.site 0).tswOut = some (0, 5) ∧
    5 ≤ atDeadline.now ∧ atDeadline.now < 5 + Config.ticksPerCycle ∧
    (atDeadline.putTeam asksToYield.next).atReconvergence asksToYield.next = true := by decide +kernel

/-- Tenant 0's name table at 0x10000 names site 0; a team that asks for 8 bytes of 0x5000 to go to 0x6000, or gives a word
for it; and with the core's entries all taken. -/
def nameWords : List (Nat × Nat × Nat) := [(0x1F00400010, 4, 1), (0x1F00400008, 8, 0x10000), (0x10000, 8, 2 ^ 63)]
def tr : Team := team1 [0x6000, 0x5000, 8, 0]
def tx : Team := team1 [0, 0x6000, 7]
def sr (t : Team) (n : Nat) : State := { world t nameWords with ops := List.replicate n anOp }
theorem witness_remote_issue :
    ∃ x ∈ remForms tr .always 0 false false false (.op .add) .add 0, Issues (sr tr 0) x.sh tr ∧ tr.tx.live = false ∧
      tr.did = 0 ∧ tr.pend = [] ∧ (sr tr 0).mxReads tr (fun e => decide (e.seq < tr.xseq)) = false ∧
      (ctxOf x.sh tr).lanes = [0] ∧ (sr tr 0).remChecks (ctxOf x.sh tr) ([0].map x.req) = none ∧
      (sr tr 0).remCore tr.coreKey + 1 ≤ 512 ∧ (sr tr 0).remSite (coreSite tr.coreKey) + 1 ≤ 16384 ∧
      Issues (sr tr 512) x.sh tr ∧ (sr tr 512).remChecks (ctxOf x.sh tr) ([0].map x.req) = none ∧
      512 ≤ (sr tr 512).remCore tr.coreKey ∧ tr.status = .running := by
  refine ⟨_, List.mem_of_getElem? (i := 0) rfl, ?_⟩
  simp only [← issues_iff]; decide +kernel
def txo : Team := team1 [0x6000, 5, 0, 0x5000]
theorem witness_remote_issue_rget_ratom_rred :
    (∃ x ∈ remForms tr .always 0 false false false (.op .add) .add 0, x.i = .rget .always 0 false ∧ Issues (sr tr 0) x.sh tr ∧
      (sr tr 0).remChecks (ctxOf x.sh tr) ([0].map x.req) = none) ∧
    (∃ x ∈ remForms txo .always 0 false false false (.op .add) .add 0, x.i = .ratom .always 0 false (.op .add) ∧
      Issues (sr txo 0) x.sh txo ∧ (sr txo 0).remChecks (ctxOf x.sh txo) ([0].map x.req) = none) ∧
    (∃ x ∈ remForms tr .always 0 false false false (.op .add) .add 0, x.i = .rred .always 0 false false .add ∧
      Issues (sr tr 0) x.sh tr ∧ (sr tr 0).remChecks (ctxOf x.sh tr) ([0].map x.req) = none) := by
  refine ⟨⟨_, List.mem_of_getElem? (i := 1) rfl, ?_⟩, ⟨_, List.mem_of_getElem? (i := 2) rfl, ?_⟩,
    ⟨_, List.mem_of_getElem? (i := 3) rfl, ?_⟩⟩ <;> (simp only [← issues_iff]; decide +kernel)
theorem witness_xput_rname :
    let sh : Shape := { op := 0xE4, sel := .guard .always, blk := some (0, 3), mod := .plane }
    let sn : Shape := { op := 0xE9, sel := .guard .always, srcs := [.k 1], dst := some .drift, pass := some (.k 1) }
    let c := ctxOf sh tx
    let d := peerAddr (c.arg 0 0) (c.arg 1 0)
    issuesB (sr tx 0) sh tx = true ∧ issuesB (sr tx 0) sn tx = true ∧ tx.tx.live = false ∧ tx.did = 0 ∧ c.lanes = [0] ∧
    tx.pend = [] ∧ (sr tx 0).mxReads tx (fun e => decide (e.seq < tx.xseq)) = false ∧
    sameSite d 0x6000 = true ∧ (sr tx 0).remRoom tx.coreKey = true ∧
    (sr tx 0).remChecks c [withCtr false (peerAddr (c.arg 0 0) (c.arg 3 0)) d
      { lane := 0, dest := d, opnd := c.arg 2 0, len := 8, aligns := [(d, 8)], noName := (c.arg 0 0).extractLsb' 21 43 != 0 }] =
      none ∧ ((sr tx 0).lookupName 0 tx.ctl.acting.toNat (gDev 0x6000) (gSite 0x6000)).isSome = true := by decide +kernel

/-- One operation in the machine, in each phase and of each kind. -/
def opIn (p : RemPhase) (op : Nat) : RemOp := { anOp with phase := p, op, words := [(0, 0x4000, 7, 0)] }
def sOp (o : RemOp) : State := { sl with ops := [o] }
theorem witness_packet_sent :
    (sOp (opIn .issued 0xE0)).op? 5 = some (opIn .issued 0xE0) ∧ (sOp (opIn .issued 0xE0)).live 0 = true ∧
    (sOp (opIn .issued 0xE0)).xlateRun (opIn .issued 0xE0).party .read 3 0x5000 8 =
      .ok [(0x5000, 8, [])] ∧ (∀ t ∈ sl.teams, t.tx.live = false) := by decide +kernel
/-- What an operation that arrives asks of the state. -/
def landsB (op : Nat) (need : Need) : Bool :=
  let o := opIn .sent op
  let s := sOp o
  (s.op? 5 == some o) && (o.phase == .sent) && o.relay == none && o.carried == [] && s.live 0 && (s.domainOf 0 == some 0) && ((s.site 0).inc == o.inc) &&
    !s.orderWaits o && (o.ctr == none) && Mem.wf s.mem && (o.data.length == 8) && (o.fn == 0) &&
    ((s.runsAt o.away need [(0x4000, 8)]).toOption == some [[(0x4000, 8, [])]])
theorem witness_packet_applied :
    landsB 0xE0 .write = true ∧ landsB 0xE1 .read = true ∧ landsB 0xE2 .write = true ∧ landsB 0xE4 .write = true := by
  decide +kernel
theorem witness_packet_listeners : ∀ site, NoListeners (sOp (opIn .sent 0xE0)) site :=
  noListeners_of (by decide +kernel) (by decide +kernel)
/-- A packet of another domain, and one of an incarnation that is over. -/
def alien : RemOp := { opIn .sent 0xE0 with key := 1 }
def late : RemOp := { opIn .sent 0xE0 with inc := 1 }
theorem witness_packet_dropped :
    (sOp alien).op? 5 = some alien ∧ alien.phase = .sent ∧ (sOp alien).live 0 = true ∧ (sOp alien).domainOf 0 ≠ some alien.key ∧
    alien.relay = none ∧ late.relay = none ∧ (sOp late).op? 5 = some late ∧ late.phase = .sent ∧ (sOp late).live 0 = true ∧ (sOp late).domainOf 0 = some late.key ∧
    ((sOp late).site 0).inc ≠ late.inc ∧ (sOp (opIn .dropped 0xE0)).op? 5 = some (opIn .dropped 0xE0) ∧
    (opIn .dropped 0xE0).phase = .dropped := by decide +kernel
def inTime : State := { sOp (opIn .sent 0xE0) with now := 1500000 }
theorem witness_remote_completes :
    (opIn .sent 0xE0).relay = none ∧ (opIn .sent 0xE0).carried = [] ∧
    (sOp (opIn .applied 0xE1)).op? 5 = some (opIn .applied 0xE1) ∧ (sOp (opIn .applied 0xE1)).live 0 = true ∧
    (opIn .applied 0xE1).ctr = none ∧ Mem.wf (sOp (opIn .applied 0xE1)).mem = true ∧
    (sOp (opIn .applied 0xE1)).xlateRun (opIn .applied 0xE1).party .write 3 0x5000 8 =
      .ok [(0x5000, 8, [])] ∧ (sOp (opIn .applied 0xE0)).op? 5 = some (opIn .applied 0xE0) ∧
    inTime.op? 5 = some (opIn .sent 0xE0) ∧ inTime.live 0 = true ∧ (opIn .sent 0xE0).sent + us 500 ≤ inTime.now ∧
    inTime.team? (opIn .sent 0xE0).team = some tl ∧
    (world (parkedOn (.delivery 0 0x4000 0x4010)) []).team? 1 = some (parkedOn (.delivery 0 0x4000 0x4010)) ∧
    (parkedOn (.delivery 0 0x4000 0x4010)).status = .parked (.delivery 0 0x4000 0x4010) 0 ∧ 0 + us 500 ≤ inTime.now := by
  decide +kernel
theorem witness_completion_listeners : ∀ site, NoListeners (sOp (opIn .applied 0xE1)) site :=
  noListeners_of (by decide +kernel) (by decide +kernel)
/-- A packet from device 0 to device 1 that stands in the relay buffer of a site of device 2, of which the state knows. -/
def carriedBy : RemOp := { opIn .sent 0xE0 with dsite := 64, relay := some 128, relayed := true }
def relaying : State :=
  { sl with ops := [carriedBy], sites := [{ key := 0, part := some 0 }, { key := 128, part := some 0, relay := carriedBy.size }] }
theorem witness_relay :
    relaying.op? 5 = some carriedBy ∧ carriedBy.relayed = true ∧ carriedBy.relay = some 128 ∧ carriedBy.phase = .sent ∧
    relaying.live 128 = true ∧ (sOp (opIn .sent 0xE0)).op? 5 = some (opIn .sent 0xE0) := by decide +kernel
def aPdc : Pdc := { num := 3, dst := 1, ordered := false, last := 0, pin := none }
def withPdc : State := { s0 with sites := [{ key := 0, part := some 0, pdcs := [aPdc] }] }
theorem witness_fabric :
    (withPdc.site 0).pdcs.find? (fun q => q.num == aPdc.num) = some aPdc ∧ withPdc.ops = [] ∧ aPdc.last + us 20 ≤ 60000 ∧
    withPdc.now < aPdc.last + us 20 ∧ s0.live 0 = true ∧ s0.sites = [s0.site 0] := by decide +kernel

/-- Arguments of `xopen`: a group of one at 0x4000, one 64-bit integer to add, its areas; a world with an adder slot for
tenant 0 or without one; and the instance of the job with nobody in it. -/
def tx0 : Team := team1 [0x4000, 0x100000002, 0, 1000, 0, 0x5000, 0x5100, 0x6000, 0x5200, 0x5210]
def groupWords (share : Nat) : List (Nat × Nat × Nat) := [(0x1F00400016, 1, share), (0x4000, 2, 1), (0x4002, 2, 5)]
def aJob : XInst :=
  { id := 4, num := 0, isSlot := true, tenant := 0, job := 5, n := 1, spec := 0x100000002, t := 0, d := 1000, crc := 0,
    contributors := [0], nodes := [], members := [], fwdTime := 0, result := none, corr := none, final := none }
def grouped (share : Nat) (l : List XInst) : State :=
  { world tx0 (groupWords share) with sites := [{ key := 0, part := some 0, insts := l }] }
def xopenShape : Shape := { op := 0xE5, sel := .guard .always, blk := some (0, 10), dst := some .drift }
def areasFine (as : List Area) : Bool :=
  areaTrap as == none && areaBroken as == none && as.findSome? (fun a => a.fault) == none
theorem witness_xopen_checks :
    let c := ctxOf xopenShape tx0
    issuesB (grouped 1 []) xopenShape tx0 = true ∧ tx0.tx.live = false ∧ c.diverges [1, 2, 3, 4] = none ∧
    specOk (c.arg1 1) = true ∧ spanOk (c.arg1 3) = true ∧ xSize (specFmt (c.arg1 1)) = 8 ∧ xBytes (c.arg1 1) = 8 ∧
    areasFine ((grouped 1 []).areas tx0.party [(c.arg1 0, 64, 64), (c.arg1 5, 8, 8), (c.arg1 6, 8, 8), (c.arg1 7, 64, 1152),
      (c.arg1 8, 16, 16), (c.arg1 9, 16, 16)]) = true ∧
    (grouped 1 []).engineBytes c (c.arg1 0) 64 = (grouped 1 [], [1, 0, 5, 0] ++ List.replicate 60 0) ∧
    leNat (([1, 0, 5, 0] ++ List.replicate 60 0 : List Byte).take 2) = 1 ∧
    areasFine ((grouped 1 []).areas tx0.party [(c.arg1 0 + 64, 8, 8 * 1)]) = true ∧
    (grouped 1 []).engineBytes c (c.arg1 0 + 64) (8 * 1) = (grouped 1 [], List.replicate 8 0) ∧ gOfs 0 = 0 ∧
    (c.arg1 4).toNat = 0 ∧ gDev 0 = tx0.place.ldev ∧ gSite 0 = tx0.place.lsite := by decide +kernel
theorem witness_xopen_quiet : Quiet (grouped 1 []) tx0 ∧ Quiet (grouped 1 [aJob]) tx0 ∧ Quiet (grouped 0 []) tx0 := by
  simp only [Quiet]; decide +kernel
/-- The job is on the site already; it obtains the slot; there is none. -/
theorem witness_xopen_obtains :
    ∀ crc, (∃ s1 y, (grouped 1 []).obtain 0 { aJob with id := 0, crc } = some (s1, y) ∧ s1.inst? 0 y.id = some y) ∧
      (grouped 0 []).obtain 0 { aJob with id := 0, crc } = none := fun _ => ⟨⟨_, _, rfl, rfl⟩, rfl⟩
theorem witness_xopen_instances :
    (grouped 1 [aJob]).instOf 0 0 5 = some aJob ∧ issuesB (grouped 1 [aJob]) xopenShape tx0 = true ∧
    (grouped 1 []).instOf 0 0 5 = none ∧ ((grouped 1 []).site 0).held = [] ∧ (grouped 0 []).instOf 0 0 5 = none ∧
    issuesB (grouped 0 []) xopenShape tx0 = true ∧
    tx0.status = .running := by decide +kernel

/-- A team with an open handle, contributed or not, and one without. -/
def aHandle (contributed : Bool) : Handle := { site := 0, inst := 4, job := 5, index := 0, contributed, failed := false }
def tred (contributed : Bool) : Team := { team1 [0x140000, 0x5000, 0] with handles := [aHandle contributed] }
def member0 : XMember :=
  { team := 1, index := 0, user := false, result := 0x5000, corr := 0x5100, area := 0x6000, compCell := 0x5200,
    corrCell := 0x5210, closed := false, filled := false, todo := [], stuck := false }
def opened (contributed filled : Bool) : State :=
  { world (tred contributed) [] with
    sites := [{ key := 0, part := some 0, insts := [{ aJob with members := [{ member0 with filled }] }] }] }
/-- The same with a leaf whose site has no name. -/
def farJob : XInst := { aJob with contributors := [2 ^ 43], members := [member0] }
def farLeaf : State := { world (tred false) [] with sites := [{ key := 0, part := some 0, insts := [farJob] }] }
theorem witness_xred :
    let sh : Shape := { op := 0xE6, sel := .guard .always, blk := some (0, 2), mod := .plane }
    let c := ctxOf sh (tred false)
    issuesB (opened false false) sh (tred false) = true ∧ c.diverges [0] = none ∧
    (opened false false).handleOf (tred false) (c.arg1 0) = some (aHandle false) ∧
    (aHandle false).failed = false ∧ (opened false false).inst? 0 4 = some { aJob with members := [member0] } ∧
    (opened false false).leafUnnamed 0 0 { aJob with members := [member0] } 0 = false ∧
    (opened true false).leafUnnamed 0 0 { aJob with members := [member0] } 0 = false ∧
    farLeaf.inst? 0 4 = some farJob ∧ farLeaf.leafUnnamed 0 0 farJob 0 = true ∧ issuesB farLeaf sh (tred false) = true ∧
    farLeaf.handleOf (tred false) 0x140000 = some (aHandle false) ∧
    farLeaf.checkRange (tred false).party (c.arg1 1) 8 false = .ok ∧ xBytes aJob.spec = 8 ∧
    (c.arg1 1).toNat % xSize (specFmt aJob.spec) = 0 ∧ (opened false false).checkRange (tred false).party (c.arg1 1) 8 false = .ok ∧
    (opened false false).xlateRun (tred false).party .read (8 / 65536 + 2) (c.arg1 1) 8 = .ok [(0x5000, 8, [])] ∧
    (∀ u ∈ (opened false false).teams, u.tx.live = false) ∧ issuesB (opened true false) sh (tred true) = true ∧
    (opened true false).handleOf (tred true) 0x140000 = some (aHandle true) ∧
    issuesB (world (tred false) []) sh (tred false) = true ∧ (world (tred false) []).handleOf (tred false) 0x140000 = none := by
  decide +kernel
theorem witness_xred_quiet :
    Quiet (opened false false) (tred false) ∧ Quiet (opened true false) (tred true) ∧ Quiet farLeaf (tred false) ∧
    Quiet (world (tred false) []) (tred false) := by simp only [Quiet]; decide +kernel
theorem witness_xclose :
    let sh : Shape := { op := 0xE7, sel := .guard .always, srcs := [.k 0] }
    let c := ctxOf sh (tred true)
    issuesB (opened true true) sh (tred true) = true ∧ (tred true).tx.live = false ∧ voteOf c (c.val 0) = [] ∧
    lane (c.val 0) c.first = 0x140000 ∧ (opened true true).handleOf (tred true) 0x140000 = some (aHandle true) ∧
    (opened true true).partDone (aHandle true) = true ∧ (opened true false).partDone (aHandle true) = false ∧
    issuesB (opened true false) sh (tred true) = true ∧ (tred true).status = .running ∧
    (world (tred true) []).handleOf (tred true) 0x140000 = none ∧ issuesB (world (tred true) []) sh (tred true) = true := by
  decide +kernel
theorem witness_specs : 1 < 2 ^ 20 ∧ 2 < 4 ∧ 2 < 16 ∧ (1 : Nat) < 3 ∧ (2 = 2 ∨ 2 = 3) := by decide

/-- A packet with a result of the job on its way, and the instance it meets. -/
def aValue : XVal := { bytes := leBytes 8 7, incl := [0], rescaled := false, scalesat := false }
def aPacket (key : Nat) (inc : BitVec 32) (spec : Word) : XPkt :=
  { id := 8, src := 0, dst := 0, tenant := 0, key, job := 5, n := 1, spec, t := 0, d := 1000, crc := 0, contributors := [0],
    inc, sent := 0, kind := .result aValue [] }
def travelling (p : XPkt) : State := { grouped 1 [aJob] with xpkts := [p] }
theorem witness_packet_arrives :
    let s (key : Nat) (inc : BitVec 32) (spec : Word) : State := travelling (aPacket key inc spec)
    (s 0 0 1).xpkts.find? (fun q => q.id == 8) = some (aPacket 0 0 1) ∧ (s 0 0 1).live 0 = true ∧
    (s 0 0 1).xpkts.any (fun q => q.src == 0 && q.dst == 0 && q.tenant == 0 && q.job == 5 && decide (q.id < 8)) = false ∧
    (s 0 0 1).tenantDesc 0 0 ≠ none ∧ (travelling { aPacket 0 0 1 with tenant := 1 }).tenantDesc 0 1 = none ∧
    (s 1 0 1).domainOf 0 ≠ some (aPacket 1 0 1).key ∧ (s 0 1 1).domainOf 0 = some (aPacket 0 1 1).key ∧
    ((s 0 1 1).site 0).inc ≠ (aPacket 0 1 1).inc ∧ ((s 0 0 1).site 0).inc = (aPacket 0 0 1).inc ∧
    (s 0 0 1).instOf 0 0 5 = some aJob ∧ (aPacket 0 0 1).differs aJob = true ∧
    (aPacket 0 0 0x100000002).differs aJob = false ∧ (aPacket 0 0 0x100000002).kind = .result aValue [] := by decide +kernel
/-- An instance of n contributors with one node of level 1, holding its left input; past every deadline, or at the start. -/
def aNode (forwarded : Bool) : XNode := { h := 1, j := 0, left := some aValue, right := none, forwarded, closed := false }
def jobOf (n : Nat) (forwarded : Bool) : XInst := { aJob with n, nodes := [aNode forwarded] }
def waitsOn (n : Nat) (forwarded : Bool) (now : Nat) : State := { grouped 1 [jobOf n forwarded] with now }
theorem witness_node_deadlines :
    (waitsOn 3 false 30000000).inst? 0 4 = some (jobOf 3 false) ∧ (jobOf 3 false).node? 1 0 = some (aNode false) ∧
    (waitsOn 3 false 30000000).firstDue 0 (jobOf 3 false) 1 0 = false ∧
    (waitsOn 3 true 30000000).lastDue 0 (jobOf 3 true) 1 0 = false ∧ (waitsOn 2 false 30000000).firstDue 0 (jobOf 2 false) 1 0 = false ∧
    (waitsOn 3 false 30000000).live 0 = true ∧ 1 ≠ xLevels 3 ∧ (waitsOn 3 false 30000000).past 0 (xForwardAt 0 1000 1) = true ∧
    (aNode false).value aJob.spec = some aValue ∧ (waitsOn 3 false 0).past 0 (xForwardAt 0 1000 1) = false ∧
    (waitsOn 3 true 30000000).past 0 (xCloseAt 0 1000 1) = true ∧ (aNode true).closed = false ∧
    (waitsOn 3 true 30000000).xpkts = [] ∧ 1 = xLevels 2 ∧ (aNode false).whole (jobOf 2 false) = false ∧
    (waitsOn 2 false 30000000).inst? 0 4 = some (jobOf 2 false) := by decide +kernel
def noSlot : Team := parkedOn (.reductionSlot 0 5)
def closing : Team := { parkedOn (.reductionClose 4 0) with handles := [aHandle true] }
def lateClose : State :=
  { world closing [] with
    now := 30000000, sites := [{ key := 0, part := some 0, insts := [{ aJob with members := [member0] }] }] }
theorem witness_reduction_expiries :
    (world noSlot []).team? 1 = some noSlot ∧ noSlot.status = .parked (.reductionSlot 0 5) 0 ∧ 0 + us 1000 ≤ 3000000 ∧
    lateClose.team? 1 = some closing ∧ closing.status = .parked (.reductionClose 4 0) 0 ∧
    closing.handles.find? (fun k => k.inst == 4 && k.index == 0) = some (aHandle true) ∧
    lateClose.inst? 0 4 = some { aJob with members := [member0] } ∧ lateClose.past 0 aJob.lateAt = true ∧
    lateClose.live 0 = true ∧ (aHandle true).failed = false ∧ lateClose.member? (aHandle true) = some member0 ∧
    member0.filled = false := by decide +kernel

/-- A halted team in slot 1, small; its slot record stands at 0x104000, a long instruction or a queued `mload` in it. -/
def small (id : Nat) (st : TStatus) : Team :=
  { id, status := st, hdr := { addr := 0x7000 }, place := { slot := 1, launch := 1 }, regs := { q := List.replicate 8 {} },
    ctl := { pc := 0x1000, live := 1, cur := 1 } }
def out2 : Team := small 2 (.halted true none 0)
def longRecord : List (Nat × Nat × Nat) := [(0x104008, 8, 2 ^ 13), (0x104040, 8, 1)]
def queuedRecord : List (Nat × Nat × Nat) := [(0x104008, 8, 2 ^ 24), (0x105140, 8, 0xC6F00000), (0x105178, 8, 3)]
def besides (t : Team) (h : Team) (ws : List (Nat × Nat × Nat)) : State := { world t ws with teams := [t, h] }
def tpi (x v : Word) : Team := team1 [x, v]
theorem witness_pidx :
    let sh : Shape := { op := 0xFD, sel := .guard .always, srcs := [.k 0], dst := some .drift, pass := some (.k 0), priv := 1 }
    issuesB (besides (tpi 1 0) out2 longRecord) sh (tpi 1 0) = true ∧ selOf 1 = 0 ∧
    (besides (tpi 1 0) out2 longRecord).haltedAt 0 0 (designator true 1) = some out2 ∧
    (besides (tpi 1 0) out2 longRecord).slotRecord out2 = some 0x104000 ∧ issuesB (world (tpi 0x5001 0) []) sh (tpi 0x5001 0) = true ∧
    selOf 0x5001 = 5 ∧ issuesB (world (tpi 1 0) []) sh (tpi 1 0) = true ∧
    (world (tpi 1 0) []).haltedAt 0 0 (designator true 1) = none := by decide +kernel
theorem witness_pidx_set :
    let sh : Shape := { op := 0xFD, sel := .guard .always, srcs := [.k 0, .k 1], priv := 1 }
    let long : State := besides (tpi 1 1) out2 longRecord
    let queued : State := besides (tpi 0x1001 1) out2 queuedRecord
    issuesB long sh (tpi 1 1) = true ∧ long.haltedAt 0 0 (designator true 1) = some out2 ∧
    long.slotRecord out2 = some 0x104000 ∧ long.slotLong 0x104000 = true ∧ 1 ≤ out2.passes ∧
    issuesB (besides (tpi 1 2) out2 longRecord) sh (tpi 1 2) = true ∧ out2.passes < 2 ∧
    issuesB queued sh (tpi 0x1001 1) = true ∧ selOf 0x1001 = 1 ∧ queued.haltedAt 0 0 (designator true 0x1001) = some out2 ∧
    queued.slotRecord out2 = some 0x104000 ∧ (queued.queuedWord 0x104000 0).map (fun e => e.extent) = some 8 ∧
    queued.slotLong 0x104000 = false := by decide +kernel
/-- Arguments of `ctxs` of the halted team to 0x200000 with room for its image of 0x5040 bytes, or with too little. -/
def tcx (len : Word) : Team := team1 [1, 0x200000, len]
theorem witness_ctxs :
    let sh : Shape := { op := 0xF8, sel := .guard .always, blk := some (0, 3), priv := 1 }
    let s := besides (tcx 0x5040) out2 []
    issuesB s sh (tcx 0x5040) = true ∧ (tcx 0x5040).status = .running ∧
    s.haltedAt 0 0 (designator false 1) = some out2 ∧ s.team? 2 = some out2 ∧
    0x4040 + 256 * out2.hdr.rows + out2.hdr.scratchBytes + 128 * (s.cmdsOf 2).length = 0x5040 ∧ Mem.wf s.mem = true ∧
    s.checkRange (tcx 0x5040).party 0x200000 0x5040 true = .ok ∧
    s.xlateRun (tcx 0x5040).party .write (0x5040 / 65536 + 2) 0x200000 0x5040 = .ok [(0x200000, 0x5040, [])] ∧
    issuesB (besides (tcx 0x503F) out2 []) sh (tcx 0x503F) = true ∧
    (besides (tcx 0x503F) out2 []).checkRange (tcx 0x503F).party 0x200000 0x5040 true = .ok ∧ (0x503F : Word).toNat < 0x5040 := by decide +kernel
theorem witness_ctxs_quiet :
    Quiet (besides (tcx 0x5040) out2 []) (tcx 0x5040) ∧ Quiet (besides (tcx 0x503F) out2 []) (tcx 0x503F) := by
  simp only [Quiet]; decide +kernel
theorem witness_ctxs_listeners : ∀ site, NoListeners (besides (tcx 0x5040) out2 []) site :=
  noListeners_of (by decide +kernel) (by decide +kernel)
/-- Its image at 0x200000, the team exported under token 77, and a `ctxr` of it to core 1. -/
def exported2 : Team := small 2 (.exported 77)
def imageWords : List (Nat × Nat × Nat) :=
  [(0x204008, 8, 1), (0x204010, 8, 0x7000), (0x204018, 8, 16), (0x204038, 8, 77)]
def tcr : Team := team1 [0x200000, 0x10]
def restoring : State :=
  { besides tcr exported2 imageWords with parts := [withEntry { anEntry with exported := [77] }] }
theorem witness_ctxr :
    let sh : Shape := { op := 0xF9, sel := .guard .always, blk := some (0, 2), priv := 1 }
    let img := Mem.bytes restoring.mem 0x200000 0x5040
    let t0 : Team := { exported2 with place := { exported2.place with core := 1 } }
    issuesB restoring sh tcr = true ∧ tcr.status = .running ∧ (∀ u ∈ restoring.teams, u.tx.live = false) ∧
    (ctxOf sh tcr).arg1 0 = 0x200000 ∧ designator false ((ctxOf sh tcr).arg1 1) = some (0, 1, 0) ∧
    restoring.checkRange tcr.party 0x200000 0x4040 false = .ok ∧
    restoring.xlateRun tcr.party .read (0x4040 / 65536 + 2) 0x200000 0x4040 = .ok [(0x200000, 0x4040, [])] ∧
    0x5040 = 0x4040 + 256 * exported2.hdr.rows + exported2.hdr.scratchBytes + 128 * 0 ∧ wordAt img (0x4000 + 56) = 77 ∧
    wordAt img 0x4000 = BitVec.ofNat 64 tcr.ctl.acting.toNat ∧ (wordAt img (0x4000 + 8)).toNat = exported2.place.launch ∧
    wordAt img (0x4000 + 16) = exported2.hdr.addr ∧ (wordAt img (0x4000 + 24)).toNat = exported2.hdr.rows ∧
    (wordAt img (0x4000 + 32)).toNat = exported2.hdr.scratchBytes ∧ (wordAt img (0x4000 + 40)).toNat = 0 ∧
    tcr.ctl.acting = exported2.ctl.home ∧
    restoring.teams.find? (fun u => u.status == .exported 77 && u.place.part == 0 && u.place.launch == 1) = some exported2 ∧
    restoring.team? 2 = some exported2 ∧
    restoring.journal? 0 1 = some (withEntry { anEntry with exported := [77] }, { anEntry with exported := [77] }) ∧
    restoring.checkRange tcr.party 0x200000 0x5040 false = .ok ∧
    restoring.xlateRun tcr.party .read (0x5040 / 65536 + 2) 0x200000 0x5040 = .ok [(0x200000, 0x5040, [])] ∧
    (restoring.room 1 t0).any (fun pl =>
      (restoring.inTheWay 1 t0 (restoring.runsOf t0 pl) (pl.scratch, exported2.hdr.scratchBytes) []).isEmpty) = true ∧ restoring.coreOpen 1 = true ∧ restoring.coreHeld 1 t0 = false ∧
    restoring.coreEntries 1 + 0 ≤ 256 := by decide +kernel
theorem witness_ctxr_quiet : Quiet restoring tcr := by simp only [Quiet]; decide +kernel

/-- Team 1's fault stands in the buffer of site 0; an entry popped or not; and one that waits for a place. -/
def faulted (popped : Bool) : FbEntry := .page 0 7 true false false false 0x70000 popped [.team 1]
def pageWaiter : Team := parkedOn (.translation 0 0 7)
def serving (t : Team) (l : List FbEntry) (ws : List FbWait) : State :=
  { world t [] with sites := [{ key := 0, part := some 0, fbuf := l, fbWaits := ws, fbSince := some 0 }] }
def aWait : FbWait :=
  { tenant := 0, page := 8, wrt := true, fet := false, eng := false, lvl := false, first := 0x80000, who := .team 3 }
theorem witness_translation_service :
    let inv : Shape := { op := 0xFA, sel := .guard .always, srcs := [.k 0], priv := 1 }
    let all : Shape := { op := 0xFA, sel := .guard .always, priv := 1 }
    let pop : Shape := { op := 0xFB, sel := .guard .always, dst := some .drift, priv := 1 }
    issuesB s0 inv t0 = true ∧ issuesB s0 all t0 = true ∧ (∀ u ∈ s0.teams, u.pend = [] ∧ u.mwr = []) ∧ (∀ c ∈ s0.cores, c.wbuf = []) ∧
    s0.sentThrough 0 ((s0.site 0).names.filter (fun e => e.tenant == 0)) = [] ∧
    (s0.site 0).fbuf = [] ∧ ((serving pageWaiter [faulted false] []).site 0).fbuf = [faulted false] ∧
    ((serving pageWaiter [faulted false] []).site 0).fbWaits = [] ∧
    (serving pageWaiter [faulted false] []).team? 1 = some pageWaiter ∧ pageWaiter.status = .parked (.translation 0 0 7) 0 ∧
    issuesB s0 pop t0 = true ∧ popFirst (s0.site 0).fbuf = none ∧ issuesB (serving t0 [faulted false] []) pop t0 = true ∧
    popFirst [faulted false] = some (faulted false, [faulted true]) ∧
    ((serving t0 [faulted false] [aWait]).site 0).fbSince = some 0 ∧
    ((serving t0 [faulted false] [aWait]).site 0).fbWaits = [aWait] ∧ (serving t0 [] [aWait]).live 0 = true ∧
    0 + us 1000 ≤ 3000000 ∧ (serving t0 [faulted false] [aWait]).now < 0 + us 1000 := by decide +kernel
theorem witness_translation_quiet : Quiet s0 t0 := by simp only [Quiet]; decide +kernel

/-- Arguments of `frz`; its unit and the record's place. -/
def tfz (unit a : Word) : Team := team1 [unit, a]
def frzShape : Shape := { op := 0xFC, sel := .guard .always, blk := some (0, 2), priv := 2 }
theorem witness_freeze_instructions :
    issuesB (world (tfz 550 0x4000) []) frzShape (tfz 550 0x4000) = true ∧ (0x4000 : Word).toNat % 16 = 0 ∧
    (550 : Word).toNat ≤ 550 ∧ Mem.wf (world (tfz 550 0x4000) []).mem = true ∧
    ((world (tfz 550 0x4000) []).freezeRecord 0 550).length = 128 ∧
    (world (tfz 550 0x4000) []).checkRange (tfz 550 0x4000).party 0x4000 128 true = .ok ∧
    (world (tfz 550 0x4000) []).xlateRun (tfz 550 0x4000).party .write (128 / 65536 + 2) 0x4000 128 =
      .ok [(0x4000, 128, [])] ∧ (∀ r ∈ ((world (tfz 550 0x4000) []).site 0).frzRecs, r.2.length = 72) ∧
    issuesB (world (tfz 551 0x4000) []) frzShape (tfz 551 0x4000) = true ∧ 550 < (551 : Word).toNat ∧
    issuesB (world (tfz 0 0x4008) []) frzShape (tfz 0 0x4008) = true ∧ (0x4008 : Word).toNat % 16 ≠ 0 ∧
    issuesB (world (tfz 0 0x4000) []) frzShape (tfz 0 0x4000) = true ∧
    (leBytes 16 ((world (tfz 0 0x4000) []).site 0).detail.toNat).length = 16 ∧
    (world (tfz 0 0x4000) []).xlateRun (tfz 0 0x4000).party .write (16 / 65536 + 2) 0x4000 16 = .ok [(0x4000, 16, [])] ∧
    (world (tfz 0 0x4000) []).checkRange (tfz 0 0x4000).party 0x4000 16 true = .ok ∧
    issuesB (world (tfz 0 0) []) frzShape (tfz 0 0) = true := by decide +kernel
theorem witness_freeze_quiet :
    Quiet (world (tfz 550 0x4000) []) (tfz 550 0x4000) ∧ Quiet (world (tfz 0 0x4000) []) (tfz 0 0x4000) := by
  simp only [Quiet]; decide +kernel
theorem witness_freeze_listeners : ∀ site, NoListeners (world (tfz 550 0x4000) []) site ∧ NoListeners (world (tfz 0 0x4000) []) site :=
  fun site => ⟨noListeners_of (by decide +kernel) (by decide +kernel) site,
    noListeners_of (by decide +kernel) (by decide +kernel) site⟩
/-- Two frozen sites of one partition that recovers, the other one's line held or not. -/
def recovering (held : Bool) : State :=
  { s0 with
    parts := [{ part0 with sites := [0, 1], state := .recovering }],
    sites := [{ key := 0, part := some 0, frozen := true, frzHeld := true },
              { key := 1, part := some 0, frozen := true, frzHeld := held }] }
theorem witness_release :
    ((recovering true).site 0).frozen = true ∧ ((recovering true).site 0).part = some 0 ∧
    (recovering true).part? 0 = some { part0 with sites := [0, 1], state := .recovering } ∧
    ((recovering true).site 1).part = some 0 ∧ ((recovering true).site 1).frzHeld = true ∧
    ((recovering false).site 0).frozen = true ∧ ((recovering false).site 0).part = some 0 ∧
    (recovering false).part? 0 = some { part0 with sites := [0, 1], state := .recovering } ∧
    (∀ k ∈ [0, 1], k ≠ 0 → ((recovering false).site k).part = some 0 → ((recovering false).site k).frzHeld = false) ∧
    [0, 1].Nodup := by decide +kernel

/-- A halted team of tenant 0 that holds every row and all scratch of its core, and a team of tenant 1 that waits for them. -/
def bigHeader : Header := { lanes := 1024, kregs := 32, qdepth := 32, scratch := 262144 }
def filling : Team := { small 2 (.halted true none 0) with hdr := bigHeader }
def wanting : Team :=
  { small 3 (.waiting 0 false none) with hdr := bigHeader, ctl := { live := Mask.low 1024, home := 1, acting := 1 } }
def crowded (now : Nat) : State :=
  { world filling [] with teams := [filling, wanting], now, parts := [{ part0 with reserved := 1536 }] }
/-- Core 0 thaws for the waiting team, since the start. -/
def aThaw : Thaw := { team := 3, rows := [(0, 1536)], scratch := (0, 262144), since := 0, owners := [2] }
def thawing : State := { crowded 300000 with cores := [{ key := 0, thaw := some aThaw }] }
def anIntake (bytes : List Byte) (bad : Bool) (src : Option (Nat × Nat)) : Intake :=
  { bytes, tenant := 0, sup := true, bad, src, since := 0 }
def late10 : Nat := us 10000
theorem witness_freeze_line :
    s0.part? 0 = some part0 ∧ part0.state = .running ∧ 0 ∈ part0.sites ∧ (s0.site 0).part = some 0 ∧ (s0.site 0).frozen = false ∧
    (s0.site 0).detail = 0 ∧ s0.live 0 = true ∧ (s0.site 0).mgmt.powered = true ∧
    (∀ t ∈ s0.teams, t.isReserved = false) ∧ (State.reset.site 0).mgmt.powered = true ∧ (State.reset.site 0).part = none ∧
    State.reset.teams = [] ∧ (State.reset.site 0).bins = [] ∧ 1 ≤ ((BitVec.ofNat 96 (2 ^ 91)).extractLsb' 91 5).toNat ∧
    ((BitVec.ofNat 96 (2 ^ 91)).extractLsb' 82 6).toNat = (s0.site 0).lsite ∧ 550 < 551 ∧
    (44000 : Nat) ≤ 48000 ∧ 40000 ≤ 43999 ∧ 618 ≤ 650 ∧ 617 < 618 ∧ 899 < 1000 ∧ 3 < 4 := by decide +kernel
theorem witness_watchdogs :
    ({ sc with cmds := [theCopy], now := us 1000 } : State).cmds.find? (fun c => c.site == 0 && c.state == CmdState.flight &&
      c.segs.all (fun g => !g.stuck) && decide (c.issued + us 1000 ≤ us 1000)) = some theCopy ∧
    [anIntake [] false none].find? (fun i => decide (i.since + us 10000 ≤ late10)) = some (anIntake [] false none) ∧
    (thawing.cores.find? (fun c => coreSite c.key == 0 && thawing.thawLate c.key)).map (fun c => c.key) = some 0 ∧
    thawing.thawOn 0 = some aThaw ∧ thawing.live 0 = true ∧ aThaw.since + us 100 ≤ thawing.now ∧
    ((busy (ent 0xC4 0 0) 1).core 0).mx.queue = ent 0xC4 0 0 :: [] ∧ (ent 0xC4 0 0).stuck = false ∧
    ((busy (ent 0xC4 0 0) 1).core 0).mx.moved + us 10000 ≤ late10 ∧ coreSite 0 = 0 := by decide +kernel
/-- Partition 0 frozen, recovering on its one site, and with one replica. -/
def inState (st : PState) (x : Site) : State := { s0 with parts := [{ part0 with state := st }], sites := [x] }
def downSite : Site := { key := 0, part := some 0, frozen := true }
def oneReplica : State :=
  { s0 with parts := [{ part0 with sites := [0, 1], replicas := [0] }], sites := [{ key := 0, part := some 0 }, { key := 1, part := some 0 }] }
theorem witness_recovery :
    (inState .frozen downSite).part? 0 = some { part0 with state := .frozen } ∧ (∀ e ∈ part0.journal, e.state ≠ .running) ∧
    (inState .recovering downSite).part? 0 = some { part0 with state := .recovering } ∧ part0.replicas.length = 2 ∧
    part0.sites = [0] ∧ ((inState .recovering downSite).site 0) = downSite ∧ downSite.part = some 0 ∧ downSite.frozen = true ∧
    downSite.detail = 0 ∧ s0.part? 0 = some part0 ∧ part0.state = .running ∧
    (inState .lost downSite).part? 0 = some { part0 with state := .lost } ∧
    oneReplica.part? 0 = some { part0 with sites := [0, 1], replicas := [0] } ∧ (oneReplica.site 1).part = some 0 ∧
    (oneReplica.site 1).mgmt.powered = true ∧ 1 ≠ 0 := by
  decide +kernel

/-- Host queue 0 of site 0: sixteen entries at 0x400000, on; its entry 0 whole or not there; and being fetched again. -/
def aQueue (tail : BitVec 32) (r : Option Refetch) : HostQueue := { cfg := 0x90000400, tail, refetch := r }
def hosting (q : HostQueue) (ws : List (Nat × Nat × Nat)) : State :=
  { world t0 ws with sites := [{ key := 0, part := some 0, hq := q :: List.replicate 15 {} }] }
def aFetch (n : Nat) : Refetch := { entry := 0, retries := n, next := 750, got0 := none, got1 := none }
def chunkWords : List (Nat × Nat × Nat) := [(0x400000, 1, 1), (0x400040, 1, 1)]
theorem witness_host_queues :
    (hosting (aQueue 0 none) []).live 0 = true ∧ hostPort 0 = true ∧ ((5 : Word).extractLsb' 32 16).toNat < 16 ∧
    (5 : Word).extractLsb' 48 16 = 0 ∧ (aQueue 0 none).on = true ∧ (aQueue 0 none).legal = true ∧
    (hosting (aQueue 0 none) []).hq 0 0 = aQueue 0 none ∧ ((5 : Word).extractLsb' 0 32 - (aQueue 0 none).head).toNat ≤ (aQueue 0 none).n ∧
    (aQueue 0 none).n < ((17 : Word).extractLsb' 0 32 - (aQueue 0 none).head).toNat ∧
    (hosting (aQueue 1 none) []).hq 0 0 = aQueue 1 none ∧ (aQueue 1 none).head ≠ (aQueue 1 none).tail ∧
    ((hosting (aQueue 1 none) []).site 0).part = some 0 ∧ (hosting (aQueue 1 none) []).part? 0 = some part0 ∧ part0.intake = [] ∧
    byteAt (Mem.bytes (hosting (aQueue 1 none) chunkWords).mem ((aQueue 1 none).entryAt 0 0) 64) 0 = (aQueue 1 none).seq 0 ∧
    byteAt (Mem.bytes (hosting (aQueue 1 none) chunkWords).mem ((aQueue 1 none).entryAt 0 0 + 64) 64) 0 = (aQueue 1 none).seq 0 ∧
    byteAt (Mem.bytes (hosting (aQueue 1 none) []).mem ((aQueue 1 none).entryAt 0 0) 64) 0 ≠ (aQueue 1 none).seq 0 ∧
    byteAt (Mem.bytes (hosting (aQueue 1 none) []).mem ((aQueue 1 none).entryAt 0 0 + 64) 64) 0 ≠ (aQueue 1 none).seq 0 := by
  decide +kernel
theorem witness_chunk_refetch :
    let q := aQueue 1 (some (aFetch 0))
    let s : State := { hosting q [] with now := 750 }
    s.live 0 = true ∧ s.hq 0 0 = q ∧ q.refetch = some (aFetch 0) ∧ (hosting q []).now < (aFetch 0).next ∧
    (aFetch 0).next ≤ s.now ∧ s.chunk 0 q 0 0 = (s, none) ∧ s.chunk 0 q 0 1 = (s, none) ∧ (aFetch 0).got0 = none ∧
    (aFetch 0).got1 = none ∧ (aFetch 62).retries + 1 < 64 ∧ 64 ≤ (aFetch 63).retries + 1 := by decide +kernel
/-- A record of a header at 0x5000, for one team of one cluster of one site from the one given. -/
def recordFrom (site : Byte) : List Byte :=
  leBytes 8 0x5000 ++ [1, 0, 1, 1] ++ [site, 0, 0, 0] ++ List.replicate 48 0
def intaking (i : Intake) (p : Partition) : State :=
  { world t0 [(0x5008, 2, 4)] with parts := [{ p with intake := [i] }] }
theorem witness_acceptance :
    let fine := anIntake (recordFrom 0) false none
    let far := anIntake (recordFrom 1) false (some (0, 0))
    let bad := anIntake [] true none
    let s := intaking fine part0
    s.part? 0 = some { part0 with intake := [fine] } ∧ ({ part0 with intake := [fine] } : Partition).works = true ∧
    ({ part0 with intake := [far], replicas := [0] } : Partition).works = false ∧ far.src = some (0, 0) ∧
    (intaking bad part0).part? 0 = some { part0 with intake := [bad] } ∧
    ((intaking bad part0).checkLaunch { part0 with intake := [bad] } bad).2 = .malformed 0 0 ∧
    ((intaking bad part0).checkLaunch { part0 with intake := [bad] } bad).1.part? 0 = some { part0 with intake := [bad] } ∧
    ((intaking far part0).checkLaunch { part0 with intake := [far] } far).2 = .unplaceable ∧
    (s.checkLaunch { part0 with intake := [fine] } fine).2 = .fine (parseHeader 0x5000 (Mem.bytes s.mem 0x5000 64)) ∧
    (s.checkLaunch { part0 with intake := [fine] } fine).1.part? 0 = some { part0 with intake := [fine] } ∧
    (parseRecord fine.bytes).deps = List.replicate 4 0 ∧ part0.journal = [] := by decide +kernel
/-- The leaf that maps the header has a reserved bit set. -/
def brokenLeaf (i : Intake) : State :=
  { world t0 [(0, 1, 1), (0x5008, 2, 4)] with parts := [{ part0 with intake := [i] }] }
theorem witness_acceptance_broken :
    let i := anIntake (recordFrom 0) false none
    ((brokenLeaf i).checkLaunch { part0 with intake := [i] } i).2 = .broken 0 0x5000 2 := by decide +kernel

/-- A team that waits on cluster 0 of site 0, in the order of admission alone. -/
def waiter : Team := small 3 (.waiting 0 false none)
def waits (now : Nat) : State := { world waiter [] with teams := [waiter], now }
theorem witness_admission :
    (waits 0).team? 3 = some waiter ∧ waiter.isWaiting = true ∧ waiter.hdr.gang = false ∧ coreSite 0 = waiter.place.site ∧
    coreIdx 0 / 64 = waiter.place.cluster ∧ (waits 0).teams = [waiter] ∧ ((waits 0).core 0).thaw = none ∧
    (waits 0).coreTakes 0 waiter = true ∧ (waits 0).journalOpen 0 1 = true ∧ (waits 0).mayPass waiter = true ∧
    (waits 0).returns 0 waiter = false ∧ ((waits 0).room 0 waiter).any (fun p =>
      ((waits 0).inTheWay 0 waiter ((waits 0).runsOf waiter p) (p.scratch, waiter.hdr.scratchBytes)
        (p.moves.map (fun m => m.1))).isEmpty) = true ∧
    (crowded 0).team? 3 = some wanting ∧ wanting.isWaiting = true ∧ wanting.hdr.gang = false ∧
    (crowded 0).coreTakes 0 wanting = true ∧ (crowded 0).mayPass wanting = true ∧ (crowded 0).returns 0 wanting = false ∧
    ((crowded 0).core 0).thaw = none ∧ (crowded 0).journalOpen 0 1 = true ∧ ((crowded 0).room 0 wanting).any (fun p =>
      !((crowded 0).inTheWay 0 wanting ((crowded 0).runsOf wanting p) (p.scratch, wanting.hdr.scratchBytes)
        (p.moves.map (fun m => m.1))).isEmpty) = true ∧
    (∀ u ∈ (waits 60000).waitingAt 0 0, u.id = waiter.id) ∧ waiter.status = .waiting 0 false none ∧ (waits 60000).live 0 = true ∧ 0 + us 20 ≤ (waits 60000).now ∧
    (waits 59999).now < 0 + us 20 := by decide +kernel
/-- A gang on sites 0 and 1; nobody of it left on site 0 without a place, or one with no room; and all granted. -/
def gangEntry (granted : List Nat) (backoff : Option Nat) : JEntry :=
  { anEntry with hdr := { gang := true }, lrec := { sites := 2 }, state := .eligible, granted, backoff }
def ganged (granted : List Nat) (backoff : Option Nat) (l : List Team) : State :=
  { s0 with
    parts := [{ part0 with sites := [0, 1], journal := [gangEntry granted backoff] }], teams := l,
    sites := [{ key := 0, part := some 0 }, { key := 1, part := some 0 }] }
def tooBig : Team := { waiter with hdr := { bigHeader with scratch := 262145 } }
def wantsOf (s : State) : List Nat := (s.launchTeams 0 1 (fun t => t.isWaiting && t.place.site == 0)).map (fun t => t.id)
theorem witness_gangs :
    (ganged [] none []).journal? 0 1 =
      some ({ part0 with sites := [0, 1], journal := [gangEntry [] none] }, gangEntry [] none) ∧
    (([0, 1].drop 0).take 2).find? (fun k => !(gangEntry [] none).granted.contains k) = some 0 ∧
    (gangEntry [] none).hdr.gang = true ∧ 1 < (gangEntry [] none).lrec.sites ∧ (gangEntry [] none).clusters ≠ [] ∧
    (gangEntry [] none).committed = false ∧ (ganged [] none []).live 0 = true ∧ (ganged [] none []).sliceOf 0 0 = true ∧
    wantsOf ((ganged [] none []).reserveAll (wantsOf (ganged [] none []))) = [] ∧
    wantsOf ((ganged [] none [tooBig]).reserveAll (wantsOf (ganged [] none [tooBig]))) ≠ [] ∧
    ((ganged [] none [tooBig]).reserveAll (wantsOf (ganged [] none [tooBig]))).rivals 0 1 0 = [] ∧
    (∀ k ∈ ([0, 1].drop 0).take 2, k ∈ (gangEntry [0, 1] none).granted) ∧
    (ganged [0, 1] none []).launchTeams 0 1 Team.isWaiting = [] ∧
    ({ part0 with sites := [0, 1], journal := [gangEntry [] none] } : Partition).works = true ∧ (gangEntry [] (some 0)).backoff = some 0 ∧
    0 ≤ (ganged [] (some 0) []).now ∧ (ganged [] (some 1) []).now < 1 := by decide +kernel
def leaving : Team := { t0 with status := .retiring }
theorem witness_retirement :
    (world leaving []).team? 1 = some leaving ∧ leaving.status = .retiring ∧ (world leaving []).live 0 = true ∧
    (world leaving []).teamOver leaving = true ∧ leaving.handles = [] ∧ leaving.mwr = [] ∧ ((world leaving []).core 0).mx.holder ≠ some 1 ∧
    ({ world leaving [] with ops := [anOp] } : State).teamOver leaving = false := by decide +kernel

/-- Tenant 1 beside tenant 0 in the table; a team of tenant 0 that is asked to leave, by its deadline and after it. -/
def tenants : List (Nat × Nat × Nat) := [(0x1F00400054, 2, 1), (0x1F00400057, 1, 1)]
def leavingAt (t : Team) (now : Nat) : State :=
  { world t [] with sites := [{ key := 0, part := some 0, tswOut := some (0, 5) }], now }
def inHandler : Team := { asksToYield with ctl := { asksToYield.ctl with inHandler := true } }
theorem witness_slice_ends :
    (world t0 tenants).tenantDesc 0 ((BitVec.ofNat 16 1).toNat) ≠ none ∧ ({ s0 with teams := [] } : State).live 0 = true ∧
    ((world t0 tenants).ctlWrite 0 0x1F00600000 0x100000001 false).isSome = true ∧ (0x100000001 : Word).getLsbD 32 = true ∧
    (world t0 tenants).team? 1 = some t0 ∧ t0.place.site = 0 ∧ t0.ctl.home ≠ (0x100000001 : Word).extractLsb' 0 16 ∧
    t0.status = .running ∧ (∀ r ∈ (world t0 tenants).teams, r.id = t0.id → r = t0) ∧
    ((leavingAt asksToYield 6).site 0).tswOut = some (0, 5) ∧ (leavingAt asksToYield 6).live 0 = true ∧
    (leavingAt asksToYield 4).now < 5 ∧ 5 ≤ (leavingAt asksToYield 6).now ∧ (leavingAt asksToYield 6).teams = [asksToYield] ∧
    asksToYield.yieldReq = true ∧ asksToYield.ctl.inHandler = false ∧
    (leavingAt inHandler 3000005).teams.find? (fun t => t.place.site == 0 && t.yieldReq && t.ctl.inHandler && t.resident) =
      some inHandler ∧ 5 + us 1000 ≤ (leavingAt inHandler 3000005).now ∧ (leavingAt inHandler 6).now < 5 + us 1000 := by
  decide +kernel
/-- A team parked at a full launch queue beside one that waits. -/
def launchParked : State := { world (parkedOn (.launchQueue 1)) [] with teams := [parkedOn (.launchQueue 1), waiter] }
theorem witness_thaw_and_resume :
    thawing.team? 2 = some filling ∧ filling.isHalted = true ∧ thawing.coreOpen 0 = true ∧
    thawing.thawOn 0 = some aThaw ∧ aThaw.team ≠ 2 ∧ filling.rowsIn aThaw.rows ≠ [] ∧ filling.scratchIn aThaw.scratch = true ∧
    filling.scratchIn (0, 0) = false ∧ (crowded 300000).thawOn 0 = none ∧ (crowded 300000).team? 2 = some filling ∧
    launchParked.team? 1 = some (parkedOn (.launchQueue 1)) ∧ launchParked.coreOpen 0 = true ∧
    (parkedOn (.launchQueue 1)).ctl.inHandler = false ∧ waiter ∈ launchParked.waitingAt 0 0 ∧
    launchParked.sliceOf 0 waiter.ctl.home = true ∧ (besides t0 out2 []).inTheWay 0 out2 [] out2.scratchRun [] = [] ∧ (besides t0 out2 []).team? 2 = some out2 ∧ out2.status = .halted true none 0 ∧
    (besides t0 out2 []).sliceOf 0 out2.ctl.home = true ∧ (besides t0 out2 []).coreOpen 0 = true ∧
    (besides t0 out2 []).resumeRoom out2 = true ∧ out2.place.thawed = [] ∧ out2.place.scratchThawed = false ∧
    (besides t0 out2 []).slotRecord out2 = some 0x104000 := by decide +kernel

theorem witness_control_registers :
    s0.live 0 = true ∧ (0x100 : Word).extractLsb' 0 8 = 0 ∧ (1 : Word).extractLsb' 0 8 ≠ 0 ∧ 63 < 64 ∧
    (0x800 : Word).extractLsb' 0 11 = 0 ∧ (0x400 : Word).extractLsb' 0 11 ≠ 0 ∧ hostPort 0 = true ∧
    (0x10000400 : Word).extractLsb' 32 32 = 0 ∧ (0x10000400 : Word).getLsbD 25 = false ∧ (s0.hq 0 15).on = false ∧
    (0x10000400 : Word).getLsbD 31 = false ∧ ((hosting (aQueue 1 none) []).hq 0 0).on = true ∧
    ((hosting (aQueue 1 none) []).hq 0 0).head ≠ ((hosting (aQueue 1 none) []).hq 0 0).tail ∧ 0xFF8 % 8 = 0 ∧ 0xFF8 + 8 ≤ 0x1000 ∧
    (∀ t ∈ s0.teams, t.yieldReq = false) ∧ ctlPlace 0 0 ≠ .register ∧
    (∀ k, k < 4 → (0x01FF01FF01FF01FF : Word).extractLsb' (16 * k + 9) 7 = 0) := by decide +kernel
/-- Power off, in reset, and a site outside every partition. -/
def managed (m : Mgmt) : State := { State.reset with sites := [{ key := 0, mgmt := m }] }
theorem witness_resets :
    (State.reset.site 0).mgmt.powered = true ∧ (State.reset.site 0).mgmt.inReset = false ∧ (State.reset.site 0).part = none ∧
    (∀ t ∈ State.reset.teams, t.place.site ≠ 0) ∧ (State.reset.site 0).bins = [] ∧ (State.reset.site 0).waits = [] ∧ Mem.wf State.reset.mem = true ∧
    ((managed { inReset := true }).site 0).mgmt.inReset = true ∧ ((managed { powered := false }).site 0).mgmt.powered = false ∧
    (∃ k ∈ devSites (0 / 64), (State.reset.site k).mgmt.inReset = false) ∧ State.reset.teams = [] ∧
    (∀ y ∈ State.reset.sites, y.waits = []) ∧ 0 < Config.maxDevices ∧ Config.maxDevices ≤ 2097152 := by decide +kernel
theorem witness_management :
    State.reset.reinst = [] ∧ State.reset.startTime 7 0 = some 0 ∧ 0 < Config.maxDevices ∧ 7 < 2 ^ 32 ∧
    (∀ p ∈ State.reset.parts, p.dev = 0 → p.domain ≠ 7) ∧ State.reset.mayJoin (0 * 64 + 63) = true ∧ 4096 % 4096 = 0 ∧
    s0.part? 0 = some part0 ∧ (List.replicate 256 (0 : Byte)).length = 256 ∧ hostPort 0 = true ∧
    ((managed { doorbell := 1 }).site 0).mgmt.doorbell = 1 ∧ ((managed { doorbell := 1 }).site 0).mgmt.boot = 1 ∧
    (∀ k ∈ devSites (0 / 64), ((managed { doorbell := 1 }).site k).mgmt.updating = false) ∧
    (List.replicate 32 (0 : Byte)).length = 32 ∧ s0.live 0 = true ∧ Mem.wf s0.mem = true ∧
    0x07FFFFFFF8 + 8 ≤ 0x0800000000 := by decide +kernel
theorem witness_management_listeners : ∀ k, NoListeners s0 k := noListeners_of (by decide +kernel) (by decide +kernel)

/-! ### More forms and clauses of the obligations -/

theorem witness_no_active_lane_shapes :
    ∀ sh ∈ [({ op := 0x01, sel := .guard (.when 6) } : Shape), { shapeDAB 0x56 (.when 6) .drift (.q 0) (.k 1) with pushes := 2 },
        shapeCmp 0x35 (.when 6) (.q 0) (.k 31), { shapeP 0x3B (.when 6) with dst := some .drift }],
      s0.curTeam? = some t0 ∧ sh.active t0 = 0 ∧ sh.wf = true ∧ sh.priv ≤ t0.ctl.priv ∧ t0.pend = [] ∧
      sh.boundOk t0 = true ∧ sh.emptyOk t0 = true ∧ sh.fullOk t0 = true := by decide +kernel
theorem witness_no_active_lane_checks :
    let no : LaneSel := .guard (.when 6)
    let bound : Shape := { op := 0xB0, sel := no, blk := some (31, 2) }
    let few : Shape := { op := 0x10, sel := no, srcs := [.q 0, .q 0] }
    let full : Shape := { op := 0x10, sel := no, dst := some (.q 7) }
    (∀ sh ∈ [bound, few, full], sh.active t0 = 0 ∧ sh.wf = true ∧ sh.priv ≤ t0.ctl.priv) ∧ bound.boundOk t0 = false ∧
    few.boundOk t0 = true ∧ few.emptyOk t0 = false ∧ full.boundOk t0 = true ∧ full.emptyOk t0 = true ∧ full.fullOk t0 = false ∧
    ({ op := 0x87, sel := no, wf := false } : Shape).active t0 = 0 ∧
    ({ op := 0xFC, sel := no, priv := 2 } : Shape).active user = 0 ∧ (world user []).curTeam? = some user ∧ user.ctl.priv < 2 := by
  decide +kernel
theorem witness_no_lane_illegal : (world idleTeam []).curTeam? = some idleTeam ∧ idleTeam.enabled = 0 ∧ idleTeam.pend = [] := by
  decide +kernel
theorem witness_no_lane_illegal_word : decode 0xEAF00000 = .error .opcode := rfl

theorem witness_values_of_fields :
    (∀ n ∈ [64, 32], n - 1 < n ∧ n ≤ 64) ∧ ((0x0807 : Word).extractLsb' 0 6).toNat = 7 ∧
    min ((0x0807 : Word).extractLsb' 8 7).toNat 64 = 8 ∧ min ((0x7F3F : Word).extractLsb' 8 7).toNat 64 = 64 := by decide +kernel
theorem witness_hints_of_fields :
    t0.ctl.hint.imm = none ∧ t0.ctl.hint.immh = none ∧ halfHinted.ctl.hint.imm = some 1 ∧ halfHinted.ctl.hint.immh = none ∧
    hinted.ctl.hint.imm = some 0xFFFFFF ∧ hinted.ctl.hint.immh = some 1 := by decide +kernel
theorem witness_float_values :
    f32 0x7FC00000 = .nan ∧ f32 0x3F800000 ≠ .nan ∧ f32 0xFF800000 ≠ .nan ∧ orderKey 0x80000001 < orderKey 0 := by decide +kernel
theorem witness_twosum : Finite32 0x3F800000 ∧ Finite32 0xB0800000 ∧ Finite32 (twosumLane 0x3F800000 0xB0800000).1 := by
  unfold Finite32; decide +kernel
theorem witness_long_first_pass : asked.pend = [] := by decide

theorem witness_loads_off_matrix_lines : ∀ y ∈ [x0], sl.mxOver tl y.phys 16 = false := by decide +kernel
theorem witness_replay_acts :
    theCopy.nextAct newSeg = .read 0 0 8 ∧ readCopy.nextAct readSeg = .write 0 0 8 ∧
    readCopy.beginSeg readSeg.lo = some readSeg := by decide +kernel
theorem witness_arm_control :
    issuesB (sarm (tarm 0 0x1F00100000 1)) { op := 0xB7, sel := .guard .always, blk := some (0, 5) } (tarm 0 0x1F00100000 1) = true ∧
    region (gOfs 0x1F00100000) = .control ∧ 0x1F00100000 % 16 = 0 ∧ gDev 0x1F00100000 = 0 ∧ gSite 0x1F00100000 = 0 ∧
    region (gOfs 0x4010) ≠ .control ∧ region (gOfs 0x4008) ≠ .control := by decide +kernel

/-- A store to place that follows reads of a queued instruction, both on release-consistent pages; and a deferred trap. -/
def tHeld : Team := { tPuts with seq := 1 }
def sHeld : State := withUnit tHeld { mx0 with queue := [{ ent 0xC6 0x5000 0 with keep := true }] }
def tOwed : Team :=
  { tm with deferred := [{ w := .matrix (some 7), cls := 4, code := 3, op := 0xC6, lane := 0, addr := 0x2000, pidx := 1, aux := 0 }] }
def sOwed : State := withUnit tOwed { mx0 with queue := [ent 0xC4 0 0] }
theorem witness_matrix_places_wait :
    ((sHeld.core tHeld.coreKey).mx.waitedFor (some 0) = [] ∧
      tHeld.mwr.any (fun w => (w.tile == 0) && sHeld.mxAhead tHeld w.kind) = true) ∧
    Issues sHeld { op := 0xC9, sel := .guard .always, wf := wfMwait 0 false } tHeld ∧
    (∀ w ∈ tPuts.mwr, sPuts.mxAhead tPuts w.kind = false) ∧ sm.matrixAll tm = [] := by
  simp only [← issues_iff]; decide +kernel
theorem witness_deferred_at_mwait :
    Issues sOwed { op := 0xC9, sel := .guard .always, wf := wfMwait 7 false } tOwed ∧ tOwed.tx.live = false ∧
    tOwed.deferred.map (fun d => d.w) = [.matrix (some 7)] ∧ (sOwed.core 0).mx.queue = ent 0xC4 0 0 :: [] ∧
    (sOwed.core 0).mx.holder = some tOwed.id ∧ sOwed.team? tOwed.id = some tOwed ∧ tOwed.coreKey = 0 ∧
    (ent 0xC4 0 0).stuck = false ∧ (ent 0xC4 0 0).again = false ∧ sOwed.live (coreSite 0) = true := by
  simp only [← issues_iff]; decide +kernel

theorem witness_no_fetched_lines : ∀ u ∈ (sb 65535 2 0).teams, u.fetched = [] := by decide
/-- The lower cell is full of 7; the team waits at the higher one, or nobody does. -/
def unequal (ws : List WaitList) : State := { sp fullWord 0 7 0 with sites := [{ key := 0, part := some 0, waits := ws }] }
def joinWaiter : Team := { tp with id := 2, status := .parked (.cell 0 0x4010) 0 }
def joined : State :=
  { unequal [{ root := 0x4010, head := 5, who := [.team 2] }] with teams := [tp, joinWaiter] }
theorem witness_peq_unequal :
    let sh : Shape := { op := 0xD8, sel := .guard .always, srcs := [.k 0, .k 1] }
    issuesB (unequal []) sh tp = true ∧ (unequal []).waitList? 0x4010 = none ∧
    (unequal []).findRoot tp.party .write false 0x4000 = (unequal [], .root 0x4000 0x4000 true) ∧
    (unequal []).findRoot tp.party .write false 0x4010 = (unequal [], .root 0x4010 0x4010 false) ∧
    ((unequal []).equate (0x4000, 0x4000, true) (0x4010, 0x4010, false)).isSome = true ∧
    (sp 0 fullWord 0 7).findRoot tp.party .write false 0x4010 = (sp 0 fullWord 0 7, .root 0x4010 0x4010 true) ∧
    (∀ t ∈ joined.teams, t.tx.live = false ∧ t.fetched = []) ∧ joined.teams.map Team.parkedIn = [none, some (.cell 0 0x4010, 0)] ∧
    (joined.waitList? 0x4010).map (fun w => w.who) = some [.team joinWaiter.id] ∧ joined.team? 2 = some joinWaiter ∧
    joinWaiter.status = .parked (.cell 0 0x4010) 0 := by decide +kernel
theorem witness_yield_before_the_deadline :
    issuesB { atDeadline with now := 4 } { op := 0xDD, sel := .guard .always } asksToYield = true ∧ 4 < 5 ∧
    (({ atDeadline with now := 4 } : State).site 0).tswOut = some (0, 5) ∧
    ({ atDeadline with now := 4 } : State).live asksToYield.place.site = true ∧ asksToYield.status = .running := by decide +kernel

theorem witness_nothing_unsent : tr.unsent = [] ∧ tx.unsent = [] := by decide
/-- Two lanes' words to two sites. -/
def twoSites : List RemReq :=
  [{ lane := 0, dest := 0x6000, opnd := 1, len := 8, aligns := [] }, { lane := 1, dest := 2 ^ 37 + 0x6000, opnd := 2, len := 8, aligns := [] }]
theorem witness_xput_packets :
    (packetsOf (fun r => (r.lane, r.dest, r.opnd, r.ctr.getD 0)) twoSites []).map (fun x => (x.1.lane, x.2.length)) =
      [(0, 1), (1, 1)] ∧ (sr tx 0).remCore tx.coreKey + 1 ≤ 512 ∧ (sr tx 0).remSite (coreSite tx.coreKey) + 1 ≤ 16384 := by
  decide +kernel
/-- An `rred` of one 64-bit element on its way, and a put of a tenant without a descriptor. -/
def anRred : RemOp := { opIn .sent 0xE3 with fn := 0 }
def badPut : RemOp := { opIn .sent 0xE0 with tenant := 1 }
theorem witness_packet_rred :
    (sOp anRred).op? 5 = some anRred ∧ anRred.op = 0xE3 ∧ anRred.fn / 16 % 2 = 0 ∧ anRred.len = 8 ∧ anRred.data.length = 8 ∧
    (sOp anRred).mayCross anRred.way anRred.site anRred.dsite none anRred.relayed = true ∧ (∀ p ∈ (sOp anRred).ops, p.carried = []) ∧
    ((sOp anRred).runsAt anRred.away .write [(anRred.dest, 8)]).toOption = some [[(0x4000, 8, [])]] ∧
    (sOp (opIn .sent 0xE0)).mayCross {} 0 0 none false = true := by decide +kernel
def badAddr : Except RunX (List (List (Nat × Nat × List Nat))) → Option Word
  | .error (.bad a) => some a
  | _ => none
theorem witness_packet_refused :
    (sOp badPut).op? 5 = some badPut ∧ (sOp badPut).orderWaits badPut = false ∧ (sOp badPut).team? badPut.team = some tl ∧
    (badAddr ((sOp badPut).runsAt badPut.away .write [(badPut.dest, badPut.len)])).isSome = true := by decide +kernel
/-- A packet to device 1, and its reply, in no relay buffer. -/
def crossing (p : RemPhase) : RemOp := { opIn p 0xE0 with dsite := 64 }
theorem witness_relay_none :
    (sOp (crossing .sent)).op? 5 = some (crossing .sent) ∧ (crossing .sent).relay = none ∧ (crossing .sent).relayed = false ∧
    (crossing .sent).site / 64 ≠ (crossing .sent).dsite / 64 ∧ (sOp (crossing .applied)).op? 5 = some (crossing .applied) ∧
    (crossing .applied).phase = .applied ∧ (crossing .applied).relay = none ∧ (crossing .applied).relayed = false := by decide +kernel
theorem witness_completes_live :
    let o := opIn .applied 0xE1
    (sOp o).live o.dsite = true ∧ ((sOp o).site o.dsite).inc = o.inc ∧ (sOp o).mayCross o.way o.dsite o.site o.relay o.relayed = true ∧
    o.carried = [] := by decide +kernel
theorem witness_rotor :
    (s0.site 0).rotorAt + us 3 ≤ ({ s0 with now := us 3 } : State).now ∧ s0.now < (s0.site 0).rotorAt + us 3 ∧ withPdc.xpkts = [] := by
  decide +kernel
theorem witness_reduction_words :
    let w : Word := BitVec.ofNat 64 (([1, 2] : List Word).length * 2 ^ 32 + 2 * 16 + 3)
    ([1, 2] : List Word).length < 2 ^ 20 ∧ ([3, 4] : List Word).length = ([1, 2] : List Word).length ∧ w = 0x0000000200000023 := by
  decide +kernel
theorem witness_reduction_crosses :
    (travelling (aPacket 0 0 1)).mayCross (aPacket 0 0 1).way 0 0 (aPacket 0 0 1).relay (aPacket 0 0 1).relayed = true ∧
    (aPacket 0 0 1).src = (aPacket 0 0 1).dst := by decide +kernel

/-- k0 names site 0 by a name that the cache holds and an operation in flight used. -/
def tname : Team := team1 [0x6000]
def named : State :=
  { world tname nameWords with
    ops := [opIn .sent 0xE0],
    sites := [{ key := 0, part := some 0, names := [{ tenant := 0, ldev := 0, lsite := 0, site := 0, inc := 0 }] }] }
theorem witness_name_in_use :
    Issues named { op := 0xFA, sel := .guard .always, srcs := [.k 0], priv := 1 } tname ∧ tname.status = .running ∧ Quiet named tname ∧
    named.sentThrough 0 ((named.site 0).names.filter (fun e => e.tenant == 0 && e.ldev == gDev 0x6000 && e.lsite == gSite 0x6000)) =
      [5] ∧ (named.site 0).fbuf = [] ∧ (∀ u ∈ named.teams, u.pend = [] ∧ u.mwr = []) ∧ (∀ c ∈ named.cores, c.wbuf = []) := by
  simp only [Quiet, ← issues_iff]; decide +kernel
theorem witness_freeze_party :
    (ctxOf frzShape (tfz 550 0x4000)).asHome.t.party = (tfz 550 0x4000).party ∧
    (∀ k ∈ [0, 1], ((recovering true).site k).heldNotes = [] ∧ ((recovering false).site k).heldNotes = []) := by decide +kernel
theorem witness_detail_words :
    detailOk (BitVec.ofNat 96 (2 ^ 91)) = true ∧ detailOk (BitVec.ofNat 96 (6 * 2 ^ 91 + 4 * 2 ^ 88)) = true ∧
    detailOk (BitVec.ofNat 96 (6 * 2 ^ 91 + 5 * 2 ^ 88)) = false ∧ detailOk (BitVec.ofNat 96 (2 ^ 91 + 1)) = false ∧
    detailOk 0 = false ∧ (BitVec.ofNat 96 (6 * 2 ^ 91 + 5 * 2 ^ 88)) ≠ 0 ∧ 255 < 256 ∧ 517 ≤ 517 ∧ 532 ≤ 532 := by decide +kernel
theorem witness_recovery_more :
    (part0.replicas.zipIdx.filter (fun r => !([0] : List Nat).contains r.2)).map (fun r => r.1) = [0] ∧
    (part0.replicas.zipIdx.filter (fun r => !([0, 1] : List Nat).contains r.2)).map (fun r => r.1) = [] ∧ ([1] : List Nat) ≠ [] ∧
    downSite.heldNotes = [] ∧ downSite.mgmt.log.length < 4096 ∧ dramGood (oneReplica.site 1) = true ∧
    ([0, 1].filter (fun y => (oneReplica.site y).part == some 0)).length = 2 ∧
    (([0] : List Nat).filter (fun y => (s0.site y).part == some 0)).length ≤ 1 ∧ (s0.site 0).mgmt.powered = true := by decide +kernel
/-- A site whose second DRAM unit, by the spec's numbers, is fenced. -/
def worn : Site := { key := 1, fencedParts := [2 * 2 ^ 28] }
theorem witness_notify_held :
    dramGood worn = false ∧
    ((recovering true).site 0).frozen = true ∧ ((recovering true).site 0).mgmt.inReset = false ∧
    ((recovering true).site 0).mgmt.powered = true ∧ ((managed { inReset := true }).site 0).mgmt.inReset = true ∧
    ((managed { inReset := true }).site 0).mgmt.powered = true := by decide +kernel
theorem witness_no_stuck_rows :
    launchParked.stuckRows { parkedOn (.launchQueue 1) with status := .halted true none 0 } = [] := by decide +kernel
/-- Host queue 0 of site 1 is on, in the partition of site 0. -/
def elsewhere (n : Nat) : State :=
  { s0 with sites := [{ key := 0, part := some 0 }, { key := 1, part := some n, hq := aQueue 0 none :: List.replicate 15 {} }] }
theorem witness_queue_elsewhere :
    (0x90000400 : Word).getLsbD 31 = true ∧ (0x90000400 : Word).extractLsb' 32 32 = 0 ∧ (0x90000400 : Word).getLsbD 25 = false ∧
    (∀ y ∈ (elsewhere 1).sites, y.key ≠ 0 → y.part ≠ some 0) ∧ ((elsewhere 0).site 0).part = some 0 ∧
    (∃ y ∈ (elsewhere 0).sites, y.key ≠ 0 ∧ y.part = some 0 ∧ (y.hq.getD 0 {}).on = true) := by decide +kernel
theorem witness_device_reset_sites :
    (∃ k ∈ devSites (0 / 64), (State.reset.site k).mgmt.powered = true ∧ (State.reset.site k).mgmt.inReset = false) ∧
    ((managed { inReset := true }).site 0).mgmt.imageWhole = true := by decide +kernel
theorem witness_management_more :
    ((List.range 64).filter (fun i => [1, 0].contains i)).map (fun i => 0 * 64 + i) = [0, 1] ∧
    (∀ k ∈ [0, 1], State.reset.mayJoin k = true) ∧ 2048 ≤ 2048 ∧ 0 % 4096 = 0 ∧
    (State.reset.site 0).mgmt.powered = true ∧ (State.reset.site 0).mgmt.inReset = false ∧ 0x1000 ≤ 0x1000 ∧
    ((managed { report := List.replicate 512 1 }).site 0).mgmt.report.length = 512 := by decide +kernel

/-- A service that is over wakes its team, and no fault waits for the place that it frees. -/
theorem test_place_freed :
    let s := (serving pageWaiter [faulted true] [aWait]).endService 0 0 (fun p => p == 7)
    s.team? 1 = some { pageWaiter with status := .running, wake := none, lastIssue := 0 } ∧ (s.site 0).fbWaits = [] := by
  decide +kernel

/-! ### Clauses of the last widening -/

/-- The float and block values that the conversions ask for: a NaN, an infinity, a finite number; a block of zeros and one of 1. -/
theorem witness_conversion_values :
    f32 0x7FC00000 = .nan ∧ f32 0xFF800000 = .inf true ∧ f32 0x40000000 = .fin false 0x800000 (-22) ∧
    -(2 ^ 24) ≤ (-1 : Int) ∧ (0 : Int) ≤ 2 ^ 24 ∧ [f32 1, f32hi 1, f32 2, f32hi 2][3]? = some (f32 0) ∧
    [f32 0x7FC00000, f32hi 1, f32 2, f32hi 2][0]? = some .nan ∧
    (∀ i ∈ [0, 1, 2, 3], FV.decode b16 ((0x3C003C003C003C00 : Word).extractLsb' (16 * i) 16).toNat ≠ .nan) ∧
    FV.decode b16 ((0x7E007E00 : Word).extractLsb' 16 16).toNat = .nan ∧
    FV.decode Machine.bf16 ((0x7FC0000000000000 : Word).extractLsb' (32 + 16 * 1) 16).toNat = .nan ∧
    FV.nan ∈ [f32 0x7FC00000] ∧ FV.nan ∉ [f32 0] ∧ (f32 0).isZero = true ∧ FV.nan ∉ [f32 0x3F800000] ∧
    f32 0x3F800000 = .fin false 0x800000 (-23) ∧ expOf 0x800000 (-23) = 0 := by decide +kernel

/-- The team of two passes with its first pass written, asked again or no longer. -/
def longOf (op n : Nat) (run : Word) : LongOp :=
  { op, staged := List.replicate n 2, src := List.replicate n 1, run, passes := 1 }
def midShuffle (again : Bool) : Team :=
  { asked with yieldReq := again, long := some (longOf 0x71 64 0) }
def midScan : Team := { midShuffle false with long := some (longOf 0x74 64 32) }
def threePasses : Team := { team 96 [] with yieldReq := true, long := some (longOf 0x71 96 0) }
theorem witness_later_passes :
    Issues (world (midShuffle true) []) (shapeDAB 0x71 .always .drift (.k 0) (.k 1)) (midShuffle true) ∧
    (midShuffle true).pend = [] ∧ 1 < (midShuffle true).passes ∧ (midShuffle true).passes = 1 + 1 ∧
    Issues (world midScan []) (shapeDA 0x74 .always .drift (.k 0)) midScan ∧ midScan.yieldReq = false ∧
    Issues (world threePasses []) (shapeDAB 0x71 .always .drift (.k 0) (.k 1)) threePasses ∧ threePasses.yieldReq = true ∧
    1 + 1 < threePasses.passes := by simp only [← issues_iff]; decide +kernel
theorem witness_lane_places :
    let c := ctxOf (shapeDAB 0x70 .always .drift (.k 0) (.k 1)) demo
    c.lanes ≠ [] ∧ 7 < c.t.nlane ∧ 7 % 32 = 7 ∧ (lane (c.val 1) 7).toNat % 32 ≤ 7 ∧ bcastLane .lo c = 0 ∧ Mask.has c.act 0 = true := by
  decide +kernel
/-- The tree's values of no lane at all are absent at every level. -/
theorem witness_tree : ∃ v : Nat → Nat → Option Word, (∀ l, l < 1024 → v 0 l = if Mask.has (0 : Mask) l then some 0 else none) ∧
    ∀ h i, v (h + 1) i = match v h (2 * i), v h (2 * i + 1) with
      | none, y => y
      | some x, none => some x
      | some x, some y => some (x + y) :=
  ⟨fun _ _ => none, fun l _ => by simp [Mask.has], fun _ _ => rfl⟩
/-- A pending imm under `if`, `loop`, `else` and `endloop`. -/
def immIf : Team := { inIf with ctl := { inIf.ctl with hint := { imm := some 1 } } }
def immLoop : Team := { inLoop with ctl := { inLoop.ctl with hint := { imm := some 0xFFFFFF } } }
theorem witness_structure_under_imm :
    (world immIf []).curTeam? = some immIf ∧ hintOk true false .none immIf.ctl.hint = true ∧ immIf.enabled ≠ 0 ∧
    (world immLoop []).curTeam? = some immLoop ∧ hintOk true false .none immLoop.ctl.hint = true ∧
    branchTarget immLoop 0xFFFFF = immLoop.ctl.pc - 4 := by decide +kernel

/-! Control windows, and loads, stores and atomics in a transaction -/

/-- The team inside a transaction, holding n lines; k0 names mapped memory or, at the level of the monitor, RSELCFG. -/
def txLines (n : Nat) : List TxLine := (List.range n).map (fun i => { line := 0x1000 + i, write := false, undo := [] })
def tlTx (n : Nat) : Team :=
  { tl with hdr := { tl.hdr with usesTx := true }, tx := { live := true, held := true, depth := 1, ts := 5, handler := 0x1800, lines := txLines n } }
def slTx (n : Nat) : State := world (tlTx n) [(0x4000, 8, 7)]
/-- An older writer of the line of 0x4000. -/
def older : Team := { rival 4 with hdr := txTeam.hdr }
def beside (t : Team) : State := { slTx 0 with teams := [t, older] }
def tCtl : Team := team1 [0x1F00100000, 0x100]
def sCtl : State := world tCtl []
def xCtl : LaneX :=
  { lane := 0, vaddr := 0x1F00100000, phys := 0x1F00100000, kind := .strong, repl := [], ctl := true, leaf := none }
theorem witness_load_quiet : Quiet (slTx 0) (tlTx 0) ∧ Quiet (slTx 256) (tlTx 256) ∧ Quiet (beside (tlTx 0)) (tlTx 0) ∧
    Quiet sCtl tCtl := by simp only [Quiet]; decide +kernel
theorem witness_loads_in_transaction :
    ∃ x ∈ loadForms (tlTx 0) .always (.k 1) (.d 0) (.k 0) 0 0, Issues (slTx 0) x.sh (tlTx 0) ∧ (tlTx 0).mwr = [] ∧
      (slTx 0).checkLanes (tlTx 0) { size := x.size, write := false, plain := true, cross := false } x.addrs = .ok [x0] ∧
      (slTx 0).mxAhead (tlTx 0) (kindUnder (x.ord == .strong) .rc) = false ∧ (slTx 0).mxOver (tlTx 0) 0x4000 x.size = false ∧
      (tlTx 0).tx.live = true ∧ (slTx 0).txHolders 1 (0x4000 / 64) = [] ∧ (tlTx 0).tx.lines.length + 1 ≤ 256 ∧
      Issues (beside (tlTx 0)) x.sh (tlTx 0) ∧ (beside (tlTx 0)).txHolders 1 (0x4000 / 64) = [older] ∧
      (∃ l ∈ older.tx.lines, l.line = 0x4000 / 64 ∧ l.write = true) ∧ tsOlder older.tx.ts (tlTx 0).tx.ts = true ∧
      (beside (tlTx 0)).checkLanes (tlTx 0) { size := x.size, write := false, plain := true, cross := false } x.addrs = .ok [x0] := by
  refine ⟨_, List.mem_of_getElem? (i := 6) rfl, ?_⟩
  simp only [← issues_iff]; decide +kernel
theorem witness_loads_past_the_lines :
    ∃ x ∈ loadForms (tlTx 256) .always (.k 1) (.d 0) (.k 0) 0 0, Issues (slTx 256) x.sh (tlTx 256) ∧
      (slTx 256).checkLanes (tlTx 256) { size := x.size, write := false, plain := true, cross := false } x.addrs = .ok [x0] ∧
      (slTx 256).txHolders 1 (0x4000 / 64) = [] ∧ 256 ≤ (tlTx 256).tx.lines.length ∧
      ∀ l ∈ (tlTx 256).tx.lines, l.line ≠ 0x4000 / 64 := by
  refine ⟨_, List.mem_of_getElem? (i := 6) rfl, ?_⟩
  simp only [← issues_iff]; decide +kernel
theorem witness_loads_of_control :
    ∃ x ∈ loadForms tCtl .always (.k 1) (.d 0) (.k 0) 0 0, Issues sCtl x.sh tCtl ∧ tCtl.mwr = [] ∧
      sCtl.checkLanes tCtl { size := x.size, write := false, plain := true, cross := false } x.addrs = .ok [xCtl] ∧
      sCtl.mxAhead tCtl (kindUnder (x.ord == .strong) .strong) = false ∧ sCtl.mxOver tCtl 0x1F00100000 x.size = false ∧
      (∀ u ∈ sCtl.teams, u.tx.live = false) := by
  refine ⟨_, List.mem_of_getElem? (i := 6) rfl, ?_⟩
  simp only [← issues_iff]; decide +kernel
/-- The load's access with its value, for one lane, for a `ldu`, and for a `ldp`. -/
def gotLoad (u : Bool) (e : Dst) (n : Nat) : Pend :=
  { theLoad with op := .load n false, uniform := u, dst := some e, lanes := theLoad.lanes.map (fun a => { a with got := some (7, 8) }) }
theorem witness_deliver :
    ∀ p ∈ [gotLoad false (.k 1) 8, gotLoad true (.s 0) 8, gotLoad false (.k 30) 16, gotLoad false .drift 8],
      (p.lanes.map (fun b => b.lane)).Nodup ∧ 0 < loader.nlane ∧ Mask.has p.act 0 = true ∧
      (p.lanes.map (fun a => (a.lane, a.got))) = [(0, some (7, 8))] ∧ p.age < 16 ∧ Mask.first p.act loader.nlane = 0 := by decide +kernel
/-- A `ldu`'s queue entry stands last in its queue. -/
theorem witness_deliver_queue : (t0.queue 0).items = [] ++ [[9]] ∧ t0.nlane = 1 := by decide +kernel

/-- Stores in a transaction: as the loads, and to the page that both sites of a state hold replicas of. -/
theorem witness_stores_in_transaction :
    ∃ x ∈ storeForms (tlTx 0) .always (.k 1) (.d 0) (.k 0) 0 0, Issues (slTx 0) x.sh (tlTx 0) ∧ x.ord = .plain ∧
      (slTx 0).mxAhead (tlTx 0) (kindUnder (x.ord == .strong) .rc) = false ∧
      (slTx 0).checkLanes (tlTx 0) { size := x.size, write := true, plain := true, cross := true } x.addrs = .ok [x0] ∧
      (∀ v ∈ (slTx 0).teams, v.id ≠ 1 → v.fetched = []) ∧ ((tlTx 0).tx.lines.map (fun l => l.line)).Nodup ∧ Mem.wf (slTx 0).mem = true ∧
      (slTx 0).txHolders 1 (0x4000 / 64) = [] ∧ 0x4000 % 64 + x.size ≤ 64 ∧ (tlTx 0).tx.lines.length + 1 ≤ 256 ∧
      Issues (beside (tlTx 0)) x.sh (tlTx 0) ∧ (beside (tlTx 0)).txHolders 1 (0x4000 / 64) = [older] ∧
      (∀ v ∈ (beside (tlTx 0)).teams, v.id ≠ 1 → v.fetched = []) ∧
      (beside (tlTx 0)).checkLanes (tlTx 0) { size := x.size, write := true, plain := true, cross := true } x.addrs = .ok [x0] := by
  refine ⟨_, List.mem_of_getElem? (i := 3) rfl, ?_⟩
  simp only [← issues_iff]; decide +kernel
theorem witness_stores_past_the_lines :
    ∃ x ∈ storeForms (tlTx 256) .always (.k 1) (.d 0) (.k 0) 0 0, Issues (slTx 256) x.sh (tlTx 256) ∧
      (slTx 256).checkLanes (tlTx 256) { size := x.size, write := true, plain := true, cross := true } x.addrs = .ok [x0] ∧
      (slTx 256).txHolders 1 (0x4000 / 64) = [] ∧ 256 ≤ (tlTx 256).tx.lines.length ∧ ((tlTx 256).tx.lines.map (fun l => l.line)).Nodup ∧
      ∀ l ∈ (tlTx 256).tx.lines, l.line ≠ 0x4000 / 64 := by
  refine ⟨_, List.mem_of_getElem? (i := 3) rfl, ?_⟩
  simp only [← issues_iff]; decide +kernel
/-- Tenant 0's first page is replicated on logical sites 0 and 1; two sites of one partition. -/
def replWords : List (Nat × Nat × Nat) := nameWords ++ [(7, 1, 0x7F), (8, 8, 3), (0x10010, 8, 2 ^ 63 + 2 ^ 36), (0x4000, 8, 7),
  (2 ^ 37 + 7, 1, 0x7F), (2 ^ 37 + 8, 8, 3), (2 ^ 37 + 0x1F00400017, 1, 1)]
def twins (t : Team) : State :=
  { world t replWords with
    parts := [{ part0 with sites := [0, 1] }], sites := [{ key := 0, part := some 0 }, { key := 1, part := some 0, lsite := 1 }] }
def replicated : Chk → Bool
  | .ok xs => xs.any (fun x => !x.repl.isEmpty)
  | _ => false
theorem witness_replicas_in_transaction :
    ∃ x ∈ storeForms (tlTx 0) .always (.k 1) (.d 0) (.k 0) 0 0, Issues (twins (tlTx 0)) x.sh (tlTx 0) ∧
      (twins (tlTx 0)).mxAhead (tlTx 0) .rc = false ∧
      replicated ((twins (tlTx 0)).checkLanes (tlTx 0) { size := x.size, write := true, plain := true, cross := true } x.addrs) =
        true := by
  refine ⟨_, List.mem_of_getElem? (i := 3) rfl, ?_⟩
  simp only [← issues_iff]; decide +kernel
theorem witness_replicas_quiet : Quiet (twins (tlTx 0)) (tlTx 0) := by simp only [Quiet]; decide +kernel

/-- Two lanes' stores to control windows: to RSELCFG, one that it takes or refuses; to two descriptors, each legal beside the table
as it stands, not both together. -/
def tCtl2 (a b v w : Word) : Team := team 2 [[a, b], [v, w]]
def sCtl2 (a b v w : Word) : State := world (tCtl2 a b v w) [(0x1F00400010, 4, 1)]
def half : Word := 0x0128000100000001
def ctlItems (a b v w : Word) : List (LaneX × List Byte) :=
  [({ xCtl with vaddr := a, phys := a.toNat }, leBytes 8 v.toNat), ({ xCtl with lane := 1, vaddr := b, phys := b.toNat }, leBytes 8 w.toNat)]
def ctlOk : Except LaneX State → Bool
  | .ok _ => true
  | .error _ => false
theorem witness_stores_of_control :
    ∃ x ∈ storeForms (tCtl2 0x1F00100000 0x1F00300000 0x100 1) .always (.k 1) (.d 0) (.k 0) 0 0,
      Issues (sCtl2 0x1F00100000 0x1F00300000 0x100 1) x.sh (tCtl2 0x1F00100000 0x1F00300000 0x100 1) ∧
      (sCtl2 0x1F00100000 0x1F00300000 0x100 1).checkLanes (tCtl2 0x1F00100000 0x1F00300000 0x100 1)
        { size := x.size, write := true, plain := true, cross := true } x.addrs =
        .ok ((ctlItems 0x1F00100000 0x1F00300000 0x100 1).map (fun i => i.1)) ∧
      (ctlItems 0x1F00100000 0x1F00300000 0x100 1) = ((ctlItems 0x1F00100000 0x1F00300000 0x100 1).map (fun i => i.1)).map
        (fun y => (y, x.data y.lane)) := by
  refine ⟨_, List.mem_of_getElem? (i := 3) rfl, ?_⟩
  simp only [← issues_iff]; decide +kernel
theorem witness_control_stores_answer :
    let ok := (sCtl2 0x1F00100000 0x1F00300000 0x100 1).ctlStore (tCtl2 0x1F00100000 0x1F00300000 0x100 1)
    let no := (sCtl2 0x1F00100000 0x1F00300000 1 1).ctlStore (tCtl2 0x1F00100000 0x1F00300000 1 1)
    let two := (sCtl2 0x1F00400050 0x1F00400090 half (half + 2 ^ 32)).ctlStore (tCtl2 0x1F00400050 0x1F00400090 half (half + 2 ^ 32))
    ctlOk (ok (ctlItems 0x1F00100000 0x1F00300000 0x100 1)) = true ∧
    (ctlItems 0x1F00100000 0x1F00300000 0x100 1).filter (fun i => !ctlOk (ok [i])) = [] ∧
    ((ctlItems 0x1F00100000 0x1F00300000 1 1).filter (fun i => !ctlOk (no [i]))).map (fun i => i.1.lane) = [0] ∧
    (ctlItems 0x1F00400050 0x1F00400090 half (half + 2 ^ 32)).filter (fun i => !ctlOk (two [i])) = [] ∧
    ctlOk (two (ctlItems 0x1F00400050 0x1F00400090 half (half + 2 ^ 32))) = false ∧
    ctlPlace 0 0x1F00100000 = .register ∧ ctlPlace 0 0x1F00400050 = .table ∧ ctlPlace 0 frameWindow = .frame 0 0 ∧
    ctlPlace 0 0x1F00401200 = .none ∧ ctlPlace 1 0x1F00200000 = (if hostPort 1 then .register else .none) := by decide +kernel
theorem witness_no_tlb_entries : ∀ e ∈ (sl.core tl.coreKey).tlb, e.leaf.frame % 64 = 0 := by decide +kernel

/-- A load and a store that fault inside a transaction. -/
def goneTx : Team := { tGone with hdr := txTeam.hdr, tx := { live := true, held := true, depth := 1, ts := 5, handler := 0x1800 } }
theorem witness_faults_in_transaction :
    (∃ x ∈ loadForms goneTx .always (.k 1) (.d 0) (.k 0) 0 0, Issues (world goneTx []) x.sh goneTx ∧ goneTx.tx.live = true ∧
      (world goneTx []).checkLanes goneTx { size := x.size, write := false, plain := true, cross := false } x.addrs =
        .fault 0x2000000 false) ∧
    (∃ x ∈ storeForms goneTx .always (.k 1) (.d 0) (.k 0) 0 0, Issues (world goneTx []) x.sh goneTx ∧
      (world goneTx []).checkLanes goneTx { size := x.size, write := true, plain := true, cross := true } x.addrs =
        .fault 0x2000000 false) := by
  refine ⟨⟨_, List.mem_of_getElem? (i := 6) rfl, ?_⟩, ⟨_, List.mem_of_getElem? (i := 3) rfl, ?_⟩⟩ <;>
    (simp only [← issues_iff]; decide +kernel)

/-- An atomic and a `red` of one lane in a transaction. -/
def redShape : Shape := { op := 0x9B, sel := .guard .always, srcs := [.k 0, .k 1], mod := .atomic }
def atomicChk (s : State) (t : Team) (sh : Shape) : Chk :=
  s.checkLanes t { size := if atom32 t.ctl.hint then 4 else 8, write := true, plain := false, cross := false }
    ((ctxOf sh t).lanes.map (fun l => (l, lane ((valsOf sh t).getD 0 []) l)))
theorem witness_atomics_in_transaction :
    (∃ x ∈ atomForms .always (.k 2) (.k 0) (.k 1) .acqRel, Issues (slTx 0) x.sh (tlTx 0) ∧ atomicChk (slTx 0) (tlTx 0) x.sh = .ok [x0]) ∧
    Issues (slTx 0) redShape (tlTx 0) ∧ atomicChk (slTx 0) (tlTx 0) redShape = .ok [x0] ∧
    (∀ v ∈ (slTx 0).teams, v.id ≠ 1 → v.fetched = []) ∧ (slTx 0).remoteUnder (tlTx 0) (scopeOf (tlTx 0).ctl.hint) = [] ∧
    Mem.wf (slTx 0).mem = true ∧ (slTx 0).txHolders 1 (0x4000 / 64) = [] ∧ (tlTx 0).tx.lines.length < 256 ∧
    Issues (slTx 256) redShape (tlTx 256) ∧ atomicChk (slTx 256) (tlTx 256) redShape = .ok [x0] ∧
    256 ≤ (tlTx 256).tx.lines.length ∧ (∀ l ∈ (tlTx 256).tx.lines, l.line ≠ 0x4000 / 64) ∧
    Issues (beside (tlTx 0)) redShape (tlTx 0) ∧ atomicChk (beside (tlTx 0)) (tlTx 0) redShape = .ok [x0] ∧
    Issues (twins (tlTx 0)) redShape (tlTx 0) ∧ replicated (atomicChk (twins (tlTx 0)) (tlTx 0) redShape) = true := by
  refine ⟨⟨_, List.mem_of_getElem? (i := 10) rfl, ?_⟩, ?_⟩ <;> (simp only [← issues_iff]; decide +kernel)

/-! The sequencer -/

/-- An entry of 8 rows and 16 columns at tile 7, and the unit with it at the head. -/
def entW (op : BitVec 8) (fl : BitVec 4) (args : List Word) (prog : Nat) : MEntry :=
  { ent 0 0 prog with word := wordX op 0xF 0 0 0 7 fl, args }
def runs (e : MEntry) : State := withUnit tm { mxR with queue := [e] }
def readsB (e : MEntry) (a : Word) (n : Nat) : Bool :=
  (runs e).mxRead tm e a n == (.ok [(a.toNat, n, [])], runs e, Mem.bytes (runs e).mem a.toNat n)
def writesB (e : MEntry) (a : Word) (bs : List Byte) : Bool :=
  match (runs e).mxWrite tm e a bs with
  | (.ok ps, _) => ps == [(a.toNat, bs.length, [])]
  | _ => false
theorem witness_sequencer_head :
    ∀ e ∈ [entW 0xC0 0 [0x4000, 64, 64, 0x400] 0, entW 0xC5 0 [0x4000] 0, entW 0xC6 1 [0x4000, 64] 0,
        entW 0xC1 0 [0x4000, 64, 64, 1, 0x400, 0] 0, entW 0xC2 0 [0x4000, 64, 64, 1, 0x4400, 0] 0, entW 0xC1 1 [0x4000, 64, 64, 1, 0x1400, 0x6000] 1,
        entW 0xC1 0 [0x4000, 64, 64, 0, 0x400, 0] 0, entW 0xC3 0 [0x4000, 64, 0x40000, 0x100000] 0, entW 0xC7 0 [0] 0,
        entW 0xC7 2 [0] 0],
      ((runs e).core 0).mx.queue = e :: [] ∧ ((runs e).core 0).mx.holder = some tm.id ∧ (runs e).team? tm.id = some tm ∧
      e.stuck = false ∧ e.again = false ∧ (runs e).live (coreSite 0) = true ∧ ((runs e).core 0).mx.rl = mxR.rl ∧
      Mem.wf ((runs e).core 0).mx.acc = true := by decide +kernel
theorem witness_sequencer_reads :
    (∀ i, i < 16 → readsB (entW 0xC0 0 [0x4000, 64, 64, 0x400] 0) (0x4000 + BitVec.ofNat 64 i * 64) 64 = true) ∧
    readsB (entW 0xC5 0 [0x4000] 0) 0x4000 256 = true ∧ readsB (entW 0xC6 1 [0x4000, 64] 0) (0x4000 + BitVec.ofNat 64 0 * 64) 64 = true ∧
    (∀ m, m < 8 → readsB (entW 0xC1 0 [0x4000, 64, 64, 1, 0x400, 0] 0)
      (0x4000 + BitVec.ofNat 64 m * 64 + BitVec.ofNat 64 0 * 64) (rowBytes 0x400 false) = true) ∧
    (∀ m, m < 8 → readsB (entW 0xC2 0 [0x4000, 64, 64, 1, 0x4400, 0] 0)
      (0x4000 + BitVec.ofNat 64 m * 64 + BitVec.ofNat 64 0 * 64) (rowBytes 0x4400 true) = true) ∧
    (entW 0xC0 0 [] 0).op = 0xC0 ∧ (entW 0xC5 0 [] 0).op = 0xC5 ∧ (entW 0xC1 0 [] 0).op = 0xC1 ∧ (entW 0xC2 0 [] 0).op = 0xC2 ∧
    (entW 0xC0 0 [] 0).n = 16 ∧ (entW 0xC1 0 [] 0).m = 8 ∧ 64 * elemBits (fwB 0x400) / 8 = 64 ∧ trailing 0x400 (fwB 0x400) = false := by
  decide +kernel
theorem witness_sequencer_writes :
    fwRsum 0x1400 = true ∧ (entW 0xC1 1 [0x4000, 64, 64, 1, 0x1400, 0x6000] 1).num 3 % 2 ^ 16 ≤ 1 ∧
    writesB (entW 0xC1 1 [0x4000, 64, 64, 1, 0x1400, 0x6000] 1) 0x6000 (List.replicate 64 0) = true ∧
    (entW 0xC1 0 [0x4000, 64, 64, 0, 0x400, 0] 0).num 3 % 2 ^ 16 = 0 ∧ (entW 0xC3 0 [] 0).op = 0xC3 ∧ (entW 0xC7 0 [] 0).op = 0xC7 ∧
    (let e := entW 0xC3 0 [0x4000, 64, 0x40000, 0x100000] 0
     writesB e 0x4000 (Machine.packCodes (drainCodes ((runs e).core 0).mx e) (elemBits (fwD (e.num 2)))) = true) ∧
    0 < ([1, 2] : List Byte).length ∧ gOfs 0x4000 % 65536 + 2 ≤ 65536 ∧
    ((runs (entW 0xC3 0 [] 0)).xlateRun ((entW 0xC3 0 [] 0).party tm) .write (2 / 65536 + 2) 0x4000 2) = .ok [(0x4000, 2, [])] := by
  decide +kernel
theorem witness_matrix_numbers :
    expOf 1 0 ≤ 1 ∧ expOf 3 0 = 1 ∧ (FV.fin false 3 0) ∈ [FV.fin false 1 0, .fin false 3 0] ∧
    ([elemValue 0x5 false 0x38].map (fun x => x.re)).length = ([elemValue 0x5 false 0x7F].map (fun x => x.re)).length ∧
    (elemValue 0x5 false 0x7F).re = .nan ∧ (elemValue 0x3 false 0x7F80).re = .inf false ∧ (elemValue 0x3 false 0xFF80).re = .inf true ∧
    (elemValue 0x3 false 0).re.isZero = true ∧ (elemValue 0x3 false 0x3F80).re.isInf = false ∧
    FV.decode b32 0x7F800000 = .inf false ∧ FV.decode b32 0xFF800000 = .inf (!false) ∧ FV.decode b32 0x7FC00000 = .nan ∧
    (FV.decode b32 0x3F800000 ≠ .nan ∧ FV.decode b32 0x3F800000 ≠ .inf true) ∧
    (fwAcc 0x40000 = 0 ∧ drainFmt (fwD 0x40000) false = none) ∧ fwAcc 0xC00 = 3 ∧
    (fwAcc 0x50000 = 0 ∧ fwReq 0x50000 = false ∧ (drainFmt (fwD 0x50000) false).isSome = true) ∧
    (fwAcc 0x100400 ≠ 3 ∧ fwReq 0x100400 = true ∧ (drainFmt (fwD 0x100400) false).isSome = true) := by decide +kernel

/-! Promise cells -/

/-- Two cells that link to each other: a chain without an end. -/
def toFirst : Nat := 2 ^ 62 + 0x400
def ring : State := sp toNext toFirst 0 0
def ringCell (i : Nat) : Nat := if i % 2 = 0 then 0x4000 else 0x4010
theorem ring_cells : ∀ i, i < 2 → ring.cellAt tp.party .write (BitVec.ofNat 64 (ringCell i)) = .ok (ringCell i) false ∧
    ring = ring.reachCell tp.party (BitVec.ofNat 64 (ringCell i)) (ringCell i) ∧
    ring.cellSt (ringCell i) = .linked (BitVec.ofNat 64 (ringCell (i + 1))) := by decide +kernel
theorem witness_chain_too_long : ∀ i, i < 257 →
    ring.cellAt tp.party .write (BitVec.ofNat 64 (ringCell i)) = .ok (ringCell i) false ∧
    ring = ring.reachCell tp.party (BitVec.ofNat 64 (ringCell i)) (ringCell i) ∧
    ring.cellSt (ringCell i) = .linked (BitVec.ofNat 64 (ringCell (i + 1))) := by
  intro i _
  have h : ringCell i = ringCell (i % 2) := by unfold ringCell; rw [Nat.mod_mod]
  have h1 : ringCell (i + 1) = ringCell (i % 2 + 1) := by unfold ringCell; rw [Nat.mod_add_mod]
  rw [h, h1]
  exact ring_cells (i % 2) (Nat.mod_lt _ (by decide))
/-- A chain of two links to a cell that is empty, full or invalid, or whose page is not mapped. -/
def chained (w v : Nat) : State :=
  world tp [(0x4008, 8, toNext), (0x4018, 8, 2 ^ 62 + 0x402), (0x4020, 8, v), (0x4028, 8, w)]
theorem witness_chains :
    (∀ w ∈ [0, fullWord, 3 * 2 ^ 62], ∀ i ∈ [0, 1], (chained w 7).cellAt tp.party .write (BitVec.ofNat 64 (0x4000 + 16 * i)) = .ok (0x4000 + 16 * i) false ∧
      (chained w 7).reachCell tp.party (BitVec.ofNat 64 (0x4000 + 16 * i)) (0x4000 + 16 * i) = chained w 7 ∧
      (chained w 7).cellSt (0x4000 + 16 * i) = .linked (BitVec.ofNat 64 (0x4000 + 16 * (i + 1)))) ∧
    (∀ w ∈ [0, fullWord, 3 * 2 ^ 62], (chained w 7).cellAt tp.party .write 0x4020 = .ok 0x4020 false) ∧
    (chained 0 7).cellSt 0x4020 = .empty ∧ (chained fullWord 7).cellSt 0x4020 = .full ∧ (chained (3 * 2 ^ 62) 7).cellSt 0x4020 = .invalid ∧
    (∀ u ∈ (chained 0 7).teams, u.tx.live = false ∧ u.fetched = []) ∧ Mem.wf (chained 0 7).mem = true ∧
    0x4000 + 16 ≤ 0x4010 ∧ ((sp (2 ^ 62 + 0x200000) 0 0 0).cellAt tp.party .write 0x2000000).stop 0x2000000 ≠ none ∧
    (sp (2 ^ 62 + 0x200000) 0 0 0).cellSt 0x4000 = .linked 0x2000000 := by decide +kernel
theorem witness_pfill_stops :
    let sh : Shape := { op := 0xD5, sel := .guard .always, srcs := [.k 0, .k 2], imm := true }
    issuesB (sp (3 * 2 ^ 62) 0 0 0) sh tp = true ∧
    (sp (3 * 2 ^ 62) 0 0 0).findAll (ctxOf sh tp) true [(0, 0x4000)] = (sp (3 * 2 ^ 62) 0 0 0, [(0, 0x4000, .trap 5 0x03)]) ∧
    (sp (3 * 2 ^ 62) 0 0 0).cellAt tp.party .write 0x4000 = .ok 0x4000 false := by decide +kernel
theorem witness_peq_roots : (0x4000 : Nat) ≠ 0x4010 ∧
    (∀ t ∈ joined.teams, t.tx.live = false ∧ t.fetched = []) ∧
    (sp 0 fullWord 0 7).cellSt 0x4010 = .full ∧ (sp 0 fullWord 0 7).cellSt 0x4000 = .empty := by decide +kernel

/-! Bins, names, packets -/

/-- Two lanes that spawn: the header at 0x5000, and it again, another at 0x6000, or no header at 0x7000. -/
def tsp2 (b : Word) : Team := team 2 [[0x5000, b], [1, 1], [2, 2], [3, 3], [4, 4]]
def binned2 (b : Word) (bs : List Bin) : State :=
  { world (tsp2 b) [(0x5008, 2, 4), (0x500D, 1, 1), (0x6008, 2, 1), (0x600D, 1, 1)] with
    sites := [{ key := 0, part := some 0, bins := bs }], parts := [withEntry anEntry] }
def fifteen : List Bin := aBin 0 1 fourLanes :: (List.range 15).map (fun n => aBin (n + 1) 1 {})
def oneLane : Header := parseHeader 0x6000 [0, 0, 0, 0, 0, 0, 0, 0, 1, 0, 0, 0, 0, 1]
def spawnOk (a : Word) (b : Word) : Bool :=
  let h := parseHeader a (Mem.bytes (binned2 b []).mem a.toNat 64)
  (headerBad a (Mem.bytes (binned2 b []).mem a.toNat 64) true none).isNone && h.spawnable && !h.gang && !h.supervisor && h.fits 0
def landed (s : State) (t : Team) (h : Header) (l : Nat) : State :=
  (((s.placeRecord t h (s.argBlock t) [1, 2, 3, 4]).map (fun v => v.laneDone t.id l)).getD s)
def spawnsB (b : Word) (bs : List Bin) : Bool :=
  let s := binned2 b bs
  let t := tsp2 b
  issuesB s spawnShape t && t.spawning.isEmpty && (ctxOf spawnShape t).lanes == [0, 1] && t.status == .running &&
    s.checkWord { t.party with tenant := 0 } 0x5000 64 .read == .ok 0x5000 false &&
    s.checkWord { t.party with tenant := 0 } b 64 .read == .ok b.toNat false
theorem witness_spawn_lanes : spawnsB 0x5000 [] = true ∧ spawnsB 0x6000 fifteen = true ∧ spawnsB 0x7000 [] = true := by
  decide +kernel
theorem witness_spawn_headers :
    spawnOk 0x5000 0x5000 = true ∧ spawnOk 0x6000 0x6000 = true ∧ spawnOk 0x7000 0x7000 = false ∧
    parseHeader 0x6000 (Mem.bytes (binned2 0x6000 []).mem 0x6000 64) = oneLane := by decide +kernel
theorem witness_spawn_lanes_land :
    ((binned2 0x5000 []).placeRecord (tsp2 0x5000) fourLanes 0 [1, 2, 3, 4]).isSome = true ∧
    ((landed (binned2 0x5000 []) (tsp2 0x5000) fourLanes 0).placeRecord (tsp2 0x5000) fourLanes 0 [1, 2, 3, 4]).isSome = true ∧
    ((binned2 0x6000 fifteen).placeRecord (tsp2 0x6000) fourLanes 0 [1, 2, 3, 4]).isSome = true ∧
    (landed (binned2 0x6000 fifteen) (tsp2 0x6000) fourLanes 0).placeRecord (tsp2 0x6000) oneLane 0 [1, 2, 3, 4] = none ∧
    (binned2 0x6000 []).argBlock (tsp2 0x6000) = 0 := by decide +kernel
theorem witness_spawn_lanes_quiet : Quiet (binned2 0x5000 []) (tsp2 0x5000) ∧ Quiet (binned2 0x6000 fifteen) (tsp2 0x6000) ∧
    Quiet (binned2 0x7000 []) (tsp2 0x7000) := by simp only [Quiet]; decide +kernel
theorem witness_one_lane_bin :
    oneLane.lanes = 1 ∧ ((binned2 0x6000 []).site 0).bins.find? (fun b => b.hdr.addr == oneLane.addr) = none ∧
    (∀ b ∈ ((binned2 0x6000 []).site 0).bins.filter (fun b => b.cluster == 0), b.num ≠ 0) := by decide +kernel
theorem witness_drain_home :
    (dlqHolds 1).live ((dlqHolds 1).partHome { part0 with dlq := [aRecord] }) = true ∧
    ({ dlqHolds 1 with sites := [{ key := 0, part := some 0, frozen := true }] } : State).live
      ((dlqHolds 1).partHome { part0 with dlq := [aRecord] }) = false := by decide +kernel
theorem witness_name_words :
    ((sr tx 0).lookupName tx.place.site tx.ctl.acting.toNat (gDev 0x6000) (gSite 0x6000)).isSome = true ∧
    (sr tx 0).lookupName tx.place.site tx.ctl.acting.toNat (gDev (2 ^ 37)) (gSite (2 ^ 37)) = none := by decide +kernel

/-- Packets at their destination: an `xput` of two words, an atomic and a reduction of 32-bit elements, one refused; an `xput` with
words still to land; an answer that says so; and a packet dropped, or on the external plane of its own device. -/
def twoWords : RemOp := { opIn .sent 0xE4 with words := [(0, 0x4000, 7, 0), (1, 0x4008, 8, 0)] }
def atom32Op : RemOp := { opIn .sent 0xE2 with fn := 16 }
def red32Op : RemOp := { opIn .sent 0xE3 with fn := 16 }
def halfLanded : RemOp := { twoWords with phase := .landing, places := [(0x4008, [], 8)] }
def answered : RemOp := { opIn .failed 0xE0 with cause := 0 }
def aroundOut : RemOp := { opIn .sent 0xE0 with way := { plane := 2, exit := 0 } }
def runsB (o : RemOp) (need : Need) (l : List (Word × Nat)) (e : List (List (Nat × Nat × List Nat))) : Bool :=
  (sOp o).op? 5 == some o && o.phase == .sent && !(sOp o).orderWaits o && (sOp o).mayCross o.way o.site o.dsite none o.relayed &&
    ((sOp o).runsAt o.away need l).toOption == some e
theorem witness_packets_at_destination :
    runsB twoWords .write (twoWords.words.map (fun w => (w.2.1, 8))) [[(0x4000, 8, [])], [(0x4008, 8, [])]] = true ∧
    runsB atom32Op .write [(0x4000, 4)] [[(0x4000, 4, [])]] = true ∧ runsB red32Op .write [(0x4000, 8)] [[(0x4000, 8, [])]] = true ∧
    red32Op.fn / 16 % 2 = 1 ∧ red32Op.len = 2 * 4 ∧ red32Op.data.length = red32Op.len ∧
    badPut.phase = .sent ∧ (sOp badPut).mayCross badPut.way badPut.site badPut.dsite none badPut.relayed = true ∧ badPut.ctr = none ∧
    (sOp badPut).domainOf badPut.dsite = some badPut.key ∧ ((sOp badPut).site badPut.dsite).inc = badPut.inc := by decide +kernel
theorem witness_packets_later :
    (sOp halfLanded).op? 5 = some halfLanded ∧ halfLanded.counts = [] ∧ halfLanded.places ≠ [] ∧
    (∀ x ∈ halfLanded.places, x.1 % 8 = 0 ∧ x.2.1 = []) ∧ (sOp answered).op? 5 = some answered ∧ answered.cause ≠ 2 ∧
    (sOp answered).mayCross answered.way answered.dsite answered.site none answered.relayed = true ∧
    (sOp answered).team? answered.team = some tl ∧ (sOp (opIn .dropped 0xE0)).live 0 = true ∧
    (sOp aroundOut).op? 5 = some aroundOut ∧ aroundOut.site / 64 = aroundOut.dsite / 64 ∧ aroundOut.way.plane = 2 ∧
    aroundOut.relay = none ∧ aroundOut.relayed = false := by decide +kernel
theorem witness_landing_listeners : ∀ site, NoListeners (sOp halfLanded) site ∧ NoListeners (sOp twoWords) site ∧
    NoListeners (sOp atom32Op) site ∧ NoListeners (sOp red32Op) site := fun site =>
  ⟨noListeners_of (by decide +kernel) (by decide +kernel) site, noListeners_of (by decide +kernel) (by decide +kernel) site,
    noListeners_of (by decide +kernel) (by decide +kernel) site, noListeners_of (by decide +kernel) (by decide +kernel) site⟩

/-! Reductions -/

/-- The team that was woken without a slot, at its `xopen` again. -/
def expiredTx : Team := { tx0 with wake := some .expired }
def expiredAt : State := { grouped 0 [] with teams := [expiredTx] }
theorem witness_xopen_expired :
    expiredAt.curTeam? = some expiredTx ∧ expiredAt.putTeam tx0 = grouped 0 [] ∧ (grouped 0 []).instOf 0 0 5 = none := by
  decide +kernel
/-- A value comes up to its node at level 1 of three contributors: the node is new, has that side already, or gets its other. -/
def upPkt (right : Bool) : XPkt := { aPacket 0 0 0x100000002 with n := 3, kind := .up 1 0 right true aValue }
def upTo (right : Bool) (l : List XNode) : State := { grouped 1 [{ aJob with n := 3, nodes := l }] with xpkts := [upPkt right] }
theorem witness_contribution_arrives :
    (∀ r ∈ [(false, []), (false, [aNode false]), (true, [aNode false])],
      (upTo r.1 r.2).xpkts.find? (fun q => q.id == 8) = some (upPkt r.1) ∧ (upTo r.1 r.2).live 0 = true ∧
      (upTo r.1 r.2).mayCross (upPkt r.1).way 0 0 (upPkt r.1).relay (upPkt r.1).relayed = true ∧
      (upTo r.1 r.2).domainOf 0 = some 0 ∧ ((upTo r.1 r.2).site 0).inc = 0 ∧ ((upTo r.1 r.2).tenantDesc 0 0).isSome = true ∧
      (upTo r.1 r.2).instOf 0 0 5 = some { aJob with n := 3, nodes := r.2 } ∧
      (upPkt r.1).differs { aJob with n := 3, nodes := r.2 } = false ∧
      (upTo r.1 r.2).inst? 0 4 = some { aJob with n := 3, nodes := r.2 } ∧
      (upTo r.1 r.2).past 0 (xForwardAt 0 1000 1) = false ∧ (upTo r.1 r.2).past 0 (xCloseAt 0 1000 1) = false) ∧
    (freshNode 1 0).h = 1 ∧ (freshNode 1 0).closed = false ∧ ({ freshNode 1 0 with left := some aValue } : XNode).full 3 = false ∧
    (aNode false).left.isSome = true ∧ ({ aNode false with right := some aValue } : XNode).full 3 = true ∧ 1 ≠ xLevels 3 ∧
    (({ aNode false with right := some aValue } : XNode).value 0x100000002).isSome = true := by decide +kernel

/-! Events of the site -/

/-- A team whose fault waits for a place in the buffer, and one whose wait is over. -/
def placeTeam : Team := { parkedOn (.translation 0 0 8) with id := 3 }
def placeless (t : Team) : State := { serving t [faulted false] [aWait] with teams := [t] }
theorem witness_place_waiters :
    (placeless placeTeam).placeWaiters 0 = [aWait] ∧ ((placeless placeTeam).site 0).fbSince = some 0 ∧
    (placeless placeTeam).live 0 = true ∧ (placeless placeTeam).now < 0 + us 1000 ∧
    (placeless { placeTeam with status := .running }).placeWaiters 0 = [] ∧
    (∀ o ∈ s0.ops, o.dsite = 0 → o.phase ≠ .landing) := by decide +kernel
/-- The two supply rails at the edges of their ranges, and a thaw that is late. -/
theorem witness_rails :
    ((40000 : Nat) ≤ 40000 ∧ 40000 < 44000 ∧ 54000 < 54001) ∧ ((39999 : Nat) < 40000 ∧ 44000 ≤ 54000) ∧
    ((617 : Nat) < 618 ∧ 682 < 683 ∧ 618 ≤ 682) ∧ s0.live 0 = true ∧ thawing.thawing 0 = some aThaw ∧
    (aThaw.owners.contains filling.id) = true ∧ thawing.thawTenant 0 = 0 := by decide +kernel
theorem witness_recovery_journal : (∀ e ∈ part0.journal, e.state ≠ .failed) ∧ dramGood (s0.site 0) = true := by decide +kernel
/-- Partition 0 with its site frozen has work at its queue and in its intake. -/
def stopped : State := { intaking (anIntake (recordFrom 0) false none) part0 with sites := [downSite] }
theorem witness_stopped_site :
    stopped.live 0 = false ∧ stopped.live (stopped.partHome { part0 with intake := [anIntake (recordFrom 0) false none] }) = false ∧
    (intaking (anIntake (recordFrom 0) false none) part0).live
      ((intaking (anIntake (recordFrom 0) false none) part0).partHome { part0 with intake := [anIntake (recordFrom 0) false none] }) =
        true ∧ (∀ t ∈ (hosting (aQueue 1 none) []).teams, t.tx.live = false) := by decide +kernel
theorem witness_thaw_steps :
    thawing.thawing filling.coreKey = some aThaw ∧ aThaw.owners.contains 2 = true ∧ (thawing.core 0).thaw = some aThaw ∧
    (crowded 300000).thawing filling.coreKey = none ∧
    (aThaw.owners.filter (fun i => (thawing.onCore 0 3).any (fun u => u.id == i && u.isHalted &&
      (!(u.rowsIn aThaw.rows).isEmpty || u.scratchIn aThaw.scratch)))) = [2] := by decide +kernel
/-- Site 64, of another device and outside every partition, is reset while a team of site 0 is parked on a cell there, or waits for a page there. -/
def faraway (t : Team) (l : List FbEntry) : State :=
  { world t (nameWords ++ [(0x10010, 8, 2 ^ 63 + 2 ^ 42)]) with sites := [{ key := 0, part := some 0 }, { key := 64, fbuf := l }] }
def farCell : Team := parkedOn (.cell 0 (2 ^ 37 + 0x4000))
def farPage : Team := parkedOn (.translation 64 0 7)
theorem witness_reset_elsewhere :
    (faraway farCell []).reach farCell.party (2 ^ 37 + 0x4000) = .at_ 64 0 ∧ farCell.place.site ≠ 64 ∧
    ((faraway farCell []).site 64).part = none ∧ ((faraway farCell []).site 64).mgmt.powered = true ∧
    ((faraway farCell []).site 64).mgmt.inReset = false ∧ ((faraway farCell []).site 64).bins = [] ∧
    (∀ y ∈ (faraway farCell []).sites, y.waits = []) ∧ ((faraway farCell []).site 64).fbWaits = [] ∧
    ((faraway farPage [faulted false]).site 64).fbuf = [faulted false] ∧
    (∀ t ∈ State.reset.teams, State.reset.cellThere 0 t = false) ∧ (State.reset.site 0).fbuf = [] ∧ (State.reset.site 0).fbWaits = [] := by
  decide +kernel
theorem witness_device_power :
    (∃ k ∈ devSites (0 / 64), (State.reset.site k).mgmt.powered = true ∧ (State.reset.site k).mgmt.inReset = false) ∧
    (State.reset.site 0).mgmt.powered = true := by decide +kernel
/-- Bammusan answers, or its site is in reset; and sites that stand in the recovery ROM. -/
theorem witness_management_ports :
    State.reset.manages 0 = true ∧ (managed { inReset := true }).manages 0 = false ∧ ((managed { boot := 2 }).site 0).mgmt.boot = 2 ∧
    0 ∈ devSites (0 / 64) ∧ ((managed { boot := 2 }).site 0).mgmt.inReset = false ∧
    ((managed { boot := 2 }).site 0).mgmt.powered = true ∧ hostPort 0 = true := by decide +kernel
/-- MSEL names B's word 0, or the oldest level image's, of a team inside an `if`. -/
def selB : Team := { t0 with ctl := { t0.ctl with msel := 64 } }
def selLevel : Team := { inIf with ctl := { inIf.ctl with msel := 96 } }
theorem witness_mask_words :
    selB.ctl.msel.toNat / 32 = 2 ∧ selLevel.ctl.msel.toNat / 32 = 0 + 3 ∧ 0 < selLevel.ctl.stack.length ∧ 0 < selLevel.nlane ∧
    selLevel.ctl.stack.reverse[0]? = some { image := 1, isLoop := false, inElse := false, target := 0x1000, body := 0 } ∧
    ((selLevel.setSpecial 25 0).ctl.stack.reverse)[0]? =
      some { image := 0, isLoop := false, inElse := false, target := 0x1000, body := 0 } := by decide +kernel

end Sys2Proof.Tests
end

section
/-! Division (R98). Two rules carry the proof: an instruction that runs as `runBin` pushes its lane function's values, and
a lane function that computes on signed or unsigned integers is the operation at the width that those integers stand for.
What is left is the arithmetic of quotients and remainders of n-bit words, for every n. -/

namespace Sys2Proof.Machine

/-! ### Instructions of two sources -/

/-- An instruction that runs as `runBin` completes with its lane function's value in every active lane. -/
theorem pushesLanes_of_runBin {i : Instr} {op : Nat} {g : Guard} {d : Dst} {a b : Src} {f : Word → Word → Word}
    (hi : ∀ s, exec i s = s.runBin op g d a b f) : PushesLanes i (shapeDAB op g d a b) d (of2 f) := by
  intro s t h
  rw [hi]
  exact pushed_of (fun c l => f (lane (c.val 0) l) (lane (c.val 1) l)) rfl rfl h

/-! ### Lane functions at the operating width (R94) -/

theorem extractLsb_eq_setWidth (x : Word) : x.extractLsb' 0 32 = x.setWidth 32 :=
  (BitVec.setWidth_eq_extractLsb' (by decide)).symm

/-- A lane function on the signed views of its operands is the operation at the width that it stands for there. -/
theorem sres_eq_atWidth {q : Int → Int → Int} {op : (n : Nat) → BitVec n → BitVec n → BitVec n}
    (h : ∀ n (a b : BitVec n), BitVec.ofInt n (q a.toInt b.toInt) = op n a b) (f : IWidth) (x y : Word) :
    sres f (q (sval f x) (sval f y)) = atWidth true f op x y := by
  cases f with
  | w64 => exact h 64 x y
  | w32 => simp only [sres, sval, atWidth, extractLsb_eq_setWidth, h, if_true]

/-- A lane function on the unsigned views of its operands is the operation at the width that it stands for there. -/
theorem ures_eq_atWidth {f : IWidth} {q : Nat → Nat → Int} {op : (n : Nat) → BitVec n → BitVec n → BitVec n}
    (h : ∀ a b : BitVec (bitsOf f), BitVec.ofInt (bitsOf f) (q a.toNat b.toNat) = op (bitsOf f) a b) (x y : Word) :
    ures f (q (uval f x) (uval f y)) = atWidth false f op x y := by
  cases f with
  | w64 => exact h x y
  | w32 =>
    have h32 : ∀ a b : BitVec 32, BitVec.ofInt 32 (q a.toNat b.toNat) = op 32 a b := h
    simp only [ures, uval, atWidth, extractLsb_eq_setWidth, h32, Bool.false_eq_true, if_false]

/-! ### Words that stand for integers -/

theorem toInt_eq_zero_iff {n : Nat} (b : BitVec n) : b.toInt = 0 ↔ b = 0 := by
  rw [← BitVec.toInt_inj, BitVec.ofNat_eq_ofNat, BitVec.toInt_zero]

theorem toNat_eq_zero_iff {n : Nat} (b : BitVec n) : b.toNat = 0 ↔ b = 0 := by
  rw [← BitVec.toNat_inj, BitVec.ofNat_eq_ofNat, BitVec.toNat_zero]

theorem ofInt_two_pow_sub_one (n : Nat) : BitVec.ofInt n (2 ^ n - 1) = BitVec.allOnes n := by
  have hones : (2 ^ n - 1 : Int) = ((2 ^ n - 1 : Nat) : Int) := by
    rw [Int.ofNat_sub Nat.one_le_two_pow, Int.natCast_pow]
    rfl
  rw [hones, BitVec.ofInt_natCast]
  apply BitVec.eq_of_toNat_eq
  rw [BitVec.toNat_ofNat, BitVec.toNat_allOnes, Nat.mod_eq_of_lt (Nat.sub_one_lt (Nat.ne_of_gt (Nat.two_pow_pos n)))]

/-- The truncated quotient of the signed views, wrapped to the width, is the library's signed division. -/
theorem ofInt_tdiv {n : Nat} (a b : BitVec n) : BitVec.ofInt n (a.toInt.tdiv b.toInt) = a.sdiv b :=
  BitVec.eq_of_toInt_eq (by rw [BitVec.toInt_ofInt, BitVec.toInt_sdiv])

/-- The quotient of the minimum by −1, which the width cannot hold, wraps to the minimum. -/
theorem ofInt_tdiv_intMin (n : Nat) :
    BitVec.ofInt n ((BitVec.intMin n).toInt.tdiv (-1 : BitVec n).toInt) = BitVec.intMin n := by
  rw [ofInt_tdiv]
  exact BitVec.intMin_sdiv_neg_one

/-- A remainder x − y × q, wrapped to the width, is the difference of the wrapped words. -/
theorem ofInt_sub_mul (n : Nat) (x y q : Int) :
    BitVec.ofInt n (x - y * q) = BitVec.ofInt n x - BitVec.ofInt n q * BitVec.ofInt n y := by
  rw [Int.sub_eq_add_neg, BitVec.ofInt_add, BitVec.ofInt_neg, BitVec.ofInt_mul, BitVec.sub_eq_add_neg, BitVec.mul_comm]

/-! ### Quotients and remainders of n-bit words (R98) -/

/-- The signed quotient of R98 at width n. -/
def quotSAt (n : Nat) (a b : BitVec n) : BitVec n :=
  if b = 0 then BitVec.allOnes n else if a = BitVec.intMin n ∧ b = -1 then BitVec.intMin n
  else BitVec.ofInt n (a.toInt.tdiv b.toInt)

/-- The signed remainder of R98 at width n. -/
def remSAt (n : Nat) (a b : BitVec n) : BitVec n :=
  if b = 0 then a else if a = BitVec.intMin n ∧ b = -1 then 0
  else a - BitVec.ofInt n (a.toInt.tdiv b.toInt) * b

/-- The unsigned quotient of R98 at width n. -/
def quotUAt (n : Nat) (a b : BitVec n) : BitVec n :=
  if b = 0 then BitVec.allOnes n else BitVec.ofNat n (a.toNat / b.toNat)

/-- The unsigned remainder of R98 at width n. -/
def remUAt (n : Nat) (a b : BitVec n) : BitVec n :=
  if b = 0 then a else a - BitVec.ofNat n (a.toNat / b.toNat) * b

theorem ofInt_quotS (n : Nat) (a b : BitVec n) : BitVec.ofInt n (quotS a.toInt b.toInt) = quotSAt n a b := by
  simp only [quotS, quotSAt, toInt_eq_zero_iff]
  split
  case isTrue =>
    rw [BitVec.ofInt_neg]
    exact BitVec.neg_one_eq_allOnes
  case isFalse =>
    split
    case isTrue h => rw [h.1, h.2, ofInt_tdiv_intMin]
    case isFalse => rfl

theorem ofInt_remS (n : Nat) (a b : BitVec n) : BitVec.ofInt n (remS a.toInt b.toInt) = remSAt n a b := by
  simp only [remS, remSAt, toInt_eq_zero_iff]
  split
  case isTrue => exact BitVec.ofInt_toInt
  case isFalse =>
    have hrem : BitVec.ofInt n (a.toInt.tmod b.toInt) = a - BitVec.ofInt n (a.toInt.tdiv b.toInt) * b := by
      rw [Int.tmod_def, ofInt_sub_mul, BitVec.ofInt_toInt, BitVec.ofInt_toInt]
    split
    case isTrue h =>
      have hprod : BitVec.intMin n * -1 = BitVec.intMin n := by
        rw [BitVec.mul_neg, BitVec.ofNat_eq_ofNat, BitVec.mul_one, BitVec.neg_intMin]
      rw [hrem, h.1, h.2, ofInt_tdiv_intMin, hprod]
      exact BitVec.sub_self _
    case isFalse => exact hrem

theorem ofInt_quotU (f : IWidth) (a b : BitVec (bitsOf f)) :
    BitVec.ofInt (bitsOf f) (quotU f a.toNat b.toNat) = quotUAt (bitsOf f) a b := by
  simp only [quotU, quotUAt, toNat_eq_zero_iff]
  split
  case isTrue => exact ofInt_two_pow_sub_one _
  case isFalse => exact BitVec.ofInt_natCast ..

theorem ofInt_remU (n : Nat) (a b : BitVec n) : BitVec.ofInt n (remU a.toNat b.toNat) = remUAt n a b := by
  simp only [remU, remUAt, toNat_eq_zero_iff]
  split
  case isTrue => rw [BitVec.ofInt_natCast, BitVec.ofNat_toNat, BitVec.setWidth_eq]
  case isFalse =>
    rw [Int.natCast_emod, Int.emod_def, ofInt_sub_mul, ← Int.natCast_ediv]
    simp only [BitVec.ofInt_natCast, BitVec.ofNat_toNat, BitVec.setWidth_eq]

/-! ### The lane functions of division -/

theorem divLane_eq (f : IWidth) : divLane f = atWidth true f quotSAt :=
  funext fun x => funext fun y => sres_eq_atWidth ofInt_quotS f x y

theorem remLane_eq (f : IWidth) : remLane f = atWidth true f remSAt :=
  funext fun x => funext fun y => sres_eq_atWidth ofInt_remS f x y

theorem divnLane_eq (f : IWidth) : divnLane f = atWidth false f quotUAt :=
  funext fun x => funext fun y => ures_eq_atWidth (ofInt_quotU f) x y

theorem remnLane_eq (f : IWidth) : remnLane f = atWidth false f remUAt :=
  funext fun x => funext fun y => ures_eq_atWidth (ofInt_remU (bitsOf f)) x y

/-- Settles O12: the four instructions push their lane functions' values, and those are R98's at the width; the sample
results of R98 are computed. -/
theorem division : Obligations.Division := by
  unfold Obligations.Division
  refine ⟨fun g d a b f => ⟨?div, ?rem, ?divn, ?remn⟩, by decide⟩
  case div => exact divLane_eq f ▸ pushesLanes_of_runBin fun _ => rfl
  case rem => exact remLane_eq f ▸ pushesLanes_of_runBin fun _ => rfl
  case divn => exact divnLane_eq f ▸ pushesLanes_of_runBin fun _ => rfl
  case remn => exact remnLane_eq f ▸ pushesLanes_of_runBin fun _ => rfl

end Sys2Proof.Machine
end

section
/-! `twosum` is exact (R128). Every finite binary32 value is an integer in units of 2^−149, the least positive one, and an
exact sum of two stays one. In these units the argument is about integers: a sum V rounds to the nearest value S of the
format; V − S is a multiple of the lesser of the operands' last places, and no greater than either operand, for S is at
least as near to V as the other operand is. So the error V − S is itself a value of the format, and its own rounding is
exact. -/

namespace Sys2Proof.Machine

/-! ### Values in units of 2^−149 -/

/-- A finite value whose exponent is at or above binary32's least, −149. -/
def FV.OnGrid : FV → Prop
  | .fin _ _ e => -149 ≤ e
  | _ => False

/-- The value in units of 2^−149. -/
def FV.units (v : FV) : Int := FV.over (-149) v

theorem sgn_natAbs (v : Int) : sgn (decide (v < 0)) v.natAbs = v := by
  simp only [sgn, decide_eq_true_eq]
  split <;> omega

theorem sgn_mul_natCast (s : Bool) (m n : Nat) : sgn s m * (n : Int) = sgn s (m * n) := by
  cases s with
  | false => exact (Int.natCast_mul m n).symm
  | true => exact (Int.neg_mul ..).trans (congrArg Neg.neg (Int.natCast_mul m n).symm)

@[simp] theorem sgn_zero (s : Bool) : sgn s 0 = 0 := by cases s <;> rfl

@[simp] theorem natAbs_sgn (s : Bool) (m : Nat) : (sgn s m).natAbs = m := by
  cases s with
  | false => exact Int.natAbs_natCast m
  | true => exact (Int.natAbs_neg _).trans (Int.natAbs_natCast m)

theorem FV.units_fin (s : Bool) (m : Nat) (e : Int) : (FV.fin s m e).units = sgn s (m * 2 ^ (e + 149).toNat) := by
  rw [← sgn_mul_natCast, Int.natCast_pow]
  rfl

/-- The integer over a lower exponent is the one over a higher times the power of two between them. -/
theorem FV.units_eq_over_mul {s : Bool} {m : Nat} {e q : Int} (hq : -149 ≤ q) (he : q ≤ e) :
    (FV.fin s m e).units = FV.over q (.fin s m e) * 2 ^ (q + 149).toNat := by
  have hexp : (e - -149).toNat = (e - q).toNat + (q + 149).toNat := by omega
  simp only [units, FV.over, hexp, Int.pow_add, Int.mul_assoc]

theorem FV.units_ofInt {v q : Int} (hq : -149 ≤ q) : (ofInt v q).units = v * 2 ^ (q + 149).toNat := by
  rw [ofInt, units_eq_over_mul hq (Int.le_refl q), FV.over, sgn_natAbs, Int.sub_self, Int.toNat_zero, Int.pow_zero,
    Int.mul_one]

theorem FV.OnGrid.exists_fin {x : FV} (hx : x.OnGrid) : ∃ s m e, x = .fin s m e ∧ -149 ≤ e := by
  cases x with
  | nan => exact hx.elim
  | inf => exact hx.elim
  | fin s m e => exact ⟨s, m, e, rfl, hx⟩

theorem FV.OnGrid.neg {x : FV} (hx : x.OnGrid) : x.neg.OnGrid := by
  obtain ⟨s, m, e, rfl, he⟩ := hx.exists_fin
  exact he

theorem FV.OnGrid.units_neg {x : FV} (hx : x.OnGrid) : x.neg.units = -x.units := by
  obtain ⟨s, m, e, rfl, he⟩ := hx.exists_fin
  rw [FV.neg, units_fin, units_fin]
  cases s with
  | false => rfl
  | true => exact (Int.neg_neg _).symm

/-- The exact sum of two values on the grid is on the grid, and its units are the sum of theirs. -/
theorem FV.OnGrid.add {x y : FV} (hx : x.OnGrid) (hy : y.OnGrid) :
    (FV.add .rn x y).OnGrid ∧ (FV.add .rn x y).units = x.units + y.units := by
  obtain ⟨s, m, e, rfl, he⟩ := hx.exists_fin
  obtain ⟨t, n, f, rfl, hf⟩ := hy.exists_fin
  simp only [FV.add]
  split
  case isTrue hz =>
    obtain ⟨rfl, rfl⟩ := hz
    exact ⟨show (-149 : Int) ≤ 0 by decide, by simp only [units_fin, Nat.zero_mul, sgn_zero, Int.add_zero]⟩
  case isFalse =>
    generalize hq : (if e < f then e else f) = q
    have hgrid : -149 ≤ q := by split at hq <;> omega
    have hsum : (FV.fin s m e).units + (FV.fin t n f).units =
        (FV.over q (.fin s m e) + FV.over q (.fin t n f)) * 2 ^ (q + 149).toNat := by
      rw [Int.add_mul, ← units_eq_over_mul hgrid (by split at hq <;> omega),
        ← units_eq_over_mul hgrid (by split at hq <;> omega)]
    rw [hsum]
    split
    case isTrue hv =>
      exact ⟨show (-149 : Int) ≤ 0 by decide, by rw [hv, units_fin, Nat.zero_mul, sgn_zero, Int.zero_mul]⟩
    case isFalse => exact ⟨hgrid, units_ofInt hgrid⟩

theorem FV.OnGrid.cmp_eq_zero {x y : FV} (hx : x.OnGrid) (hy : y.OnGrid) (h : x.units = y.units) : FV.cmp x y = 0 := by
  obtain ⟨s, m, e, rfl, he⟩ := hx.exists_fin
  obtain ⟨t, n, f, rfl, hf⟩ := hy.exists_fin
  simp only [FV.cmp]
  generalize hq : (if e < f then e else f) = q
  have hgrid : -149 ≤ q := by split at hq <;> omega
  have hover : FV.over q (.fin s m e) = FV.over q (.fin t n f) := by
    rw [units_eq_over_mul hgrid (by split at hq <;> omega), units_eq_over_mul hgrid (by split at hq <;> omega)] at h
    exact Int.eq_of_mul_eq_mul_right (Int.ne_of_gt (Int.pow_pos (by decide))) h
  rw [hover, if_neg (Int.lt_irrefl _), if_pos rfl]

/-! ### Rounding to a multiple of 2^k, to the nearest -/

/-- The rounded quotient is within half a step. -/
theorem roundNat_rn_within_half (s : Bool) (m k : Nat) :
    2 * ((m : Int) - roundNat .rn s m (-(k : Int)) * 2 ^ k).natAbs ≤ 2 ^ k := by
  by_cases hk : k = 0
  case pos =>
    subst hk
    simp only [roundNat, Int.natCast_zero, Int.neg_zero, Int.le_refl, if_true, Int.toNat_zero, Nat.pow_zero, Int.pow_zero,
      Nat.mul_one, Int.mul_one, Int.sub_self, Int.natAbs_zero, Nat.mul_zero, Nat.zero_le]
  case neg =>
    have hneg : ¬0 ≤ -(k : Int) := by omega
    have hdiv : (m : Int) = (m / 2 ^ k : Nat) * (2 ^ k : Nat) + (m % 2 ^ k : Nat) := by
      exact_mod_cast (Nat.div_add_mod' m (2 ^ k)).symm
    have hlt : m % 2 ^ k < 2 ^ k := Nat.mod_lt m (Nat.two_pow_pos k)
    have hpow : (2 : Int) ^ k = (2 ^ k : Nat) := (Int.natCast_pow 2 k).symm
    simp only [roundNat, if_neg hneg, Int.neg_neg, Int.toNat_natCast, hpow]
    generalize 2 ^ k = p at *
    generalize m / p = q at *
    generalize m % p = r at *
    have hup : ((q + 1 : Nat) : Int) * p = q * p + p := by rw [Int.natCast_succ, Int.add_mul, Int.one_mul]
    split
    case isTrue => omega
    split
    case isTrue => omega
    split
    case isTrue => omega
    case isFalse =>
      obtain hq | hq : q % 2 = 0 ∨ q % 2 = 1 := by omega
      · rw [hq, Nat.add_zero]; omega
      · rw [hq]; omega

theorem roundNat_rn_zero (s : Bool) (sh : Int) : roundNat .rn s 0 sh = 0 := by
  unfold roundNat
  split
  case isTrue => exact Nat.zero_mul _
  case isFalse => simp only [Nat.zero_mod, Nat.zero_div, if_true]

/-- No multiple of 2^k is nearer than the rounded one. -/
theorem roundNat_rn_nearest (s : Bool) (m k : Nat) (c : Int) :
    ((m : Int) - roundNat .rn s m (-(k : Int)) * 2 ^ k).natAbs ≤ ((m : Int) - c * 2 ^ k).natAbs := by
  have hhalf := roundNat_rn_within_half s m k
  generalize (roundNat .rn s m (-(k : Int)) : Int) = r at *
  have hpow : (2 : Int) ^ k = (2 ^ k : Nat) := (Int.natCast_pow 2 k).symm
  rw [hpow] at hhalf ⊢
  generalize 2 ^ k = p at *
  obtain hc | rfl | hc := Int.lt_trichotomy c r
  · have hstep : (c + 1) * p ≤ r * p := Int.mul_le_mul_of_nonneg_right hc (Int.natCast_nonneg p)
    rw [Int.add_mul, Int.one_mul] at hstep
    omega
  · exact Nat.le_refl _
  · have hstep : (r + 1) * p ≤ c * p := Int.mul_le_mul_of_nonneg_right hc (Int.natCast_nonneg p)
    rw [Int.add_mul, Int.one_mul] at hstep
    omega

/-- Rounding sees only the number m × 2^d, not how it is written. -/
theorem roundNat_mul_two_pow (s : Bool) (m d k : Nat) :
    roundNat .rn s (m * 2 ^ d) (-(k : Int)) = roundNat .rn false m (d - k) := by
  by_cases hdk : k ≤ d
  case pos =>
    obtain ⟨j, rfl⟩ := Nat.exists_eq_add_of_le' hdk
    have hpos : (0 : Int) ≤ (j + k : Nat) - k := by omega
    have hexp : (((j + k : Nat) : Int) - k).toNat = j := by omega
    have hsplit : m * 2 ^ (j + k) = m * 2 ^ j * 2 ^ k := by rw [Nat.pow_add, Nat.mul_assoc]
    simp only [roundNat, if_pos hpos, hexp, hsplit, Int.neg_neg, Int.toNat_natCast, Nat.mul_mod_left, if_true,
      Nat.mul_div_cancel _ (Nat.two_pow_pos k)]
    split
    case isTrue h0 =>
      have hk : k = 0 := by omega
      rw [hk, Int.natCast_zero, Int.neg_zero, Int.toNat_zero, Nat.pow_zero, Nat.mul_one, Nat.mul_one]
    case isFalse => rfl
  case neg =>
    obtain ⟨j, rfl⟩ := Nat.exists_eq_add_of_le' (Nat.le_of_not_le hdk)
    have hp : 0 < 2 ^ d := Nat.two_pow_pos d
    have hneg : ¬0 ≤ -((j + d : Nat) : Int) := by omega
    have hneg' : ¬0 ≤ (d : Int) - (j + d : Nat) := by omega
    have hexp : (-((d : Int) - (j + d : Nat))).toNat = j := by omega
    simp only [roundNat, if_neg hneg, if_neg hneg', hexp, Int.neg_neg, Int.toNat_natCast, Nat.pow_add,
      Nat.mul_div_mul_right _ _ hp, Nat.mul_mod_mul_right, Nat.mul_eq_zero, Nat.ne_of_gt hp, or_false, ← Nat.mul_assoc,
      Nat.mul_lt_mul_right hp]

/-! ### Rounding to binary32 -/

/-- The last place of binary32 for a magnitude of M units: its 24 leading bits stand at 2^k units and above, or all its
bits where it has fewer. -/
def lastPlace (M : Nat) : Nat := Nat.log2 M - 23

/-- A magnitude in units rounded to the last place. -/
def nearUnits (M : Nat) : Nat := roundNat .rn false M (-(lastPlace M : Int)) * 2 ^ lastPlace M

theorem lt_two_pow_lastPlace (M : Nat) : M < 2 ^ 24 * 2 ^ lastPlace M := by
  rw [← Nat.pow_add]
  exact Nat.lt_of_lt_of_le Nat.lt_log2_self (Nat.pow_le_pow_right (by decide) (by unfold lastPlace; omega))

theorem two_pow_lastPlace_le {M : Nat} (h : lastPlace M ≠ 0) : 2 ^ 23 * 2 ^ lastPlace M ≤ M := by
  have hlog : 23 + lastPlace M = Nat.log2 M := by unfold lastPlace at *; omega
  rw [← Nat.pow_add, hlog]
  exact Nat.log2_self_le (fun h0 => h (by rw [h0]; rfl))

theorem log2_mul_two_pow {m : Nat} (hm : m ≠ 0) (d : Nat) : Nat.log2 (m * 2 ^ d) = Nat.log2 m + d := by
  rw [Nat.log2_eq_iff (Nat.mul_ne_zero hm (Nat.ne_of_gt (Nat.two_pow_pos d))), Nat.add_right_comm, Nat.pow_add,
    Nat.pow_add]
  exact ⟨Nat.mul_le_mul_right _ (Nat.log2_self_le hm), Nat.mul_lt_mul_of_pos_right Nat.lt_log2_self (Nat.two_pow_pos d)⟩

/-- The code of a non-zero magnitude, by the exponent q of its last place (R84). -/
theorem magCode_eq (f : Fmt) (mode : RMode) (s : Bool) {m : Nat} {e q : Int} (hm : m ≠ 0)
    (hq : q = if expOf m e - f.mb < 1 - f.bias - f.mb then 1 - f.bias - f.mb else expOf m e - f.mb) :
    magCode f mode s m e = (q - (1 - f.bias - f.mb)).toNat * 2 ^ f.mb + roundNat mode s m (e - q) := by
  rw [hq]
  exact if_neg hm

/-- The magnitude code of M units: the last place in the exponent field, and the rounded quotient, whose leading bit
adds 1 to it. -/
def unitsCode (M : Nat) : Nat := lastPlace M * 2 ^ 23 + roundNat .rn false M (-(lastPlace M : Int))

/-- The magnitude code of a value on the grid, by its units. -/
theorem magCode_b32 (s : Bool) (m : Nat) {e : Int} (he : -149 ≤ e) :
    magCode b32 .rn s m e = unitsCode (m * 2 ^ (e + 149).toNat) := by
  obtain ⟨d, rfl⟩ : ∃ d : Nat, e = d - 149 := ⟨(e + 149).toNat, by omega⟩
  have hd : ((d : Int) - 149 + 149).toNat = d := by omega
  rw [hd, unitsCode, roundNat_mul_two_pow]
  by_cases hm : m = 0
  · subst hm
    rw [Nat.zero_mul, roundNat_rn_zero]
    rfl
  generalize hk : lastPlace (m * 2 ^ d) = k
  have hlast : k = Nat.log2 m + d - 23 := by rw [← hk, lastPlace, log2_mul_two_pow hm]
  have hq : (k : Int) - 149 = if expOf m (d - 149) - b32.mb < 1 - b32.bias - b32.mb then 1 - b32.bias - b32.mb
      else expOf m (d - 149) - b32.mb := by
    have hb : (b32.mb : Int) = 23 ∧ b32.bias = 127 := ⟨rfl, rfl⟩
    unfold expOf
    split <;> omega
  rw [magCode_eq b32 .rn s hm hq, show ((d : Int) - 149 - (k - 149)) = d - k by omega]
  have hplace : ((k : Int) - 149 - (1 - b32.bias - b32.mb)).toNat = k := by simp only [b32]; omega
  rw [hplace]
  rfl

/-! ### Codes of finite binary32 values -/

/-- A code at or below a format's greatest is its fraction, with a leading bit 2^mb where its exponent field is not 0. -/
theorem FV.decode_of_le {f : Fmt} {c : Nat} (h : c % 2 ^ (f.eb + f.mb) ≤ f.maxc) :
    FV.decode f c = .fin (c / 2 ^ (f.eb + f.mb) % 2 == 1)
      (c % 2 ^ (f.eb + f.mb) % 2 ^ f.mb + if c % 2 ^ (f.eb + f.mb) / 2 ^ f.mb = 0 then 0 else 2 ^ f.mb)
      (1 - f.bias - f.mb + (c % 2 ^ (f.eb + f.mb) / 2 ^ f.mb - 1 : Nat)) := by
  simp only [decode, if_neg (Nat.not_lt.2 h)]
  split
  case isTrue h0 => rw [h0, Nat.add_zero, Nat.zero_sub, Int.natCast_zero, Int.add_zero]
  case isFalse h0 =>
    generalize c % 2 ^ (f.eb + f.mb) / 2 ^ f.mb = ex at *
    congr 1 <;> omega

theorem FV.decode_b32 {c : Nat} (h : c % 2 ^ 31 < 0x7F800000) :
    FV.decode b32 c = .fin (c / 2 ^ 31 % 2 == 1)
      (c % 2 ^ 31 % 2 ^ 23 + if c % 2 ^ 31 / 2 ^ 23 = 0 then 0 else 2 ^ 23) (-149 + (c % 2 ^ 31 / 2 ^ 23 - 1 : Nat)) :=
  decode_of_le (f := b32) (Nat.le_of_lt_succ h)

theorem FV.decode_b32_onGrid {c : Nat} (h : c % 2 ^ 31 < 0x7F800000) : (FV.decode b32 c).OnGrid := by
  rw [decode_b32 h]
  exact Int.le_add_of_nonneg_right (Int.natCast_nonneg _)

theorem FV.decode_b32_units {c : Nat} (h : c % 2 ^ 31 < 0x7F800000) :
    (FV.decode b32 c).units = sgn (c / 2 ^ 31 % 2 == 1)
      ((c % 2 ^ 31 % 2 ^ 23 + if c % 2 ^ 31 / 2 ^ 23 = 0 then 0 else 2 ^ 23) * 2 ^ (c % 2 ^ 31 / 2 ^ 23 - 1)) := by
  have hexp (n : Nat) : (-149 + (n : Int) + 149).toNat = n := by omega
  rw [decode_b32 h, units_fin, hexp]

theorem withSign_b32_mod {c : Nat} (hc : c < 2 ^ 31) (s : Bool) : withSign b32 s c % 2 ^ 31 = c := by
  cases s with
  | false => exact Nat.mod_eq_of_lt hc
  | true => exact (Nat.add_mod_right c (2 ^ 31)).trans (Nat.mod_eq_of_lt hc)

theorem withSign_b32_sign {c : Nat} (hc : c < 2 ^ 31) (s : Bool) : (withSign b32 s c / 2 ^ 31 % 2 == 1) = s := by
  cases s with
  | false =>
    have hbit : c / 2 ^ 31 % 2 = 0 := by omega
    exact congrArg (· == 1) hbit
  | true =>
    have hbit : (c + 2 ^ 31) / 2 ^ 31 % 2 = 1 := by omega
    exact congrArg (· == 1) hbit

/-- The code k × 2^23 + r stands for r × 2^k units, the carry to r = 2^24 included. -/
theorem FV.decode_withSign_units (s : Bool) {k r : Nat} (hr : r ≤ 2 ^ 24) (hk : k ≠ 0 → 2 ^ 23 ≤ r)
    (hfin : k * 2 ^ 23 + r < 0x7F800000) :
    (FV.decode b32 (withSign b32 s (k * 2 ^ 23 + r))).units = sgn s (r * 2 ^ k) := by
  have hlt : k * 2 ^ 23 + r < 2 ^ 31 := by omega
  rw [decode_b32_units (by rwa [withSign_b32_mod hlt]), withSign_b32_mod hlt, withSign_b32_sign hlt]
  congr 1
  obtain hsub | hnorm | hcarry : r < 2 ^ 23 ∨ (2 ^ 23 ≤ r ∧ r < 2 ^ 24) ∨ r = 2 ^ 24 := by omega
  · have h0 : k = 0 := Decidable.not_not.1 fun h => Nat.not_le.2 hsub (hk h)
    have hex : r / 2 ^ 23 = 0 := by omega
    rw [h0, Nat.zero_mul, Nat.zero_add, hex, if_pos rfl, Nat.mod_eq_of_lt hsub, Nat.add_zero]
  · have hex : (k * 2 ^ 23 + r) / 2 ^ 23 = k + 1 := by omega
    have hfr : (k * 2 ^ 23 + r) % 2 ^ 23 + 2 ^ 23 = r := by omega
    rw [hex, if_neg k.succ_ne_zero, hfr, Nat.add_sub_cancel]
  · have hex : (k * 2 ^ 23 + r) / 2 ^ 23 = k + 1 + 1 := by omega
    have hfr : (k * 2 ^ 23 + r) % 2 ^ 23 = 0 := by omega
    have hpow : 2 ^ 23 * 2 ^ (k + 1) = 2 ^ 24 * 2 ^ k := by have hsucc := Nat.pow_succ (n := 2) (m := k); omega
    rw [hex, if_neg (k + 1).succ_ne_zero, hfr, Nat.add_sub_cancel, hcarry, Nat.zero_add, hpow]

/-! ### The integers binary32 holds -/

/-- An integer of units that is a finite binary32 value: 24 bits over a last place, none beyond the greatest. -/
def IsSingle (v : Int) : Prop := ∃ (a : Int) (i : Nat), a.natAbs < 2 ^ 24 ∧ i ≤ 253 ∧ v = a * 2 ^ i

theorem isSingle_decode_b32 {c : Nat} (h : c % 2 ^ 31 < 0x7F800000) : IsSingle (FV.decode b32 c).units := by
  rw [FV.decode_b32_units h]
  refine ⟨sgn (c / 2 ^ 31 % 2 == 1) (c % 2 ^ 31 % 2 ^ 23 + if c % 2 ^ 31 / 2 ^ 23 = 0 then 0 else 2 ^ 23),
    c % 2 ^ 31 / 2 ^ 23 - 1, ?_, by omega, by rw [← sgn_mul_natCast, Int.natCast_pow]; rfl⟩
  rw [natAbs_sgn]
  split <;> omega

theorem IsSingle.neg {v : Int} (h : IsSingle v) : IsSingle (-v) := by
  obtain ⟨a, i, ha, hi, rfl⟩ := h
  exact ⟨-a, i, by rwa [Int.natAbs_neg], hi, (Int.neg_mul ..).symm⟩

/-! ### Rounding in units -/

/-- An integer of units rounded to binary32's precision. -/
def roundUnits (v : Int) : Int := sgn (decide (v < 0)) (nearUnits v.natAbs)

theorem nearUnits_zero : nearUnits 0 = 0 := rfl

theorem roundUnits_sgn (s : Bool) (M : Nat) : roundUnits (sgn s M) = sgn s (nearUnits M) := by
  by_cases hM : M = 0
  · rw [hM, nearUnits_zero, sgn_zero]
    rfl
  · have hs : decide (sgn s M < 0) = s := by
      cases s with
      | false => exact decide_eq_false (Int.not_lt.2 (Int.natCast_nonneg M))
      | true => exact decide_eq_true (Int.neg_neg_of_pos (Int.natCast_pos.2 (Nat.pos_of_ne_zero hM)))
    rw [roundUnits, hs, natAbs_sgn]

/-- No value of the format is nearer to a magnitude than the rounded one: one with a last place as high is a multiple
of 2^k too, and one with a lower last place is below 2^(23 + k), which is such a multiple. -/
theorem nearUnits_nearest (M : Nat) {w : Int} (hw : IsSingle w) :
    ((M : Int) - nearUnits M).natAbs ≤ ((M : Int) - w).natAbs := by
  obtain ⟨a, i, ha, -, rfl⟩ := hw
  have hnear := roundNat_rn_nearest false M (lastPlace M)
  rw [nearUnits, Int.natCast_mul, Int.natCast_pow]
  by_cases hi : lastPlace M ≤ i
  case pos =>
    have hmul : a * 2 ^ i = a * 2 ^ (i - lastPlace M) * 2 ^ lastPlace M := by
      rw [Int.mul_assoc, ← Int.pow_add, Nat.sub_add_cancel hi]
    rw [hmul]
    exact hnear (a * 2 ^ (i - lastPlace M))
  case neg =>
    have hM : 2 ^ 23 * 2 ^ lastPlace M ≤ M := two_pow_lastPlace_le (by omega)
    have hlow : 2 ^ 24 * 2 ^ i ≤ 2 ^ 23 * 2 ^ lastPlace M := by
      rw [← Nat.pow_add, ← Nat.pow_add]
      exact Nat.pow_le_pow_right (by decide) (by omega)
    have hbound : a * 2 ^ i ≤ ((2 ^ 23 * 2 ^ lastPlace M : Nat) : Int) := calc
      a * 2 ^ i ≤ 2 ^ 24 * 2 ^ i := Int.mul_le_mul_of_nonneg_right (by omega) (Int.le_of_lt (Int.pow_pos (by decide)))
      _ = ((2 ^ 24 * 2 ^ i : Nat) : Int) := by rw [Int.natCast_mul, Int.natCast_pow 2 i]; rfl
      _ ≤ ((2 ^ 23 * 2 ^ lastPlace M : Nat) : Int) := Int.ofNat_le.2 hlow
    have hcast : ((2 ^ 23 * 2 ^ lastPlace M : Nat) : Int) = 2 ^ 23 * 2 ^ lastPlace M := by
      rw [Int.natCast_mul, Int.natCast_pow 2 (lastPlace M)]; rfl
    refine Nat.le_trans (hnear (2 ^ 23)) ?_
    rw [← hcast]
    omega

theorem roundUnits_nearest (v : Int) {w : Int} (hw : IsSingle w) : (v - roundUnits v).natAbs ≤ (v - w).natAbs := by
  obtain ⟨M, rfl | rfl⟩ := v.eq_nat_or_neg
  · rw [show roundUnits M = nearUnits M from roundUnits_sgn false M]
    exact nearUnits_nearest M hw
  · have hnear := nearUnits_nearest M hw.neg
    rw [show roundUnits (-M) = -nearUnits M from roundUnits_sgn true M]
    omega

theorem roundUnits_eq_self {v : Int} (hv : IsSingle v) : roundUnits v = v := by
  have hnear := roundUnits_nearest v hv
  omega

theorem nearUnits_eq_self_of_dvd {M : Nat} (h : 2 ^ lastPlace M ∣ M) : nearUnits M = M := by
  obtain ⟨c, hc⟩ := h
  have hnear := roundNat_rn_nearest false M (lastPlace M) c
  have hM : (M : Int) = c * 2 ^ lastPlace M := by
    rw [Int.mul_comm]
    exact_mod_cast hc
  have hround : (nearUnits M : Int) = roundNat .rn false M (-(lastPlace M : Int)) * 2 ^ lastPlace M := by
    rw [nearUnits, Int.natCast_mul, Int.natCast_pow]
    rfl
  rw [← hM, ← hround] at hnear
  omega

/-- Rounding keeps a magnitude a multiple of a power of two. -/
theorem two_pow_dvd_nearUnits {M i : Nat} (h : 2 ^ i ∣ M) : 2 ^ i ∣ nearUnits M := by
  obtain hi | hi := Nat.le_total i (lastPlace M)
  · exact Nat.dvd_mul_left_of_dvd (Nat.pow_dvd_pow 2 hi) _
  · rwa [nearUnits_eq_self_of_dvd (Nat.dvd_trans (Nat.pow_dvd_pow 2 hi) h)]

theorem two_pow_dvd_roundUnits {v : Int} {i : Nat} (h : 2 ^ i ∣ v) : 2 ^ i ∣ roundUnits v := by
  rw [← Int.natAbs_dvd_natAbs, Int.natAbs_pow] at h ⊢
  rw [roundUnits, natAbs_sgn]
  exact two_pow_dvd_nearUnits h

/-- The error of a rounded sum is a multiple of the operands' lesser last place, and no greater than the operand of that
last place, for the rounded sum is at least as near as the other operand: so it is a value of the format. -/
theorem isSingle_add_sub_roundUnits_of_le {a b : Int} {i j : Nat} (ha : a.natAbs < 2 ^ 24) (hi : i ≤ 253)
    (hb : b.natAbs < 2 ^ 24) (hj : j ≤ 253) (hij : i ≤ j) :
    IsSingle (a * 2 ^ i + b * 2 ^ j - roundUnits (a * 2 ^ i + b * 2 ^ j)) := by
  have hb' : (2 : Int) ^ i ∣ b * 2 ^ j := ⟨b * 2 ^ (j - i), by
    rw [Int.mul_left_comm, ← Int.pow_add, Nat.add_sub_cancel' hij]⟩
  have hdvd : (2 : Int) ^ i ∣ a * 2 ^ i + b * 2 ^ j := Int.dvd_add (Int.dvd_mul_left ..) hb'
  obtain ⟨d, hd⟩ := Int.dvd_sub hdvd (two_pow_dvd_roundUnits hdvd)
  have hnear := roundUnits_nearest (a * 2 ^ i + b * 2 ^ j) ⟨b, j, hb, hj, rfl⟩
  rw [Int.add_sub_cancel, hd, Int.mul_comm, Int.natAbs_mul, Int.natAbs_mul, Int.natAbs_pow] at hnear
  have hle : d.natAbs ≤ a.natAbs := Nat.le_of_mul_le_mul_right hnear (Nat.two_pow_pos i)
  exact ⟨d, i, Nat.lt_of_le_of_lt hle ha, hi, hd.trans (Int.mul_comm ..)⟩

theorem isSingle_add_sub_roundUnits {x y : Int} (hx : IsSingle x) (hy : IsSingle y) :
    IsSingle (x + y - roundUnits (x + y)) := by
  obtain ⟨a, i, ha, hi, rfl⟩ := hx
  obtain ⟨b, j, hb, hj, rfl⟩ := hy
  obtain hij | hij := Nat.le_total i j
  · exact isSingle_add_sub_roundUnits_of_le ha hi hb hj hij
  · rw [Int.add_comm]
    exact isSingle_add_sub_roundUnits_of_le hb hj ha hi hij

/-! ### Rounding to a code -/

theorem roundNat_lastPlace_le (M : Nat) : roundNat .rn false M (-(lastPlace M : Int)) ≤ 2 ^ 24 := by
  have hnear := roundNat_rn_nearest false M (lastPlace M) (2 ^ 24)
  have hlt : (M : Int) < 2 ^ 24 * 2 ^ lastPlace M := by exact_mod_cast lt_two_pow_lastPlace M
  have hle : (roundNat .rn false M (-(lastPlace M : Int)) : Int) * 2 ^ lastPlace M ≤ 2 ^ 24 * 2 ^ lastPlace M := by
    omega
  exact_mod_cast Int.le_of_mul_le_mul_right hle (Int.pow_pos (by decide))

theorem le_roundNat_lastPlace {M : Nat} (h : lastPlace M ≠ 0) :
    2 ^ 23 ≤ roundNat .rn false M (-(lastPlace M : Int)) := by
  have hnear := roundNat_rn_nearest false M (lastPlace M) (2 ^ 23)
  have hM : (2 ^ 23 * 2 ^ lastPlace M : Int) ≤ M := by exact_mod_cast two_pow_lastPlace_le h
  have hle : (2 : Int) ^ 23 * 2 ^ lastPlace M ≤ roundNat .rn false M (-(lastPlace M : Int)) * 2 ^ lastPlace M := by
    omega
  exact_mod_cast Int.le_of_mul_le_mul_right hle (Int.pow_pos (by decide))

theorem FV.decode_unitsCode_units (s : Bool) {M : Nat} (h : unitsCode M < 0x7F800000) :
    (FV.decode b32 (withSign b32 s (unitsCode M))).units = sgn s (nearUnits M) :=
  decode_withSign_units s (roundNat_lastPlace_le M) le_roundNat_lastPlace h

theorem unitsCode_lt_of_isSingle {M : Nat} (h : IsSingle M) : unitsCode M < 0x7F800000 := by
  have hexact : nearUnits M = M := Int.ofNat_inj.1 ((roundUnits_sgn false M).symm.trans (roundUnits_eq_self h))
  have hr : roundNat .rn false M (-(lastPlace M : Int)) < 2 ^ 24 :=
    Nat.lt_of_mul_lt_mul_right (Nat.lt_of_le_of_lt (Nat.le_of_eq hexact) (lt_two_pow_lastPlace M))
  have hk : lastPlace M ≤ 253 := Decidable.not_not.1 fun hbig => by
    obtain ⟨a, i, ha, hi, hM⟩ := h
    have hMa : M = a.natAbs * 2 ^ i := by
      rw [← Int.natAbs_natCast M, hM, Int.natAbs_mul, Int.natAbs_pow]
      rfl
    have hlt : M < 2 ^ 24 * 2 ^ 253 :=
      hMa ▸ Nat.mul_lt_mul_of_lt_of_le ha (Nat.pow_le_pow_right (by decide) hi) (Nat.two_pow_pos 253)
    have hle : 2 ^ 23 * 2 ^ 254 ≤ M :=
      Nat.le_trans (Nat.mul_le_mul_left _ (Nat.pow_le_pow_right (by decide) (by omega))) (two_pow_lastPlace_le (by omega))
    omega
  unfold unitsCode
  omega

/-- The code of a rounded value on the grid: the infinity's, where the magnitude's is past the greatest. -/
theorem r32_fin (s : Bool) (m : Nat) {e : Int} (he : -149 ≤ e) :
    r32 .rn (.fin s m e) = withSign b32 s
      (if 0x7F7FFFFF < unitsCode (m * 2 ^ (e + 149).toNat) then 0x7F800000 else unitsCode (m * 2 ^ (e + 149).toNat)) := by
  simp only [r32, roundIeee, magCode_b32 s m he]
  rfl

theorem r32_lt {v : FV} (hv : v.OnGrid) : r32 .rn v < 2 ^ 32 := by
  obtain ⟨s, m, e, rfl, he⟩ := hv.exists_fin
  rw [r32_fin s m he]
  simp only [withSign, b32]
  split <;> split <;> omega

theorem decode_r32_units {v : FV} (hv : v.OnGrid) (h : r32 .rn v % 2 ^ 31 < 0x7F800000) :
    (FV.decode b32 (r32 .rn v)).units = roundUnits v.units := by
  obtain ⟨s, m, e, rfl, he⟩ := hv.exists_fin
  rw [FV.units_fin, roundUnits_sgn]
  rw [r32_fin s m he] at h ⊢
  split at h
  case isTrue => rw [withSign_b32_mod (by decide)] at h; exact absurd h (by decide)
  case isFalse hc =>
    rw [if_neg hc]
    exact FV.decode_unitsCode_units s (by omega)

theorem r32_finite_of_isSingle {v : FV} (hv : v.OnGrid) (h : IsSingle v.units) : r32 .rn v % 2 ^ 31 < 0x7F800000 := by
  obtain ⟨s, m, e, rfl, he⟩ := hv.exists_fin
  rw [FV.units_fin] at h
  have hlt : unitsCode (m * 2 ^ (e + 149).toNat) < 0x7F800000 := unitsCode_lt_of_isSingle (by
    cases s
    · exact h
    · simpa [sgn] using h.neg)
  rw [r32_fin s m he, if_neg (by omega), withSign_b32_mod (by omega)]
  exact hlt

/-! ### The error of a rounded value -/

/-- A value less its rounded one, exactly. -/
def roundError (v : FV) : FV := FV.add .rn v (FV.decode b32 (r32 .rn v)).neg

theorem roundError_onGrid {v : FV} (hv : v.OnGrid) (h : r32 .rn v % 2 ^ 31 < 0x7F800000) : (roundError v).OnGrid :=
  (hv.add (FV.decode_b32_onGrid h).neg).1

theorem roundError_units {v : FV} (hv : v.OnGrid) (h : r32 .rn v % 2 ^ 31 < 0x7F800000) :
    (roundError v).units = v.units - roundUnits v.units := by
  have hs := FV.decode_b32_onGrid h
  rw [roundError, (hv.add hs.neg).2, hs.units_neg, decode_r32_units hv h, Int.sub_eq_add_neg]

/-- The error of a sum of two values of the format has a finite code, and that code stands for it exactly. -/
theorem r32_roundError {v : FV} {a b : Int} (hv : v.OnGrid) (h : r32 .rn v % 2 ^ 31 < 0x7F800000)
    (ha : IsSingle a) (hb : IsSingle b) (hsum : v.units = a + b) :
    r32 .rn (roundError v) % 2 ^ 31 < 0x7F800000 ∧
      (FV.decode b32 (r32 .rn (roundError v))).units = v.units - roundUnits v.units := by
  have hgrid := roundError_onGrid hv h
  have hsingle : IsSingle (roundError v).units := by
    rw [roundError_units hv h, hsum]
    exact isSingle_add_sub_roundUnits ha hb
  have hfin := r32_finite_of_isSingle hgrid hsingle
  exact ⟨hfin, by rw [decode_r32_units hgrid hfin, roundUnits_eq_self hsingle, roundError_units hv h]⟩

/-! ### The lane function of `twosum` -/

theorem FV.decode_b32_mod (c : Nat) : FV.decode b32 (c % 2 ^ 32) = FV.decode b32 c := by
  have hsign : c % 2 ^ 32 / 2 ^ (b32.eb + b32.mb) % 2 = c / 2 ^ (b32.eb + b32.mb) % 2 := by simp only [b32]; omega
  have hmag : c % 2 ^ 32 % 2 ^ (b32.eb + b32.mb) = c % 2 ^ (b32.eb + b32.mb) := by simp only [b32]; omega
  simp only [decode, hsign, hmag]

theorem f32_w32 (c : Nat) : f32 (w32 c) = FV.decode b32 c := by
  have hlo : lo32 (w32 c) = c % 2 ^ 32 := by simp only [lo32, w32, BitVec.toNat_ofNat]; omega
  rw [f32, hlo, FV.decode_b32_mod]

theorem finite32_w32 (c : Nat) : Finite32 (w32 c) ↔ c % 2 ^ 31 < 0x7F800000 := by
  have hmod : c % 2 ^ 64 % 2 ^ 31 = c % 2 ^ 31 := by omega
  rw [Finite32, w32, BitVec.toNat_ofNat, hmod]

theorem lo32_finite {x : Word} (h : Finite32 x) : lo32 x % 2 ^ 31 < 0x7F800000 := by
  unfold Finite32 at h
  unfold lo32
  omega

theorem f32_onGrid {x : Word} (h : Finite32 x) : (f32 x).OnGrid := FV.decode_b32_onGrid (lo32_finite h)

theorem isSingle_f32 {x : Word} (h : Finite32 x) : IsSingle (f32 x).units := isSingle_decode_b32 (lo32_finite h)

theorem w32_eq_iff {c d : Nat} (hc : c < 2 ^ 32) (hd : d < 2 ^ 32) : w32 c = w32 d ↔ c = d := by
  rw [w32, w32, ← BitVec.toNat_inj, BitVec.toNat_ofNat, BitVec.toNat_ofNat, Nat.mod_eq_of_lt (by omega),
    Nat.mod_eq_of_lt (by omega)]

/-- An error code with +0 in place of −0 (R128). -/
def plusZero (c : Nat) : Nat := if c = 0x80000000 then 0 else c

theorem decode_plusZero_units (c : Nat) : (FV.decode b32 (plusZero c)).units = (FV.decode b32 c).units := by
  unfold plusZero
  split
  case isTrue h => rw [h]; rfl
  case isFalse => rfl

theorem plusZero_finite {c : Nat} (h : c % 2 ^ 31 < 0x7F800000) : plusZero c % 2 ^ 31 < 0x7F800000 := by
  unfold plusZero
  split <;> omega

theorem w32_plusZero_ne {c : Nat} (h : c < 2 ^ 32) : w32 (plusZero c) ≠ 0x80000000 := by
  have hlt : plusZero c < 2 ^ 32 := by unfold plusZero; split <;> omega
  have hne : plusZero c ≠ 0x80000000 := by unfold plusZero; split <;> omega
  exact mt (w32_eq_iff hlt (by decide)).1 hne

theorem twosumLane_fst (x y : Word) : (twosumLane x y).1 = w32 (r32 .rn (FV.add .rn (f32 x) (f32 y))) := by
  simp only [twosumLane, twoOf]
  split <;> rfl

theorem twosumLane_snd {x y : Word} (h : r32 .rn (FV.add .rn (f32 x) (f32 y)) % 2 ^ 31 < 0x7F800000) :
    (twosumLane x y).2 = w32 (plusZero (r32 .rn (roundError (FV.add .rn (f32 x) (f32 y))))) := by
  simp only [twosumLane, twoOf, roundError, plusZero, FV.decode_b32 h]

/-- Settles O17: in units of 2^−149 the code of the sum stands for the exact sum rounded, and the code of the error for the
exact sum less that, so the two are together the exact sum. -/
theorem twosumIsExact : Obligations.TwosumIsExact := by
  unfold Obligations.TwosumIsExact
  intro x y hx hy hsum
  obtain ⟨hgrid, hunits⟩ := (f32_onGrid hx).add (f32_onGrid hy)
  rw [twosumLane_fst, finite32_w32] at hsum
  rw [twosumLane_snd hsum, twosumLane_fst, f32_w32, f32_w32, finite32_w32]
  generalize FV.add .rn (f32 x) (f32 y) = v at *
  obtain ⟨hfin, herr⟩ := r32_roundError hgrid hsum (isSingle_f32 hx) (isSingle_f32 hy) hunits
  refine ⟨plusZero_finite hfin, w32_plusZero_ne (r32_lt (roundError_onGrid hgrid hsum)), ?_⟩
  obtain ⟨htotal, htotalUnits⟩ :=
    (FV.decode_b32_onGrid hsum).add (FV.decode_b32_onGrid (plusZero_finite hfin))
  refine htotal.cmp_eq_zero hgrid ?_
  rw [htotalUnits, decode_plusZero_units, herr, decode_r32_units hgrid hsum, Int.add_comm, Int.sub_add_cancel]

end Sys2Proof.Machine
end

section
/-! The software trap (R356). Its word raises the trap of class 7, whose entry writes the frame run by run; no run after
EPC's reaches back over it, so EPC reads as the next word, and an `eret` goes on where EPC stands. A word with a field that
must be zero does not decode, and its guard bits select the lanes that the illegal-class trap marks. -/

namespace Sys2Proof.Machine

/-! ### Words of memory read back -/

theorem length_leBytes (n v : Nat) : (leBytes n v).length = n := by
  induction n generalizing v with
  | zero => rfl
  | succ n ih => rw [leBytes, List.length_cons, ih]

theorem leNat_leBytes (n v : Nat) : leNat (leBytes n v) = v % 256 ^ n := by
  induction n generalizing v with
  | zero => rw [Nat.pow_zero, Nat.mod_one]; rfl
  | succ n ih =>
    rw [leBytes, leNat, ih, BitVec.toNat_ofNat, show 256 ^ (n + 1) = 256 * 256 ^ n from Nat.pow_succ', Nat.mod_mul]

theorem Mem.bytes_eq_of_get {m : Memory} {a : Nat} {bs : List Byte}
    (h : ∀ i, i < bs.length → Mem.get m (a + i) = bs.getD i 0) : Mem.bytes m a bs.length = bs := by
  induction bs generalizing a with
  | nil => rfl
  | cons b r ih =>
    have hhead : Mem.get m a = b := h 0 (Nat.succ_pos _)
    have htail : Mem.bytes m (a + 1) r.length = r := ih fun i hi => by
      rw [Nat.add_assoc, Nat.add_comm 1 i, h (i + 1) (Nat.succ_lt_succ hi), List.getD_cons_succ]
    rw [List.length_cons, Mem.bytes, hhead, htail]

/-- Memory that holds a word's eight bytes reads as the word. -/
theorem Mem.word_eq_of_get {m : Memory} {a : Nat} {v : Word}
    (h : ∀ i, i < 8 → Mem.get m (a + i) = (leBytes 8 v.toNat).getD i 0) : Mem.word m a = v := by
  have hbytes : Mem.bytes m a 8 = leBytes 8 v.toNat :=
    Mem.bytes_eq_of_get (bs := leBytes 8 v.toNat) fun i hi => h i (length_leBytes 8 v.toNat ▸ hi)
  rw [Mem.word, Mem.read, hbytes, leNat_leBytes, show 256 ^ 8 = 2 ^ 64 from rfl, Nat.mod_eq_of_lt v.isLt, BitVec.ofNat_toNat,
    BitVec.setWidth_eq]

/-! ### The runs of a trap frame (R351 to R353) -/

theorem writeRuns_cons (m : Memory) (base : Nat) (r : Nat × List Byte) (rs : List (Nat × List Byte)) :
    writeRuns m base (r :: rs) = writeRuns (Mem.setBytes m (base + r.1) r.2) base rs := rfl

theorem writeRuns_append (m : Memory) (base : Nat) (rs qs : List (Nat × List Byte)) :
    writeRuns m base (rs ++ qs) = writeRuns (writeRuns m base rs) base qs := List.foldl_append

theorem wf_writeRuns {m : Memory} (base : Nat) (rs : List (Nat × List Byte)) (hm : Mem.wf m = true) :
    Mem.wf (writeRuns m base rs) = true :=
  Mem.wf_foldl _ (fun _ r h => Mem.wf_setBytes (base + r.1) r.2 h) rs hm

/-- Runs that begin above an address leave it alone. -/
theorem get_writeRuns_of_lt {m : Memory} {base a : Nat} {rs : List (Nat × List Byte)} (hm : Mem.wf m = true)
    (h : ∀ r ∈ rs, a < base + r.1) : Mem.get (writeRuns m base rs) a = Mem.get m a := by
  induction rs generalizing m with
  | nil => rfl
  | cons r rs ih =>
    obtain ⟨hr, hrs⟩ := List.forall_mem_cons.1 h
    rw [writeRuns_cons, ih (Mem.wf_setBytes _ _ hm) hrs, Mem.get_setBytes hm, if_neg (by omega)]

/-- A word's run reads back when every later run begins past it. -/
theorem word_writeRuns {m : Memory} {base o : Nat} {v : Word} {before after : List (Nat × List Byte)}
    (hm : Mem.wf m = true) (h : ∀ r ∈ after, o + 8 ≤ r.1) :
    Mem.word (writeRuns m base (before ++ (o, leBytes 8 v.toNat) :: after)) (base + o) = v := by
  have hb : Mem.wf (writeRuns m base before) = true := wf_writeRuns base before hm
  refine Mem.word_eq_of_get fun i hi => ?_
  have hpast : ∀ r ∈ after, base + o + i < base + r.1 := fun r hr => by
    have := h r hr
    omega
  rw [writeRuns_append, writeRuns_cons, get_writeRuns_of_lt (Mem.wf_setBytes _ _ hb) hpast, Mem.get_setBytes hb,
    if_pos (by rw [length_leBytes]; omega), Nat.add_sub_cancel_left]

/-- EPC is one run of the saved state, and what is written after it lies past it. -/
theorem frameRuns_split (t : Team) (epc : Word) : ∃ before after,
    frameRuns t epc = before ++ (0x22000, leBytes 8 epc.toNat) :: after ∧ ∀ r ∈ after, 0x22000 + 8 ≤ r.1 := by
  refine ⟨_, _, List.append_assoc .., List.forall_mem_append.2 ⟨?fixed, ?predicates⟩⟩
  case fixed => simp
  case predicates =>
    intro r hr
    obtain ⟨n, -, rfl⟩ := List.mem_map.1 hr
    show 0x22000 + 8 ≤ 0x22140 + 128 * n
    omega

/-! ### Taking a trap and leaving a handler with nothing outstanding (R354, R357) -/

theorem State.settlePend_of {s : State} {t : Team} (ht : s.team? t.id = some t) (hp : t.pend = []) :
    s.settlePend t.id = s := by
  rw [State.settlePend, ht]
  dsimp only
  rw [hp]
  rfl

theorem State.settleEntries_of {s : State} {t : Team} (ht : s.team? t.id = some t)
    (hw : ∀ e ∈ (s.core t.coreKey).wbuf, e.team ≠ t.id) (f : WbEntry → Bool) : s.settleEntries t.id f = s := by
  have hnone : (s.core t.coreKey).wbuf.filter (fun e => e.team == t.id && f e) = [] := by
    rw [List.filter_eq_nil_iff]
    intro e he
    simp [hw e he]
  rw [State.settleEntries, ht]
  dsimp only
  rw [hnone]
  rfl

/-- A trap outside a handler and a transaction clears the frame and writes its runs, EPC the pc, or the next word for
class 7. -/
theorem State.takeTrap_mem {s : State} {t : Team} (ht : s.team? t.id = some t) (hp : t.pend = []) (hx : t.tx.live = false)
    (hh : t.ctl.inHandler = false) (i : TrapInfo) :
    (s.takeTrap t.id i).mem = writeRuns (Mem.clear s.mem t.frameBase (t.frameBase + 0x40000)) t.frameBase
      (sideRuns i t.nlane ++ frameRuns t (if i.cls = 7 then t.ctl.pc + 4 else t.ctl.pc)) := by
  simp only [State.takeTrap, State.settlePend_of ht hp, ht, hx, hh, Bool.false_eq_true, if_false, Bool.not_false,
    Bool.true_and, beq_iff_eq, State.putTeam_mem]

/-- The frame's EPC after a trap outside a handler and a transaction. -/
theorem State.takeTrap_epc {s : State} {t : Team} (ht : s.team? t.id = some t) (hp : t.pend = []) (hx : t.tx.live = false)
    (hh : t.ctl.inHandler = false) (hm : s.memOk) (i : TrapInfo) :
    Mem.word (s.takeTrap t.id i).mem (t.frameBase + 0x22000) = if i.cls = 7 then t.ctl.pc + 4 else t.ctl.pc := by
  obtain ⟨before, after, hsplit, hpast⟩ := frameRuns_split t (if i.cls = 7 then t.ctl.pc + 4 else t.ctl.pc)
  rw [State.takeTrap_mem ht hp hx hh, hsplit, ← List.append_assoc]
  exact word_writeRuns (Mem.wf_clear _ _ hm) hpast

/-- A return that R357 does not refuse changes the team only, and goes on at the frame's EPC. -/
theorem State.leaveHandler_pc {s : State} {t : Team} {epc es : Word} (ht : s.team? t.id = some t) (hp : t.pend = [])
    (hw : ∀ e ∈ (s.core t.coreKey).wbuf, e.team ≠ t.id) (hepc : s.frameWord t 0x22000 = epc)
    (hes : s.frameWord t 0x22008 = es) (haligned : epc.extractLsb' 0 2 = 0)
    (hlevel : (es.extractLsb' 0 2).toNat ≤ 1 ∨ 2 ≤ t.ctl.priv) (hhigh : es.extractLsb' 16 48 = 0)
    (hlow : es.extractLsb' 2 6 = 0) (hdepth : (es.extractLsb' 11 5).toNat = t.ctl.stack.length) :
    ∃ t', s.leaveHandler t.id = s.putTeam t' ∧ t'.ctl.pc = epc := by
  have hlevel' : ¬(1 < (es.extractLsb' 0 2).toNat ∧ t.ctl.priv < 2) := by omega
  simp only [State.leaveHandler, State.settlePend_of ht hp, State.settleEntries_of ht hw, ht, hepc, hes, haligned, hlevel',
    hhigh, hlow, hdepth, ne_eq, not_true_eq_false, or_false, if_false]
  exact ⟨_, rfl, rfl⟩

/-! ### Words of opcode 0xF6 (R33, R38, R356) -/

theorem opcode_toNat (w : Code) : w.toNat / 2 ^ 24 = (w.extractLsb' 24 8).toNat := by
  rw [BitVec.extractLsb'_toNat, Nat.shiftRight_eq_div_pow]
  omega

theorem decode_opcode_trap {w : Code} (h : w.extractLsb' 24 8 = 0xF6) :
    decode w = (do let g ← gOf w; zero? (bits w 14 6); return .trap g (bits w 0 14)) := by
  have hop : w.toNat / 2 ^ 24 = 0xF6 := by rw [opcode_toNat, h]; rfl
  have hhi : (bits w 28 4).toNat = 0xF := by
    rw [bits, BitVec.extractLsb'_toNat, Nat.shiftRight_eq_div_pow]
    omega
  have hlo : (bits w 24 4).toNat = 0x6 := by
    rw [bits, BitVec.extractLsb'_toNat, Nat.shiftRight_eq_div_pow]
    omega
  rw [decode, hhi, hlo]
  rfl

theorem decode_trap_field_error {w : Code} (h : w.extractLsb' 24 8 = 0xF6) (hd : w.extractLsb' 14 6 ≠ 0) :
    ∃ e, decode w = .error e := by
  have hzero : zero? (bits w 14 6) = .error .field := if_neg hd
  rw [decode_opcode_trap h, hzero]
  cases gOf w with
  | error e => exact ⟨e, rfl⟩
  | ok g => exact ⟨.field, rfl⟩

theorem getLsbD_three (c : BitVec 4) : c.getLsbD 3 = decide (8 ≤ c.toNat) := by
  revert c
  decide

/-- The lanes that a guard code selects: bit 3 negates the predicate of the low bits, and low bits 7 select every lane. -/
theorem enabled_and_cond_of_decGuard {c : BitVec 4} {g : Guard} (t : Team) (h : decGuard c = .ok g) :
    t.enabled &&& t.cond g = if c.toNat % 8 = 7 then t.enabled
      else t.enabled &&& (if c.getLsbD 3 then ~~~(t.p (c.toNat % 8)) else t.p (c.toNat % 8)) := by
  have hbit : c.getLsbD 3 = decide (8 ≤ c.toNat) := getLsbD_three c
  unfold decGuard at h
  split at h
  case isTrue hpos =>
    obtain rfl : Guard.when ⟨c.toNat, hpos⟩ = g := Except.ok.inj h
    have hmod : c.toNat % 8 = c.toNat := by omega
    rw [hmod, hbit, if_neg (by omega), decide_eq_false (by omega)]
    rfl
  case isFalse =>
    split at h
    case isTrue hneg =>
      obtain rfl := Except.ok.inj h
      have hmod : c.toNat % 8 = c.toNat - 8 := by omega
      rw [hmod, hbit, if_neg (by omega), decide_eq_true hneg.1]
      rfl
    case isFalse =>
      split at h
      case isTrue hall =>
        obtain rfl := Except.ok.inj h
        rw [hall, if_pos rfl]
        exact BitVec.and_allOnes
      case isFalse => cases h

theorem State.illegalWord_opcode_trap {s : State} {t : Team} {w : Code} {g : Guard} (h : w.extractLsb' 24 8 = 0xF6)
    (ht : s.curTeam? = some t) (hg : gOf w = .ok g) (hact : t.enabled &&& t.cond g ≠ 0) :
    s.illegalWord w = s.trapAt t 0xF6 0 0x01 (t.enabled &&& t.cond g) := by
  have hop : w.toNat / 2 ^ 24 = 0xF6 := by rw [opcode_toNat, h]; rfl
  have hlanes := enabled_and_cond_of_decGuard t hg
  rw [bits] at hlanes
  rw [hlanes] at hact ⊢
  have hnonzero : ¬(0xF6 = 0) := by decide
  simp only [State.illegalWord, ht, hop, hnonzero, Nat.reduceEqDiff, Nat.reduceLeDiff, and_false, or_false, false_or,
    if_false]
  rw [if_neg hact]

/-! ### What `trap` and `eret` do -/

theorem Issues.team? {s : State} {sh : Shape} {t : Team} (h : Issues s sh t) : s.team? t.id = some t := by
  rw [State.curTeam?_id h.1]
  exact h.1

theorem exec_trap_of_issues {g : Guard} {c : BitVec 14} {s : State} {t : Team}
    (h : Issues s { op := 0xF6, sel := .guard g } t) : exec (.trap g c) s =
      .next (s.trapAt t 0xF6 7 c.toNat (({ op := 0xF6, sel := .guard g } : Shape).active t)) :=
  State.run_of (fun s x => s.trapAll x 7 c.toNat) h

theorem exec_eret_of_inHandler {s : State} {t : Team} (h : Issues s { op := 0xF7, sel := .enabled } t)
    (hh : t.ctl.inHandler = true) : exec .eret s = .next (s.leaveHandler t.id) := by
  have hrun : exec .eret s = .next (if !t.ctl.inHandler then s.trapAt t 0xF7 0 0x01 t.enabled else s.leaveHandler t.id) :=
    State.run_of (fun s x => if !x.t.ctl.inHandler then s.trapAll x 0 0x01 else s.leaveHandler x.t.id) h
  rw [hrun, hh]
  rfl

/-- The word after an aligned one is aligned (R30). -/
theorem extractLsb_two_add_four {n : Word} (h : n.extractLsb' 0 2 = 0) : (n + 4).extractLsb' 0 2 = 0 := by
  rw [← BitVec.setWidth_eq_extractLsb' (by decide)] at h ⊢
  rw [BitVec.setWidth_add _ _ (by decide), h]
  rfl

/-- Settles O25: the word's effect is the trap itself, EPC is read back from the frame's runs, and the return goes to the
frame's EPC. -/
theorem softwareTrap : Obligations.SoftwareTrap := by
  unfold Obligations.SoftwareTrap
  refine ⟨fun g c s t h => ⟨exec_trap_of_issues h, Nat.le_of_lt_succ c.isLt, fun hm hp hx hh _ => ?epc⟩,
    ?eret, ?word, rfl⟩
  case epc => exact ⟨_, exec_trap_of_issues h, State.takeTrap_epc h.team? hp hx hh hm _⟩
  case eret =>
    rintro s t n h hp hw hh hepc hn es rfl hlevel hhigh hlow hdepth
    obtain ⟨t', hleave, hpc⟩ :=
      State.leaveHandler_pc h.team? hp hw hepc rfl (extractLsb_two_add_four hn) hlevel hhigh hlow hdepth
    exact ⟨t', (exec_eret_of_inHandler h hh).trans (congrArg _ hleave), hpc⟩
  case word =>
    exact fun w hop hd => ⟨decode_trap_field_error hop hd,
      fun s t g ht hg hact => State.illegalWord_opcode_trap hop ht hg hact⟩

end Sys2Proof.Machine
end
